-- ==== Sys2Proof/Word.lean ====
section
/-! DEFINITION. The word types of Elium Kwainalyn (00_scope R2, R3): bytes, the 32-bit words of
registers and instructions, and the 64-bit values of pairs, literals and addresses. -/

namespace Sys2Proof

/-- A byte of memory. -/
abbrev Byte := BitVec 8

/-- A 32-bit word: an item register, a uniform register, a code word. -/
abbrev Word := BitVec 32

/-- A 64-bit value: a register pair, a literal of LEN 11, a virtual address (R26, R38, R68). -/
abbrev DWord := BitVec 64

end Sys2Proof
end

