-- ==== Sys2Proof/Syntax.lean ====
section
/-! DEFINITION. The operations and events of Elium Kwainalyn: one constructor of `Instr` for each row of
opcode_table.json. Rows 0 to 184 are instruction encodings (02_instruction_words); the rest are the device's
own steps and what the host, peers and firmware do to it (95_what_each_step_holds), which no code word encodes. -/

namespace Sys2Proof

/-- Fields of a two-source general base word, LEN 00 (R29). -/
structure BaseOps where
  d : BitVec 7
  a : BitVec 7
  alr : Bool
  b : BitVec 7
  blr : Bool
  bk : Bool
  deriving DecidableEq, Repr

/-- Fields of a two-source base word with a literal B, LEN 01 (R31). -/
structure BaseLit where
  d : BitVec 7
  a : BitVec 7
  alr : Bool
  lit : Word
  deriving DecidableEq, Repr

/-- Fields of a single-source base word, LEN 00: the source stands in B (R30). -/
structure Base1 where
  d : BitVec 7
  b : BitVec 7
  blr : Bool
  bk : Bool
  deriving DecidableEq, Repr

/-- Fields of a single-source base word with a literal (R30, R31). -/
structure Base1Lit where
  d : BitVec 7
  lit : Word
  deriving DecidableEq, Repr

/-- Fields of an F20 word (R32): `imm` is bits 31 to 12 of the constant. -/
structure F20Word where
  d : BitVec 4
  imm : BitVec 20
  deriving DecidableEq, Repr

/-- Fields of a clause header (R45). -/
structure ClauseWord where
  wait : BitVec 12
  setA : BitVec 4
  setB : BitVec 4
  rgn : Bool
  yld : Bool
  deriving DecidableEq, Repr

/-- Two-source arithmetic base majors 0x01 to 0x1A (R33). -/
inductive Op2 where
  | iadd | isub | imul | imulh | imin | imax | and | or | xor | andn | shl | shr | sar | rol
  | lea1 | lea2 | lea3 | fadd | fmul | ffmaDm | ffmaAcc | fmin | fmax | padd16 | pmul16 | pfma16Acc
  deriving DecidableEq, Repr

/-- Single-source base majors 0x1B to 0x1F (R33). -/
inductive Op1 where
  | mov | popc | clz | brev | not
  deriving DecidableEq, Repr

/-- F20 majors 0x30 to 0x34 (R33). -/
inductive OpF where
  | fadd | fmul | fmin | fmax | fmov
  deriving DecidableEq, Repr

/-- Memory base majors 0x20 to 0x22 (R33). -/
inductive OpM where
  | ld | st | ldq
  deriving DecidableEq, Repr

/-- The word of a pair's slot (R42). -/
inductive Slot where
  | two (op : Op2) (f : BaseOps)
  | one (op : Op1) (f : Base1)
  | f20 (op : OpF) (f : F20Word)
  | mem (op : OpM) (f : BaseOps)
  deriving DecidableEq, Repr

/-- Fields of a pair (R41): its guard and its two slots. -/
structure PairWord where
  guard : BitVec 7
  neg : Bool
  span : Slot
  strand : Slot
  deriving DecidableEq, Repr

/-- Fields of an extended instruction (R34); the opcode OPX is the constructor's, and LEN is 11 exactly when
`lit` holds the 64-bit literal of word3 and word4. -/
structure Ext where
  guard : BitVec 7
  neg : Bool
  alr : Bool
  blr : Bool
  clr : Bool
  mod : BitVec 9
  d : BitVec 8
  a : BitVec 8
  b : BitVec 8
  c : BitVec 8
  imm : Word
  lit : Option DWord
  deriving DecidableEq, Repr

/-- Who writes a register: the host through a VF or PF0, the slice's command processor, the slice's Curator,
or the fabric manager through a Curator (R85, R393, R476, R477, R500). -/
inductive Writer where
  | host | cmd | curator | fabric
  deriving DecidableEq, Repr

/-- One step of bring-up as it went (R485, R486): passed, failed, or cut short by a reset. -/
inductive StepResult where
  | passed | failed | cut
  deriving DecidableEq, Repr

/-- What a firmware push meets (R484, R485): whether the image could be read and its signature is good, the part's
fused configuration without the stacks whose base die did not come up at step 1, and the result of each step 1 to 38 by the method used. -/
structure FirmwareImage where
  readable : Bool
  signed : Bool
  fields : BitVec 4
  clusters : List (BitVec 21)
  stackMask : BitVec 16
  results : List StepResult
  deriving DecidableEq, Repr

/-- The answer that arrives for a load or an atomic: the home's own data, data a peer sent, a refusal by the peer,
a link that went down or stayed parked, or poison carried by the link (R65, R84, R323, R471, R474). -/
inductive Answer where
  | home
  | data (bytes : List Byte)
  | refused
  | linkDown
  | linkParked
  | poison
  deriving DecidableEq, Repr

/-- How the links carried a copy (R126): it went through, a link was down, it stayed parked 40 ms, a peer
refused it, or a peer delivered these bytes, with the link's poison indication for some 32-B sectors of them (R84). -/
inductive LinkResult where
  | ok
  | down
  | parked
  | refused
  | peer (bytes : List Byte) (poison : List Nat)
  deriving DecidableEq, Repr

/-- What a peer asks of the home's atomic service unit (R100, R337, R340, R374, R383): an operation with its operands in the bytes
sent, a `cas128`, an addition to a signal, the making of a counted barrier, `k` arrivals at one with the BARLOG2 of their launch
(R376), a wait at a counted barrier or a signal, the end of a wait at a signal for this value, which has timed out there (R376), or the
breaking of an object by an item that has been ended there (R375). -/
inductive PeerAtomic where
  | plain (op : Nat) (uns w64 ftz : Bool)
  | cas128
  | sigs (v : Word)
  | barinit (n : Nat)
  | barr (k barLog : Nat)
  | barw (tok : Word)
  | sigw (v : Word)
  | sigwEnd (v : Word)
  | brk (cause : Nat) (signal : Bool)
  deriving DecidableEq, Repr

/-- A peer package's access to this package (R65, R101, R465): the home slice, the requester's pod package number
and slice, the offset within the home slice and the length, for an atomic or reduction what it asks, and for
a write whether its bytes carry the link's poison indication (R84). -/
structure PeerAccess where
  home : Nat
  pkg : Nat
  slice : Nat
  off : Nat
  len : Nat
  atomic : Option PeerAtomic
  poison : Bool := false
  deriving DecidableEq, Repr

/-- A host snoop of a host line held in L2 (R100, R460): for its data, to share it, or to invalidate it. -/
inductive SnoopKind where
  | current | share | invalidate
  deriving DecidableEq, Repr

/-- A change under R479: of a field's operating point in MHz, or of a core's divider n. -/
inductive PointChange where
  | field (f mhz : Nat)
  | core (core n : Nat)
  deriving DecidableEq, Repr

/-- The group a phase belongs to: a run-time group record by core and slot, or a cohort (R366, R370). -/
inductive GroupRef where
  | record (core slot : Nat)
  | cohort (launch number : Nat)
  deriving DecidableEq, Repr

/-- The algorithms an SPDM requester offers that matter to R441. -/
structure SpdmOffer where
  ed25519 : Bool
  sha512 : Bool
  secp384r1 : Bool
  aes256gcm : Bool
  deriving DecidableEq, Repr

/-- How a migration command's traffic to the other side went (R448, R451). -/
inductive MigResult where
  | done | session | refused | link
  deriving DecidableEq, Repr

/-- How a scale-out transfer went (R468): done (a READ with the bytes it brought), refused locally, or no path to
the remote endpoint. -/
inductive TransferResult where
  | done (bytes : List Byte)
  | unreachable
  deriving DecidableEq, Repr

/-- What a buddy returns for a rollback (R458): the pages of the image and the folio of the generation, or nothing
when the buddy is lost. -/
structure CheckpointImage where
  present : Bool
  pages : List (Nat × List Byte)
  folio : List Byte
  deriving DecidableEq, Repr

/-- An invalidation command of KIND 10 (R81): the slice whose entries it drops, and the ASID field the same write stores. -/
structure SliceInval where
  slice : Nat
  asid : Nat
  deriving DecidableEq, Repr

/-- Every row of opcode_table.json. -/
inductive Instr where
  /-- CLAUSE: R47 A clause header stalls the item group until every flag named in WAIT is clear, then issues and sets up the clause's flags, region entry and yield hint. -/
  | clause (h : ClauseWord)
  /-- PAIR: R43 A pair issues a span-slot base word on the span pipe and a strand-slot base word on a lane in the same core clock under one guard. -/
  | pair (w : PairWord)
  /-- IADD_BASE: R248 Base-word integer add of A and B modulo 2^32 on every active item. -/
  | iaddBase (f : BaseOps)
  /-- IADD_BASE_LIT: R248 Base-word integer add whose B operand is a trailing 32-bit literal. -/
  | iaddBaseLit (f : BaseLit)
  /-- ISUB_BASE: R248 Base-word integer subtract modulo 2^32. -/
  | isubBase (f : BaseOps)
  /-- ISUB_BASE_LIT: R248 Base-word integer subtract with a literal B. -/
  | isubBaseLit (f : BaseLit)
  /-- IMUL_BASE: R248 Base-word integer multiply, low 32 bits. -/
  | imulBase (f : BaseOps)
  /-- IMUL_BASE_LIT: R248 Base-word integer multiply with a literal B. -/
  | imulBaseLit (f : BaseLit)
  /-- IMULH_BASE: R248 Base-word signed multiply, high 32 bits. -/
  | imulhBase (f : BaseOps)
  /-- IMULH_BASE_LIT: R248 Base-word signed high multiply with a literal B. -/
  | imulhBaseLit (f : BaseLit)
  /-- IMIN_BASE: R248 Base-word signed minimum. -/
  | iminBase (f : BaseOps)
  /-- IMIN_BASE_LIT: R248 Base-word signed minimum with a literal B. -/
  | iminBaseLit (f : BaseLit)
  /-- IMAX_BASE: R248 Base-word signed maximum. -/
  | imaxBase (f : BaseOps)
  /-- IMAX_BASE_LIT: R248 Base-word signed maximum with a literal B. -/
  | imaxBaseLit (f : BaseLit)
  /-- AND_BASE: R248 Base-word bitwise and. -/
  | andBase (f : BaseOps)
  /-- AND_BASE_LIT: R248 Base-word bitwise and with a literal B. -/
  | andBaseLit (f : BaseLit)
  /-- OR_BASE: R248 Base-word bitwise or. -/
  | orBase (f : BaseOps)
  /-- OR_BASE_LIT: R248 Base-word bitwise or with a literal B. -/
  | orBaseLit (f : BaseLit)
  /-- XOR_BASE: R248 Base-word bitwise exclusive or. -/
  | xorBase (f : BaseOps)
  /-- XOR_BASE_LIT: R248 Base-word bitwise exclusive or with a literal B. -/
  | xorBaseLit (f : BaseLit)
  /-- ANDN_BASE: R248 Base-word a and not b. -/
  | andnBase (f : BaseOps)
  /-- ANDN_BASE_LIT: R248 Base-word a and not b with a literal B. -/
  | andnBaseLit (f : BaseLit)
  /-- SHL_BASE: R248 Base-word shift left, zero for counts of 32 or more. -/
  | shlBase (f : BaseOps)
  /-- SHL_BASE_LIT: R248 Base-word shift left with a literal count. -/
  | shlBaseLit (f : BaseLit)
  /-- SHR_BASE: R248 Base-word logical shift right. -/
  | shrBase (f : BaseOps)
  /-- SHR_BASE_LIT: R248 Base-word logical shift right with a literal count. -/
  | shrBaseLit (f : BaseLit)
  /-- SAR_BASE: R248 Base-word arithmetic shift right. -/
  | sarBase (f : BaseOps)
  /-- SAR_BASE_LIT: R248 Base-word arithmetic shift right with a literal count. -/
  | sarBaseLit (f : BaseLit)
  /-- ROL_BASE: R248 Base-word rotate left. -/
  | rolBase (f : BaseOps)
  /-- ROL_BASE_LIT: R248 Base-word rotate left with a literal count. -/
  | rolBaseLit (f : BaseLit)
  /-- LEA1_BASE: R252 Base-word lea with shift 1: d := a*2 + b mod 2^32. -/
  | lea1Base (f : BaseOps)
  /-- LEA1_BASE_LIT: R252 Base-word lea with shift 1 and a literal b. -/
  | lea1BaseLit (f : BaseLit)
  /-- LEA2_BASE: R252 Base-word lea with shift 2: d := a*4 + b mod 2^32. -/
  | lea2Base (f : BaseOps)
  /-- LEA2_BASE_LIT: R252 Base-word lea with shift 2 and a literal b. -/
  | lea2BaseLit (f : BaseLit)
  /-- LEA3_BASE: R252 Base-word lea with shift 3: d := a*8 + b mod 2^32. -/
  | lea3Base (f : BaseOps)
  /-- LEA3_BASE_LIT: R252 Base-word lea with shift 3 and a literal b. -/
  | lea3BaseLit (f : BaseLit)
  /-- FADD_BASE: R262 Base-word FP32 add rounded to nearest-even. -/
  | faddBase (f : BaseOps)
  /-- FADD_BASE_LIT: R262 Base-word FP32 add with a literal B. -/
  | faddBaseLit (f : BaseLit)
  /-- FMUL_BASE: R262 Base-word FP32 multiply rounded to nearest-even. -/
  | fmulBase (f : BaseOps)
  /-- FMUL_BASE_LIT: R262 Base-word FP32 multiply with a literal B. -/
  | fmulBaseLit (f : BaseLit)
  /-- FFMA_DM_BASE: R262 Base-word fused multiply-add d := d*a + b with one rounding. -/
  | ffmaDmBase (f : BaseOps)
  /-- FFMA_DM_BASE_LIT: R262 Base-word ffma.dm with a literal addend. -/
  | ffmaDmBaseLit (f : BaseLit)
  /-- FFMA_ACC_BASE: R262 Base-word fused multiply-accumulate d := d + a*b with one rounding. -/
  | ffmaAccBase (f : BaseOps)
  /-- FFMA_ACC_BASE_LIT: R262 Base-word ffma.acc with a literal B. -/
  | ffmaAccBaseLit (f : BaseLit)
  /-- FMIN_BASE: R264 Base-word FP32 minimum. -/
  | fminBase (f : BaseOps)
  /-- FMIN_BASE_LIT: R264 Base-word FP32 minimum with a literal B. -/
  | fminBaseLit (f : BaseLit)
  /-- FMAX_BASE: R264 Base-word FP32 maximum. -/
  | fmaxBase (f : BaseOps)
  /-- FMAX_BASE_LIT: R264 Base-word FP32 maximum with a literal B. -/
  | fmaxBaseLit (f : BaseLit)
  /-- PADD16_BASE: R275 Base-word packed FP16 add of both halves. -/
  | padd16Base (f : BaseOps)
  /-- PADD16_BASE_LIT: R275 Base-word packed FP16 add with a literal B. -/
  | padd16BaseLit (f : BaseLit)
  /-- PMUL16_BASE: R275 Base-word packed FP16 multiply of both halves. -/
  | pmul16Base (f : BaseOps)
  /-- PMUL16_BASE_LIT: R275 Base-word packed FP16 multiply with a literal B. -/
  | pmul16BaseLit (f : BaseLit)
  /-- PFMA16_ACC_BASE: R275 Base-word packed FP16 accumulate d := d + a*b per half. -/
  | pfma16AccBase (f : BaseOps)
  /-- PFMA16_ACC_BASE_LIT: R275 Base-word pfma16.acc with a literal B. -/
  | pfma16AccBaseLit (f : BaseLit)
  /-- MOV_BASE: R164 Base-word move of the single source B to D. -/
  | movBase (f : Base1)
  /-- MOV_BASE_LIT: R164 Base-word move of a 32-bit literal to D. -/
  | movBaseLit (f : Base1Lit)
  /-- POPC_BASE: R250 Base-word population count of the single source. -/
  | popcBase (f : Base1)
  /-- POPC_BASE_LIT: R250 Base-word population count of a literal. -/
  | popcBaseLit (f : Base1Lit)
  /-- CLZ_BASE: R250 Base-word count of leading zeros. -/
  | clzBase (f : Base1)
  /-- CLZ_BASE_LIT: R250 Base-word count of leading zeros of a literal. -/
  | clzBaseLit (f : Base1Lit)
  /-- BREV_BASE: R250 Base-word bit reversal. -/
  | brevBase (f : Base1)
  /-- BREV_BASE_LIT: R250 Base-word bit reversal of a literal. -/
  | brevBaseLit (f : Base1Lit)
  /-- NOT_BASE: R250 Base-word bitwise not. -/
  | notBase (f : Base1)
  /-- NOT_BASE_LIT: R250 Base-word bitwise not of a literal. -/
  | notBaseLit (f : Base1Lit)
  /-- LD_B32_BASE: R325 Base-word 32-bit global load from a + b. -/
  | ldB32Base (f : BaseOps)
  /-- LD_B32_BASE_LIT: R325 Base-word 32-bit global load with a literal offset. -/
  | ldB32BaseLit (f : BaseLit)
  /-- ST_B32_BASE: R327 Base-word 32-bit global store of the D-field register to a + b. -/
  | stB32Base (f : BaseOps)
  /-- ST_B32_BASE_LIT: R327 Base-word 32-bit global store with a literal offset. -/
  | stB32BaseLit (f : BaseLit)
  /-- LDQ_B32_BASE: R325 Base-word 32-bit uniform load performed once for the context. -/
  | ldqB32Base (f : BaseOps)
  /-- LDQ_B32_BASE_LIT: R325 Base-word uniform load with a literal offset. -/
  | ldqB32BaseLit (f : BaseLit)
  /-- BRA_BASE: R199 Unguarded base-word branch to word0 plus a literal displacement, checked against the clause mark map. -/
  | braBase (disp : Word)
  /-- FADD_I: R270 F20 add of a 20-bit FP32 immediate to d. -/
  | faddI (f : F20Word)
  /-- FMUL_I: R270 F20 multiply of d by a 20-bit FP32 immediate. -/
  | fmulI (f : F20Word)
  /-- FMIN_I: R270 F20 minimum of d and an immediate. -/
  | fminI (f : F20Word)
  /-- FMAX_I: R270 F20 maximum of d and an immediate. -/
  | fmaxI (f : F20Word)
  /-- FMOV_I: R270 F20 move of the immediate pattern into d, raising no flag. -/
  | fmovI (f : F20Word)
  /-- BRA: R199 Guarded extended branch that moves, splits or falls through by the guard's form. -/
  | bra (e : Ext)
  /-- BRX: R201 Indexed branch through a table of displacements in the code section. -/
  | brx (e : Ext)
  /-- CALL: R203 Writes the return word index and branches to the target. -/
  | call (e : Ext)
  /-- RET: R203 Branches each affected item to the word index held in its operand. -/
  | ret (e : Ext)
  /-- EXIT: R205 Affected items exit, leave their groups and free their registers; an empty context ends. -/
  | exit (e : Ext)
  /-- JOIN: R194 Merges joinable contexts at the join address or waits for them up to JOINWAIT. -/
  | join (e : Ext)
  /-- YIELD: R190 Lets another PC group of the strand issue next. -/
  | yield (e : Ext)
  /-- WAIT: R209 The executing group waits for named flags to clear, or for n core clocks. -/
  | wait (e : Ext)
  /-- NOP: R210 Occupies an issue slot and changes no state. -/
  | nop (e : Ext)
  /-- MAT: R211 Cuts a span into strands; no effect in a strand. -/
  | mat (e : Ext)
  /-- FORMQ: R213 Writes the form code of a register or predicate. -/
  | formq (e : Ext)
  /-- MOV: R164 Extended move of a register, constant or 64-bit pair. -/
  | mov (e : Ext)
  /-- MOVK: R166 Reads the constant bank at a register-computed index. -/
  | movk (e : Ext)
  /-- SEL: R168 Selects one of two sources by a predicate. -/
  | sel (e : Ext)
  /-- RDS: R170 Reads a special register. -/
  | rds (e : Ext)
  /-- WRS: R170 Writes s_fflags or s_fctl once for the context. -/
  | wrs (e : Ext)
  /-- PCOMB: R172 Combines two predicates with and, or or xor. -/
  | pcomb (e : Ext)
  /-- PMOV: R174 Moves a group of 32 predicates to or from a register. -/
  | pmov (e : Ext)
  /-- VOTE: R176 Computes all, any, eq or ballot over the participating items of a strand. -/
  | vote (e : Ext)
  /-- SXCH: R178 Exchanges values between items of a strand by position. -/
  | sxch (e : Ext)
  /-- SRED: R180 Reduces a value over the affected items of a strand in ascending position. -/
  | sred (e : Ext)
  /-- IADD: R248 Extended integer add, optionally saturating. -/
  | iadd (e : Ext)
  /-- ISUB: R248 Extended integer subtract, optionally saturating. -/
  | isub (e : Ext)
  /-- IMUL: R248 Extended integer multiply, low half. -/
  | imul (e : Ext)
  /-- IMULH: R248 Extended integer multiply, high half, signed or unsigned. -/
  | imulh (e : Ext)
  /-- IMAD: R252 Integer multiply-add modulo 2^32. -/
  | imad (e : Ext)
  /-- IMIN: R248 Extended integer minimum. -/
  | imin (e : Ext)
  /-- IMAX: R248 Extended integer maximum. -/
  | imax (e : Ext)
  /-- IABS: R250 Integer absolute value, optionally saturating. -/
  | iabs (e : Ext)
  /-- INEG: R250 Integer negation, optionally saturating. -/
  | ineg (e : Ext)
  /-- AND: R248 Extended bitwise and. -/
  | and (e : Ext)
  /-- OR: R248 Extended bitwise or. -/
  | or (e : Ext)
  /-- XOR: R248 Extended bitwise exclusive or. -/
  | xor (e : Ext)
  /-- NOT: R250 Extended bitwise not. -/
  | not (e : Ext)
  /-- ANDN: R248 Extended a and not b. -/
  | andn (e : Ext)
  /-- SHL: R248 Extended shift left. -/
  | shl (e : Ext)
  /-- SHR: R248 Extended logical shift right. -/
  | shr (e : Ext)
  /-- SAR: R248 Extended arithmetic shift right. -/
  | sar (e : Ext)
  /-- ROL: R248 Extended rotate left. -/
  | rol (e : Ext)
  /-- POPC: R250 Extended population count. -/
  | popc (e : Ext)
  /-- CLZ: R250 Extended count of leading zeros. -/
  | clz (e : Ext)
  /-- BREV: R250 Extended bit reversal. -/
  | brev (e : Ext)
  /-- BFE: R254 Extracts a bit field, optionally sign-extended. -/
  | bfe (e : Ext)
  /-- BFI: R254 Inserts a bit field into c. -/
  | bfi (e : Ext)
  /-- BPERM: R254 Permutes bytes of a and b under four selector bytes. -/
  | bperm (e : Ext)
  /-- LEA: R252 Extended lea d := a*2^s + b with any shift 0 to 31. -/
  | lea (e : Ext)
  /-- ICMP: R256 Integer compare into a predicate, possibly in form E. -/
  | icmp (e : Ext)
  /-- IDP4: R258 Four-way byte dot product added to c. -/
  | idp4 (e : Ext)
  /-- IADD64: R260 64-bit add or subtract of register pairs. -/
  | iadd64 (e : Ext)
  /-- IMAD64: R260 32 by 32 multiply added to a 64-bit pair. -/
  | imad64 (e : Ext)
  /-- FADD: R262 Extended FP32 add with rounding mode, FTZ and source modifiers. -/
  | fadd (e : Ext)
  /-- FMUL: R262 Extended FP32 multiply. -/
  | fmul (e : Ext)
  /-- FFMA: R262 Extended FP32 fused multiply-add with one rounding. -/
  | ffma (e : Ext)
  /-- FMIN: R264 Extended FP32 minimum. -/
  | fmin (e : Ext)
  /-- FMAX: R264 Extended FP32 maximum. -/
  | fmax (e : Ext)
  /-- FCMP: R266 FP32 compare into a predicate. -/
  | fcmp (e : Ext)
  /-- FRND: R268 Rounds an FP32 value to an integral FP32 value. -/
  | frnd (e : Ext)
  /-- FRCP: R272 Correctly rounded FP32 reciprocal. -/
  | frcp (e : Ext)
  /-- FRSQ: R272 FP32 reciprocal square root within its bound. -/
  | frsq (e : Ext)
  /-- FSQRT: R272 Correctly rounded FP32 square root. -/
  | fsqrt (e : Ext)
  /-- FEX2: R272 FP32 base-2 exponential within its bound. -/
  | fex2 (e : Ext)
  /-- FLG2: R272 FP32 base-2 logarithm within its bound. -/
  | flg2 (e : Ext)
  /-- FSIN: R272 FP32 sine within its bound. -/
  | fsin (e : Ext)
  /-- FCOS: R272 FP32 cosine within its bound. -/
  | fcos (e : Ext)
  /-- PADD16: R275 Extended packed FP16 or BF16 add. -/
  | padd16 (e : Ext)
  /-- PMUL16: R275 Extended packed FP16 or BF16 multiply. -/
  | pmul16 (e : Ext)
  /-- PFMA16: R275 Extended packed fused multiply-add. -/
  | pfma16 (e : Ext)
  /-- PMIN16: R275 Packed 16-bit minimum. -/
  | pmin16 (e : Ext)
  /-- PMAX16: R275 Packed 16-bit maximum. -/
  | pmax16 (e : Ext)
  /-- FTOI: R277 Converts FP32 to a 32- or 64-bit integer with saturation. -/
  | ftoi (e : Ext)
  /-- ITOF: R277 Converts an integer to FP32. -/
  | itof (e : Ext)
  /-- FTOF: R279 Converts among FP32, FP16 and BF16. -/
  | ftof (e : Ext)
  /-- FPK8: R281 Packs two FP32 values into 8-bit elements of c. -/
  | fpk8 (e : Ext)
  /-- FPK4: R281 Packs two FP32 values into E2M1 elements of c. -/
  | fpk4 (e : Ext)
  /-- FUNPK: R283 Widens one narrow element to FP32. -/
  | funpk (e : Ext)
  /-- LD: R325 Extended per-item load from any address space. -/
  | ld (e : Ext)
  /-- ST: R327 Extended per-item store, optionally a release. -/
  | st (e : Ext)
  /-- LDQ: R325 Extended load performed once for the context into a uniform result. -/
  | ldq (e : Ext)
  /-- PRF: R329 Prefetches a line into L1 and L2 or L2 only, never faulting. -/
  | prf (e : Ext)
  /-- CCTL: R331 Cache control: write back, invalidate or evict lines and wait for it. -/
  | cctl (e : Ext)
  /-- ATOM: R337 Sends atomic requests to the owning ASU, optionally returning the old value. -/
  | atom (e : Ext)
  /-- RED: R337 Sends reduction requests to the owning ASU with no result. -/
  | red (e : Ext)
  /-- CAS128: R340 128-bit compare and swap at the owning ASU. -/
  | cas128 (e : Ext)
  /-- FENCE: R362 Waits until release and/or acquire conditions at its scope hold. -/
  | fence (e : Ext)
  /-- CPY: R134 Checks a linear copy descriptor and accepts the copy into the copy engine. -/
  | cpy (e : Ext)
  /-- CPY2: R134 Accepts a two-dimensional copy. -/
  | cpy2 (e : Ext)
  /-- CPY3: R134 Accepts a three-dimensional copy. -/
  | cpy3 (e : Ext)
  /-- CPYG: R134 Accepts a gather copy with one row per affected item. -/
  | cpyg (e : Ext)
  /-- PUBL: R137 Requests a shadow-window publish and waits until it is done. -/
  | publ (e : Ext)
  /-- CTOK: R139 Returns the status of a copy by sequence number. -/
  | ctok (e : Ext)
  /-- CCAN: R141 Cancels an in-flight copy at its next sector boundary. -/
  | ccan (e : Ext)
  /-- GREL: R143 Releases shelf granules to EMPTY, waiting for fills and holds. -/
  | grel (e : Ext)
  /-- GSTAT: R145 Reads the states of sixteen shelf granules. -/
  | gstat (e : Ext)
  /-- TPOST: R310 Votes the format word, checks a task record and accepts it into the call desk. -/
  | tpost (e : Ext)
  /-- CHB: R312 Posts a chain-begin marker and opens a chain on a slot. -/
  | chb (e : Ext)
  /-- CHE: R312 Posts a chain-end marker, closing the chain and naming its report. -/
  | che (e : Ext)
  /-- GNEW: R379 Creates a run-time group record and returns its handle. -/
  | gnew (e : Ext)
  /-- GJOIN: R379 Adds affected items to a group. -/
  | gjoin (e : Ext)
  /-- GLEAVE: R379 Removes affected items from a group. -/
  | gleave (e : Ext)
  /-- GFREE: R379 Frees a group record, breaking it if it has members or waiters. -/
  | gfree (e : Ext)
  /-- BAR: R381 Affected items arrive at a group barrier and wait. -/
  | bar (e : Ext)
  /-- BARINIT: R383 Initialises a counted barrier object. -/
  | barinit (e : Ext)
  /-- BARR: R383 Arrives at a counted barrier and returns the phase token. -/
  | barr (e : Ext)
  /-- BARW: R383 Waits until a counted barrier's phase passes the token or it breaks. -/
  | barw (e : Ext)
  /-- SIGS: R383 Adds to a signal's value. -/
  | sigs (e : Ext)
  /-- SIGW: R383 Waits until a signal reaches a value or breaks. -/
  | sigw (e : Ext)
  /-- LAUNCH: R403 Reads a launch record and accepts a child launch, via the fast path where it applies. -/
  | launch (e : Ext)
  /-- TRAP: R424 Writes a syscall record for the host and makes the affected items wait. -/
  | trap (e : Ext)
  /-- BRK: R426 Faults Breakpoint when BRKEN is 1, otherwise no effect. -/
  | brk (e : Ext)
  /-- REGISTER_WRITE: R5 A write to any register without a row of its own stores, sets or clears fields per its access codes, or is discarded. -/
  | registerWrite (who : Writer) (fn off : Nat) (val : Word)
  /-- MODULE_RESET: R7 Module reset returns every register to its reset value and leaves only PF0 answering as a minimal function. -/
  | moduleReset
  /-- FIRMWARE_PUSH: R484 A GO to CUR_FWCTL reads and verifies the image and runs bring-up. -/
  | firmwarePush (img : FirmwareImage)
  /-- BRING_UP_RECORD_CLEAR: R486 CLR erases the bring-up record. -/
  | bringUpRecordClear
  /-- SEAL_WRITE: R388 A write making a launch-window slot's SEAL nonzero queues the slot for parsing. -/
  | sealWrite (slice slot : Nat) (val : Byte)
  /-- LAUNCH_RECORD_PARSE: R386 The distributor copies and checks a queued record, accepting or refusing it. -/
  | launchRecordParse (slice : Nat)
  /-- AFTER_TOKEN_POLL: R390 Every 1,024 cluster clocks the distributor reads a launch's AFTER token and makes it eligible or failed. -/
  | afterTokenPoll (launch : Nat)
  /-- ADMISSION_ROUND: R399 The master runs a round of admissions at the highest eligible priority. -/
  | admissionRound (slice : Nat)
  /-- DISTRIBUTOR_REPORT: R396 A member distributor reports its free resources to the master. -/
  | distributorReport (member : Nat)
  /-- FAST_PATH_LATE_CHECK: R405 The master checks reason 0x04 for a fast-path child after admission and ends it if it fails. -/
  | fastPathLateCheck (launch : Nat)
  /-- LAUNCH_COMPLETE: R392 A launch whose items, copies, tasks, writes and children are all done releases its resources and writes its token. -/
  | launchComplete (launch : Nat)
  /-- LAUNCH_DONE_WATCHDOG: R406 An item waiting on a DONE flag for 2^BARLOG2 clocks with no child cohort admitted faults Watchdog and the child is cancelled. -/
  | launchDoneWatchdog (child : Nat)
  /-- CTB_REQUEST_WRITE: R394 A host write of CTB_REQnB raises a request event that the Curator applies to the bind record. -/
  | ctbRequestWrite (slice queue : Nat) (val : Word)
  /-- CTB_BIND_WRITE: R395 A Curator write of a bind record governs admissions that begin afterwards. -/
  | ctbBindWrite (slice queue : Nat) (second : Bool) (val : Word)
  /-- CURATOR_DEFAULT_BIND: R394 Within 1 ms of a clearing the Curator writes every bind record from its default policy. -/
  | curatorDefaultBind (slice : Nat)
  /-- TLB_MISS_WALK: R75 A translation miss is merged and a walk started by the field walk service. -/
  | tlbMissWalk (walk : Nat)
  /-- WALK_COMPLETE: R77 A walk ends with a mapping, a malformed or poisoned entry, or a page fault for all its waiters. -/
  | walkComplete (walk : Nat)
  /-- PAGE_FAULT_RECORD: R78 A pending-fault entry writes its record to the page-fault ring when there is room and raises the interrupt. -/
  | pageFaultRecord (slice seq : Nat)
  /-- FWS_INVALIDATE_PAGE: R81 GO with KIND 00 invalidates every entry mapping one page of an ASID. -/
  | fwsInvalidatePage (slice : Nat) (asid : Nat)
  /-- FWS_INVALIDATE_ASID: R81 GO with KIND 01 invalidates every entry of an ASID. -/
  | fwsInvalidateAsid (slice : Nat) (asid : Nat)
  /-- FWS_INVALIDATE_SLICE: R81 GO with KIND 10 invalidates every entry of the slice. -/
  | fwsInvalidateSlice (cmd : SliceInval)
  /-- INVALIDATION_DONE: R81 When dropped entries, walks in flight and accesses through them are finished, DONE sets and BUSY clears. -/
  | invalidationDone (slice : Nat)
  /-- FWS_REPLAY: R79 ACT 01 makes every waiter of a pending fault roll back and walk again. -/
  | fwsReplay (slice seq : Nat)
  /-- FWS_FAIL: R79 ACT 10 handles every waiter of a pending fault as a non-replayed PageFault. -/
  | fwsFail (slice seq : Nat)
  /-- L2B_HASHCTL_WRITE: R89 Writes back and invalidates every line, then applies the new bank hash. -/
  | l2bHashctlWrite (slice : Nat) (val : Word)
  /-- L2B_PIDMASK_WRITE: R99 Applies a partition's new fill mask in every bank without moving lines. -/
  | l2bPidmaskWrite (slice pid : Nat) (val : Word)
  /-- LOAD_DATA_LANDING: R325 A load's data or error response arrives and writes its register or faults the item. -/
  | loadDataLanding (op : Nat) (ans : Answer)
  /-- L1_WRITE_BACK: R345 A dirty L1 line at the FIFO head or evicted is written back with its dirty bytes. -/
  | l1WriteBack (core line : Nat)
  /-- L1_CLEAN_LINE_EXPIRY: R345 A clean L1 line is dropped 65,536 cluster clocks after its fill. -/
  | l1CleanLineExpiry (core line : Nat)
  /-- WRITE_ACKNOWLEDGEMENT: R347 A home's acknowledgement of a write arrives and decrements the context's unacknowledged count. -/
  | writeAcknowledgement (op : Nat) (ok : Bool)
  /-- ASU_REQUEST: R337 The owning ASU performs an atomic, reduction or barrier/signal operation in one step. -/
  | asuRequest (req : Nat)
  /-- ATOMIC_RESULT_LANDING: R334 An atomic's old value arrives at its return slot and the flag may clear. -/
  | atomicResultLanding (op : Nat) (ans : Answer)
  /-- HOME_WRITE: R102 A write to a line with a directory entry invalidates its holders before it is performed. -/
  | homeWrite (write : Nat)
  /-- INVALIDATION_ACKS_DONE: R102 When every holder has acknowledged, the home frees the entry, performs the write and acknowledges. -/
  | invalidationAcksDone (write : Nat)
  /-- HOLDER_INVALIDATION: R103 A holder drops an invalidated line and acknowledges. -/
  | holderInvalidation (slice line : Nat)
  /-- PEER_READ_REQUEST: R101 A peer read is admitted by the grant table and creates or extends a directory entry. -/
  | peerReadRequest (req : PeerAccess)
  /-- PEER_WRITE_REQUEST: R465 A peer write, atomic or reduction is admitted or refused by the grant table. -/
  | peerWriteRequest (req : PeerAccess) (bytes : List Byte)
  /-- HOST_SNOOP: R460 A host snoop is answered for a host line held in the L2 banks. -/
  | hostSnoop (slice line : Nat) (kind : SnoopKind)
  /-- HOST_MEMORY_READ: R504 A host read through the CXL.mem range is served or answered with poison. -/
  | hostMemoryRead (slice off len : Nat)
  /-- HOST_MEMORY_WRITE: R504 A host write through the CXL.mem range is performed, setting HOSTW, or discarded. -/
  | hostMemoryWrite (slice off : Nat) (bytes : List Byte)
  /-- FIELD_BEACON: R352 A field idle for 16 cluster clocks towards another sends it a beacon with its clock. -/
  | fieldBeacon (src dst : Nat)
  /-- CROSS_FIELD_WRITE_APPLY: R351 A home applies a stamped write from another field once causal conditions hold and merges its clock. -/
  | crossFieldWriteApply (write : Nat)
  /-- ECC_PATROL_SCRUB: R83 The patrol scrubber reads stack sectors, correcting or poisoning them. -/
  | eccPatrolScrub (stack sector : Nat)
  /-- COPY_COMPLETE: R125 A copy finishes, fails or is cancelled; it writes its token, decrements fill counts and clears its flag. -/
  | copyComplete (copy : Nat) (link : LinkResult)
  /-- PUBL_PHASE_FLIP: R137 Once earlier shadow copies are complete the window's PHASE inverts. -/
  | publPhaseFlip (slice win : Nat)
  /-- PUBL_DONE: R137 After old-phase accesses are performed PUBBUSY clears and the issuer continues. -/
  | publDone (slice win : Nat)
  /-- CPE_SHWCTL_WRITE: R132 Writing a shadow window's control enables it with PHASE 0 or disables it. -/
  | cpeShwctlWrite (slice win : Nat) (val : Word)
  /-- CURRENT_GRANT: R480 The cluster's current arbiter grants the oldest highest-priority reservation that fits. -/
  | currentGrant (cluster : Nat)
  /-- TASK_START: R295 A ready record with an engine and a grant starts, binding its slot if unbound. -/
  | taskStart (task : Nat)
  /-- TASK_COMPLETE: R302 An MMA, ZERO, DRAIN or marker completes, ending holds and clearing its flag. -/
  | taskComplete (task : Nat)
  /-- TASK_READINESS_WATCHDOG: R295 An MMA not ready for 2^BARLOG2 clocks fails with Watchdog. -/
  | taskReadinessWatchdog (task : Nat)
  /-- MULTICAST_PARTNER_TIMEOUT: R298 An MMA with no full multicast set 1,024 clocks after readiness starts alone. -/
  | multicastPartnerTimeout (task : Nat)
  /-- CURRENT_ESTIMATE_PUBLISH: R482 Each millisecond the Curator publishes the field's estimated current. -/
  | currentEstimatePublish (field : Nat) (est : BitVec 15)
  /-- OPERATING_POINT_CHANGE: R479 The Curator changes a field's operating point or a core's divider. -/
  | operatingPointChange (chg : PointChange)
  /-- PENDING_REMAINDER_CUT: R185 A freed place lets a pending remainder cut its next block into a strand. -/
  | pendingRemainderCut (ctx : Nat)
  /-- PENDING_REMAINDER_WATCHDOG: R185 A remainder pending past 2^BARLOG2 clocks faults Watchdog for its items. -/
  | pendingRemainderWatchdog (ctx : Nat)
  /-- SOLO_CUT: R188 A faulted item parked for lack of a place is cut out as a solo when one frees. -/
  | soloCut (ctx item : Nat)
  /-- STARVATION_WATCHDOG: R191 A PC group starved for 2^BARLOG2 clocks makes the lowest-PC group fault Watchdog. -/
  | starvationWatchdog (ctx : Nat)
  /-- JOIN_DEADLINE: R194 A context waiting at a join continues when its deadline passes. -/
  | joinDeadline (ctx : Nat)
  /-- WAIT_CLK_EXPIRY: R209 A wait.clk count ends and the group continues. -/
  | waitClkExpiry (ctx : Nat)
  /-- GROUP_PHASE_WATCHDOG: R370 A group phase waiting 2^BARLOG2 clocks breaks with Watchdog. -/
  | groupPhaseWatchdog (grp : GroupRef)
  /-- COUNTED_BARRIER_DEADLINE: R376 A counted barrier phase past its deadline breaks with CAUSE 0x09. -/
  | countedBarrierDeadline (obj : Nat)
  /-- SIGW_TIMEOUT: R376 A sigw waiting 2^BARLOG2 clocks wakes alone with status 0. -/
  | sigwTimeout (ctx item : Nat)
  /-- FAULT_RECORD_WRITE: R418 A fault record is written into the fault ring when it has room and interrupt source 1 is raised. -/
  | faultRecordWrite (fault : Nat)
  /-- FAULT_RESUME: R419 RESUME continues each item of a record at its resume point. -/
  | faultResume (slice seq : Nat)
  /-- FAULT_END: R419 END ends each item of a record without resumption. -/
  | faultEnd (slice seq : Nat)
  /-- FAULT_KILL: R419 KILL ends every item of the record's launch and cancels its children. -/
  | faultKill (slice seq : Nat)
  /-- FAULT_DUMP: R419 DUMP writes a KIND 2 folio to the dump area before the action. -/
  | faultDump (slice seq : Nat)
  /-- SYSCALL_RECORD_WRITE: R424 A trap's syscall record is written when the ring has room and source 5 is raised. -/
  | syscallRecordWrite (call : Nat)
  /-- SYSCALL_DONE: R424 SLC_SCDONE completes a syscall, continuing its items or faulting them Trap. -/
  | syscallDone (slice seq : Nat) (result : Byte)
  /-- PREEMPT: R427 GO with RESUME 0 moves the slice from RUN to DRAIN. -/
  | preempt (slice : Nat)
  /-- PREEMPT_DRAIN_COMPLETE: R427 When no cohort is resident in DRAIN the slice enters IDLE. -/
  | preemptDrainComplete (slice : Nat)
  /-- PREEMPT_T1_EXPIRY: R428 At T1 the slice enters SAVE and brings each context to a save point. -/
  | preemptT1Expiry (slice : Nat)
  /-- PREEMPT_SAVE_COMPLETE: R427 When every context is written to the folio the slice enters SAVED. -/
  | preemptSaveComplete (slice : Nat)
  /-- PREEMPT_T2_EXPIRY: R429 At T2 every context not yet written is reset. -/
  | preemptT2Expiry (slice : Nat)
  /-- PREEMPT_RESUME: R432 GO with RESUME 1 validates and restores the folio and returns to RUN, or sets ERR. -/
  | preemptResume (slice : Nat)
  /-- SLICE_GROUP_APPLY: R434 A GO to SLC_GRPAPPLY checks and installs slice groups and clears changed slices. -/
  | sliceGroupApply
  /-- SLC_GRP_WRITE: R439 A write of LEAD is stored, or while locked moves the slice to ERROR and resets it. -/
  | slcGrpWrite (slice : Nat) (val : Word)
  /-- SLICE_ONLY_RESET: R446 A GO to SLC_RSTs resets the slice's group, clears it and moves a locked interface to ERROR. -/
  | sliceOnlyReset (slice : Nat)
  /-- USAGE_CLEAR: R444 UCLR sets SLC_USAGE to zero. -/
  | usageClear (slice : Nat)
  /-- CLEARING_SEQUENCE: R443 The clearing sequencer ends contexts, drains writes, clears caches, resets registers and re-keys the stack. -/
  | clearingSequence (slice : Nat)
  /-- CLEARING_COMPLETE: R443 Clearing finishes: CLEAN sets, RSTGEN increments and secure sessions end. -/
  | clearingComplete (slice : Nat)
  /-- LOCK_INTERFACE_REQUEST: R440 TDISP lock moves the interface to CONFIG_LOCKED if clean and freshly measured. -/
  | lockInterfaceRequest (slice : Nat)
  /-- START_INTERFACE_REQUEST: R438 TDISP start moves the interface to RUN. -/
  | startInterfaceRequest (slice : Nat)
  /-- STOP_INTERFACE_REQUEST: R438 TDISP stop returns the interface to CONFIG_UNLOCKED after clearing. -/
  | stopInterfaceRequest (slice : Nat)
  /-- GET_DEVICE_INTERFACE_REPORT: R438 Returns the TDISP interface report while locked. -/
  | getDeviceInterfaceReport (slice : Nat)
  /-- GET_VERSION: R441 SPDM version request answered by the Curator. -/
  | getVersion (slice : Nat)
  /-- GET_CAPABILITIES: R441 SPDM capabilities request. -/
  | getCapabilities (slice : Nat)
  /-- NEGOTIATE_ALGORITHMS: R441 SPDM algorithm negotiation. -/
  | negotiateAlgorithms (slice : Nat) (offer : SpdmOffer)
  /-- GET_DIGESTS: R441 SPDM certificate digest request. -/
  | getDigests (slice : Nat)
  /-- GET_CERTIFICATE: R441 SPDM certificate chain request. -/
  | getCertificate (slice slot : Nat)
  /-- CHALLENGE: R441 SPDM challenge answered with a signature of the alias key. -/
  | challenge (slice slot : Nat)
  /-- GET_MEASUREMENTS: R442 Returns the slice's measurement indices, signed when requested. -/
  | getMeasurements (slice : Nat) (indices : List Nat) (sign : Bool)
  /-- KEY_EXCHANGE: R441 Begins an SPDM secured session. -/
  | keyExchange (slice : Nat)
  /-- FINISH: R441 Completes the establishment of an SPDM secured session. -/
  | finish (slice session : Nat)
  /-- END_SESSION: R441 Ends an SPDM secured session. -/
  | endSession (slice session : Nat)
  /-- SLC_MIGCTL_WRITE: R449 A write of migration control; TRACK 0 to 1 marks every page dirty, locked fields move the slice to ERROR. -/
  | slcMigctlWrite (slice : Nat) (val : Word)
  /-- RAKE: R449 Reads and clears the dirty bits of a block into the bitmap. -/
  | rake (slice block : Nat)
  /-- SEND: R450 Sends each marked page to the destination slice. -/
  | send (slice block : Nat)
  /-- FINAL: R451 Sends the remaining dirty pages and the KIND 3 folio, or the folio first under post-copy. -/
  | final (slice : Nat) (post : Bool)
  /-- ABORT: R452 Ends the migration with ERR 6 and resets the destination. -/
  | abort (slice : Nat)
  /-- MIGRATION_COMMAND_COMPLETE: R448 A migration command finishes and sets DONE or ERR. -/
  | migrationCommandComplete (slice : Nat) (res : MigResult)
  /-- MIGRATION_FOLIO_LANDED: R451 The destination places the received folio at its folio area and sets DONE. -/
  | migrationFolioLanded (slice : Nat) (bytes : List Byte)
  /-- PAGE_PULL_REQUEST: R453 An access to a pull-pending page waits and requests the page from the source. -/
  | pagePullRequest (slice page : Nat)
  /-- PAGE_PULL_ARRIVAL: R453 A pulled page is written and its waiters proceed. -/
  | pagePullArrival (slice page : Nat) (bytes : List Byte)
  /-- PAGE_PULL_TIMEOUT: R453 A pull not answered within PULLTO, or refused, fails its waiters with PullFailed. -/
  | pagePullTimeout (slice page : Nat)
  /-- CHECKPOINT_CUT_MARKER: R456 A cut marker makes the slice save and stage its dirty pages and folio at its buddy. -/
  | checkpointCutMarker (slice gen : Nat)
  /-- CHECKPOINT_COMMIT: R456 A commit makes buddies merge staged pages and slices set GEN and resume. -/
  | checkpointCommit (slice gen : Nat)
  /-- CHECKPOINT_ROLLBACK_MARKER: R458 A rollback marker resets contexts and restores the image of generation G. -/
  | checkpointRollbackMarker (slice gen : Nat) (image : CheckpointImage)
  /-- EDGE_SWITCH: R470 A GO to EDG_CTLn parks the group and begins a personality switch. -/
  | edgeSwitch (group : Nat) (val : Word)
  /-- EDGE_DRAIN_COMPLETE: R472 The outgoing personality's drain finishes and training begins. -/
  | edgeDrainComplete (group : Nat)
  /-- EDGE_TRAINING_COMPLETE: R470 The PHY finishes training for the target. -/
  | edgeTrainingComplete (group : Nat)
  /-- EDGE_LINKLAYER_COMPLETE: R470 The new link and transaction layers come up. -/
  | edgeLinklayerComplete (group : Nat)
  /-- EDGE_MAPPING_COMPLETE: R470 Path sets are rewritten and the windows unpark in the new personality or OFF. -/
  | edgeMappingComplete (group : Nat)
  /-- EDGE_BOUND_EXCEEDED: R470 Training or link layer exceeding its bound moves the group to FAILED. -/
  | edgeBoundExceeded (group : Nat)
  /-- PARKED_ACCESS_TIMEOUT: R471 An access parked for 40 ms faults LinkParked, is dropped, or ends its copy with STATUS 6. -/
  | parkedAccessTimeout (op : Nat)
  /-- PORT_H_DOWN: R474 Port H going down strands dirty host lines and fails host-class accesses. -/
  | portHDown
  /-- PORT_H_UP: R474 Port H trains again and host-class accesses resume. -/
  | portHUp
  /-- EDGE_LINK_FAILURE: R475 An UP group's link fails; it parks and proceeds toward OFF, peer lines are dropped. -/
  | edgeLinkFailure (group : Nat)
  /-- SCALEOUT_DESCRIPTOR_START: R467 The command processor, woken by TAIL, reads and starts the next scale-out descriptor. -/
  | scaleoutDescriptorStart (slice : Nat)
  /-- SCALEOUT_DESCRIPTOR_COMPLETE: R468 A scale-out descriptor completes and writes its token. -/
  | scaleoutDescriptorComplete (slice index : Nat) (res : TransferResult)
  /-- SCALEOUT_TIMEOUT: R468 A descriptor no group can carry for 40 ms completes with STATUS 0x0005. -/
  | scaleoutTimeout (slice index : Nat)
  /-- SLC_ECCCOR_READ: R85 Reading returns the corrected-sector count and clears it. -/
  | slcEcccorRead (slice : Nat)
  /-- SLC_ECCUNC_READ: R85 Reading returns the poisoned-sector count and clears it. -/
  | slcEccuncRead (slice : Nat)
  /-- L2B_RECALL_READ: R107 Reading returns the directory recall count and clears it. -/
  | l2bRecallRead (slice : Nat)
  /-- MXE_SATCNT_READ: R307 Reading returns the committed saturation count and clears it. -/
  | mxeSatcntRead (slice : Nat)
  /-- MXE_NANCNT_READ: R307 Reading returns the committed NaN count and clears it. -/
  | mxeNancntRead (slice : Nat)
  /-- SLC_DROPCNT_READ: R335 Reading returns the dropped store count and clears it. -/
  | slcDropcntRead (slice : Nat)
  /-- DST_LREFCNT_READ: R410 Reading returns the refused-record count and clears it. -/
  | dstLrefcntRead (slice : Nat)
  /-- CPE_CPYCNT_READ: R433 Reading returns the committed copy count and clears it. -/
  | cpeCpycntRead (slice : Nat)
  /-- SLC_SCRHEAD_READ: R433 Reading returns HEAD and the dropped-notification count, clearing NDROP. -/
  | slcScrheadRead (slice : Nat)
  /-- SLC_LINKEVT_READ: R477 Reading returns the stranded and lost line counts and clears them. -/
  | slcLinkevtRead (slice : Nat)
  /-- CONSTANT_IMAGE_ARRIVAL: R387 The constant image load that a core began at a launch's first admission arrives, releasing waiting k reads or ending the launch's contexts on that core with its fault. -/
  | constantImageArrival (core launch : Nat)
  /-- TASK_OPERAND_READS_COMPLETE: R114 A tile task finishes reading its operands, ending its granule holds and freeing its engine to take the next task. -/
  | taskOperandReadsComplete (task : Nat)
  deriving DecidableEq, Repr

end Sys2Proof
end

