-- ==== Sys2Proof/Machine/Encoding.lean ====
section
/-! DEFINITION. What each instruction word may hold: the operand codes, modifiers and word2 uses that every entry
accepts (R28 to R45, and the Encoding, Operands and Fates parts of every instruction entry). The decoder refuses
what these checks refuse, by raising IllegalEncoding (R28). -/

namespace Sys2Proof

/-- What one operand position accepts (R35): item registers, uniform registers, zero, a k word, an immediate, the
literal, none, or a predicate code; register numbers are multiples of `al` and a uniform number is at most `top`;
`wide` marks a 64-bit operand (R36, R38); `mark` says whether a last-read mark may stand on it. -/
structure Role where
  x : Bool := false
  q : Bool := false
  z : Bool := false
  k : Bool := false
  i : Bool := false
  l : Bool := false
  n : Bool := false
  p : Bool := false
  al : Nat := 1
  top : Nat := 63
  wide : Bool := false
  mark : Bool := true

/-- The operand code `c` is one that the position accepts (R35, R38; R163 and R259 for the k index of a pair, which
`itof` and `sel` follow: DEDUCED, log entry 22). -/
def Role.accepts (r : Role) (e : Ext) (c : BitVec 8) : Bool :=
  let v := c.toNat
  if r.p then decide (v < 96) || v == 127
  else if v < 128 then r.x && v % r.al == 0
  else if v < 192 then r.q && (v - 128) % r.al == 0 && decide (v - 128 ≤ r.top)
  else if v == 0xC0 then r.z
  else if v == 0xE0 then r.k && (!r.wide || decide (e.imm.toNat ≤ 1022))
  else if v == 0xF0 then r.i
  else if v == 0xF1 then r.l
  else if v == 0xFF then r.n
  else false

/-- A last-read mark stands only on a register operand (R35). -/
def Role.markOk (r : Role) (c : BitVec 8) (marked : Bool) : Bool :=
  !marked || (!r.p && r.mark && decide (c.toNat < 192))

/-- Word2 serves the operands (R36), or the entry's own field, with the check the entry makes of it. -/
inductive WordTwo where
  | operands
  | field (ok : Bool)

/-- What an entry accepts for the instruction at hand. -/
structure Spec where
  d : Role := { n := true }
  a : Role := { n := true }
  b : Role := { n := true }
  c : Role := { n := true }
  mod : Bool := true
  word2 : WordTwo := .operands
  needPT : Bool := false

/-- Guard codes (R34): p0 to p95, or PT. -/
def guardOk (g : BitVec 7) : Bool := decide (g.toNat < 96) || g == 127

/-- The checks of R28, R35, R36 and R37 on an extended instruction. -/
def extOk (s : Spec) (e : Ext) : Bool :=
  let codes := [e.a, e.b, e.c]
  let narrow (r : Role) (c : BitVec 8) : Bool := c == 0xF1 && !r.wide
  guardOk e.guard && (!s.needPT || (e.guard == 127 && !e.neg)) && s.mod
  && s.d.accepts e e.d && s.a.accepts e e.a && s.b.accepts e e.b && s.c.accepts e e.c
  && s.a.markOk e.a e.alr && s.b.markOk e.b e.blr && s.c.markOk e.c e.clr
  && (match s.word2 with
      | .field ok => ok && !codes.contains 0xE0
      | .operands =>
        if codes.contains 0xE0 then !codes.contains 0xF0 && decide (e.imm.toNat < 1024)
        else codes.contains 0xF0 || e.imm == 0)
  && (match e.lit with
      | none => !codes.contains 0xF1
      | some v => codes.contains 0xF1 &&
          (!(narrow s.a e.a || narrow s.b e.b || narrow s.c e.c) || decide (v.toNat < 2 ^ 32)))

/-! ### Shorthands for operand positions -/

/-- x0 to x127. -/
def rX : Role := { x := true }
/-- x0 to x127 or q0 to q63. -/
def rXQ : Role := { x := true, q := true }
/-- x, q or zero. -/
def rXQZ : Role := { x := true, q := true, z := true }
/-- Every source code of R244. -/
def rSrc : Role := { x := true, q := true, z := true, k := true, i := true, l := true }
/-- A predicate code. -/
def rP : Role := { p := true }
/-- The same position, 64 bits wide when `w` (R38). -/
def Role.pair (r : Role) (w : Bool) : Role := if w then { r with al := 2, wide := true } else r
/-- The same position with register numbers that are multiples of `n` (R38, R317). -/
def Role.align (r : Role) (n : Nat) : Role := { r with al := n, wide := decide (1 < n) }
/-- A position no last-read mark may stand on. -/
def Role.bare (r : Role) : Role := { r with mark := false }

/-- MOD bits [s+n-1:s]. -/
def Ext.modBits (e : Ext) (s n : Nat) : Nat := (e.mod.toNat >>> s) % 2 ^ n
/-- MOD bit s. -/
def Ext.modBit (e : Ext) (s : Nat) : Bool := e.mod.toNat.testBit s
/-- MOD has no bit set outside `mask` (R39). -/
def Ext.modIn (e : Ext) (mask : Nat) : Bool := e.mod.toNat &&& mask == e.mod.toNat
/-- Word2's bits [1:0] are zero: a branch displacement (R198, R200, R202). -/
def Ext.dispOk (e : Ext) : Bool := e.imm.toNat % 4 == 0

/-- A one-source arithmetic entry (R244). -/
def spec1 (modOk : Bool) : Spec := { d := rXQZ, a := rSrc, mod := modOk }
/-- A two-source arithmetic entry (R244). -/
def spec2 (modOk : Bool) : Spec := { d := rXQZ, a := rSrc, b := rSrc, mod := modOk }
/-- A three-source arithmetic entry (R244). -/
def spec3 (modOk : Bool) : Spec := { d := rXQZ, a := rSrc, b := rSrc, c := rSrc, mod := modOk }

/-- Word2's SCOPE, ORD and HINT fields of R315. -/
def Ext.scope (e : Ext) : Nat := e.imm.toNat >>> 29
def Ext.ord (e : Ext) : Nat := (e.imm.toNat >>> 27) % 4
def Ext.hint (e : Ext) : Nat := (e.imm.toNat >>> 25) % 4
/-- Word2's bit 24 is reserved (R315). -/
def Ext.bit24 (e : Ext) : Bool := e.imm.toNat.testBit 24

/-- The rules of R315 that hold for every user of its word2: reserved values, SCOPE 000 without an order, and the
orders (`ords`) and hints the entry and the space allow. -/
def memWord2 (e : Ext) (ords : List Nat) (hints : Bool) : Bool :=
  e.scope != 7 && ords.contains e.ord && (e.ord != 0 || e.scope == 0) && !e.bit24
  && (if hints then e.hint != 3 else e.hint == 0)

/-- A base operand (R314, R324): x, q or zero, and an even x or q register under A64 (for every memory instruction of chapter 11;
DEDUCED, log entry 19). -/
def rBase (a64 : Bool) : Role :=
  if a64 then { x := true, q := true, al := 2, wide := true } else rXQZ

/-- Register multiple of a memory width W (R317). -/
def widthAlign (w : Nat) : Nat := if w == 5 then 2 else if w == 6 then 4 else 1

/-- `ld` and `ldq` (R324): `d` accepts the destination, `space` the address spaces. -/
def specLoad (d : Role) (spaces : List Nat) (e : Ext) : Spec :=
  let sp := e.modBits 0 3
  let w := e.modBits 3 3
  let a64 := e.modBit 6
  { d := d.align (widthAlign w), a := rBase a64, b := { rXQZ with l := true },
    mod := spaces.contains sp && w != 7 && (!a64 || sp == 0),
    word2 := .field (memWord2 e (if sp == 5 then [0] else [0, 1]) (decide (sp < 2))) }

/-- `st` (R326). -/
def specStore (e : Ext) : Spec :=
  let sp := e.modBits 0 3
  let w := e.modBits 3 3
  let a64 := e.modBit 6
  { a := rBase a64, b := { rXQZ with l := true },
    c := Role.align { rXQZ with l := w != 6 } (widthAlign w),
    mod := decide (sp < 5) && [0, 2, 4, 5, 6].contains w && (!a64 || sp == 0),
    word2 := .field (memWord2 e [0, 2] (decide (sp < 2))) }

/-- `prf` (R328). -/
def specPrf (e : Ext) : Spec :=
  let a64 := e.modBit 6
  { a := rBase a64, b := { rXQZ with l := true },
    mod := decide (e.modBits 0 3 < 2) && decide (e.modBits 3 3 < 2) && (!a64 || e.modBits 0 3 == 0),
    word2 := .field (decide (e.imm.toNat < 2 ^ 24)) }

/-- `cctl` (R330). -/
def specCctl (e : Ext) : Spec :=
  let op := e.modBits 0 3
  let whole := op == 2 || op == 3
  let a64 := e.modBit 3
  { a := if whole then { n := true } else rBase a64,
    mod := e.modIn 0xF && decide (op < 5) && !(whole && a64),
    word2 := .field (if whole then e.imm == 0 else decide (e.imm.toNat < 2 ^ 24)) }

/-- `atom` and `red` (R336). -/
def specAtom (red : Bool) (e : Ext) : Spec :=
  let op := e.modBits 0 4
  let w64 := e.modBit 5
  let v : Role := Role.pair { rXQZ with l := true } w64
  { d := if red then { n := true } else Role.pair { x := true, z := true } w64,
    a := rBase (e.modBit 6), b := v, c := if op == 7 then v else { n := true },
    mod := e.modIn 0xFF && decide (op < 13) && !(red && (op == 6 || op == 7))
      && !(w64 && decide (10 ≤ op)) && (!e.modBit 4 || op == 1 || op == 2) && (!e.modBit 7 || decide (10 ≤ op))
      && !(e.b == 0xF1 && e.c == 0xF1),
    word2 := .field (memWord2 e (if red then [0, 2] else [0, 1, 2, 3]) false) }

/-- `cas128` (R339). -/
def specCas (e : Ext) : Spec :=
  let quad : Role := rXQ.align 4
  { d := { x := true, z := true, al := 4 }, a := rBase (e.modBit 6), b := quad, c := quad,
    mod := e.modIn 0x40, word2 := .field (memWord2 e [0, 1, 2, 3] false) }

/-- A copy instruction whose descriptor starts at q0 to `top` (R133). -/
def specCopy (top : Nat) (gather : Bool) (e : Ext) : Spec :=
  { d := rXQZ, a := { q := true, al := 4, top := top, mark := false },
    b := if gather then rXQ else { n := true }, mod := e.mod == 0 }

/-- Counted barriers and signals (R382, which admits a zero base under A64 too). -/
def specBarrier (d b : Role) (e : Ext) : Spec :=
  { d := d, a := { rBase (e.modBit 0) with z := true }, b := b, mod := e.modIn 1,
    word2 := .field (decide (3 ≤ e.scope) && decide (e.scope ≤ 6) && e.ord == 0 && e.hint == 0 && !e.bit24) }

/-- One row of the OPX map (R44): the code, the instruction it makes, and what its entry accepts. -/
structure ExtRow where
  opx : Nat
  make : Ext → Instr
  spec : Ext → Spec

/-- 0x000 to 0x00A: R198 to R213. -/
def rowsControl : List ExtRow :=
  [ ⟨0x000, .bra, fun e => { mod := e.mod == 0, word2 := .field e.dispOk }⟩,
    ⟨0x001, .brx, fun e => { a := rXQ, word2 := .field e.dispOk }⟩,
    ⟨0x002, .call, fun e => { d := rXQ, mod := e.mod == 0, word2 := .field e.dispOk }⟩,
    ⟨0x003, .ret, fun e => { a := rXQ, mod := e.mod == 0 }⟩,
    ⟨0x004, .exit, fun e => { mod := e.mod == 0 }⟩,
    ⟨0x005, .join, fun e => { mod := e.mod == 0, needPT := true }⟩,
    ⟨0x006, .yield, fun e => { mod := e.mod == 0, needPT := true }⟩,
    ⟨0x007, .wait, fun e => { mod := e.modIn 1, needPT := true, word2 := .field (
        if e.modBit 0 then decide (1 ≤ e.imm.toNat) && decide (e.imm.toNat ≤ 2 ^ 20)
        else decide (e.imm.toNat < 2 ^ 12)) }⟩,
    ⟨0x008, .nop, fun e => { mod := e.mod == 0 }⟩,
    ⟨0x009, .mat, fun e => { mod := e.mod == 0, needPT := true }⟩,
    ⟨0x00A, .formq, fun e => { d := rXQZ, a := if e.modBit 0 then rP else rXQ.bare, mod := e.modIn 1 }⟩ ]

/-- 0x040 to 0x049: R163 to R180. -/
def rowsMove : List ExtRow :=
  [ ⟨0x040, .mov, fun e => { d := rXQ.pair (e.modBit 0), a := rSrc.pair (e.modBit 0), mod := e.modIn 1 }⟩,
    ⟨0x041, .movk, fun e => { d := rXQ.pair (e.modBit 0), a := rXQZ, mod := e.modIn 1, word2 := .field (decide (e.imm.toNat < 1024)) }⟩,
    ⟨0x042, .sel, fun e => { d := rXQZ.pair (e.modBit 1), a := rSrc.pair (e.modBit 1), b := rSrc.pair (e.modBit 1), c := rP, mod := e.modIn 3 }⟩,
    ⟨0x043, .rds, fun e => { d := rXQ, mod := decide (e.mod.toNat ≤ 0x18) }⟩,
    ⟨0x044, .wrs, fun e => { a := { q := true, k := true, i := true }, mod := e.mod == 0x13 || e.mod == 0x14 }⟩,
    ⟨0x045, .pcomb, fun e => { d := rP, a := rP, b := rP, mod := e.modIn 0xF && e.modBits 0 2 != 3 }⟩,
    ⟨0x046, .pmov, fun e =>
        if e.modBit 0 then { a := rXQZ, mod := e.modIn 7 && e.modBits 1 2 != 3, word2 := .field true }
        else { d := rXQZ, mod := e.modIn 7 && e.modBits 1 2 != 3 }⟩,
    ⟨0x047, .vote, fun e => { d := if e.modBits 0 2 == 3 then rXQ.pair true else rP, a := rP, mod := e.modIn 7 }⟩,
    ⟨0x048, .sxch, fun e => { d := rXQ, a := rXQZ, b := rSrc, mod := e.modIn 0x1F && e.modBits 2 3 != 7 }⟩,
    ⟨0x049, .sred, fun e => { d := rXQ, a := { rXQZ with k := true, i := true }, mod := decide (e.mod.toNat ≤ 10) }⟩ ]

/-- 0x080 to 0x09C: R247 to R260. -/
def rowsInt : List ExtRow :=
  [ ⟨0x080, .iadd, fun e => spec2 (e.modIn 1)⟩, ⟨0x081, .isub, fun e => spec2 (e.modIn 1)⟩,
    ⟨0x082, .imul, fun e => spec2 (e.modIn 0)⟩, ⟨0x083, .imulh, fun e => spec2 (e.modIn 1)⟩,
    ⟨0x084, .imad, fun e => spec3 (e.modIn 0)⟩, ⟨0x085, .imin, fun e => spec2 (e.modIn 1)⟩,
    ⟨0x086, .imax, fun e => spec2 (e.modIn 1)⟩, ⟨0x087, .iabs, fun e => spec1 (e.modIn 1)⟩,
    ⟨0x088, .ineg, fun e => spec1 (e.modIn 1)⟩, ⟨0x089, .and, fun e => spec2 (e.modIn 0)⟩,
    ⟨0x08A, .or, fun e => spec2 (e.modIn 0)⟩, ⟨0x08B, .xor, fun e => spec2 (e.modIn 0)⟩,
    ⟨0x08C, .not, fun e => spec1 (e.modIn 0)⟩, ⟨0x08D, .andn, fun e => spec2 (e.modIn 0)⟩,
    ⟨0x08E, .shl, fun e => spec2 (e.modIn 0)⟩, ⟨0x08F, .shr, fun e => spec2 (e.modIn 0)⟩,
    ⟨0x090, .sar, fun e => spec2 (e.modIn 0)⟩, ⟨0x091, .rol, fun e => spec2 (e.modIn 0)⟩,
    ⟨0x092, .popc, fun e => spec1 (e.modIn 0)⟩, ⟨0x093, .clz, fun e => spec1 (e.modIn 0)⟩,
    ⟨0x094, .brev, fun e => spec1 (e.modIn 0)⟩, ⟨0x095, .bfe, fun e => spec2 (e.modIn 1)⟩,
    ⟨0x096, .bfi, fun e => spec3 (e.modIn 0)⟩, ⟨0x097, .bperm, fun e => spec3 (e.modIn 0)⟩,
    ⟨0x098, .lea, fun e => spec2 (e.modIn 0x1F)⟩,
    ⟨0x099, .icmp, fun e => { spec2 (e.modIn 0xF && decide (e.modBits 0 3 < 6)) with d := rP }⟩,
    ⟨0x09A, .idp4, fun e => spec3 (e.modIn 3)⟩,
    ⟨0x09B, .iadd64, fun e => { d := rXQZ.pair true, a := rSrc.pair true, b := rSrc.pair true, mod := e.modIn 1 }⟩,
    ⟨0x09C, .imad64, fun e => { d := rXQZ.pair true, a := rSrc, b := rSrc, c := rSrc.pair true, mod := e.modIn 1 }⟩ ]

/-- 0x0C0 to 0x0CD: R261 to R273. -/
def rowsFp : List ExtRow :=
  [ ⟨0x0C0, .fadd, fun e => spec2 (e.modIn 0x7F)⟩, ⟨0x0C1, .fmul, fun e => spec2 (e.modIn 0x7F)⟩,
    ⟨0x0C2, .ffma, fun _ => spec3 true⟩, ⟨0x0C3, .fmin, fun e => spec2 (e.modIn 0x7C)⟩,
    ⟨0x0C4, .fmax, fun e => spec2 (e.modIn 0x7C)⟩,
    ⟨0x0C5, .fcmp, fun e => { spec2 (decide (e.modBits 0 4 < 14)) with d := rP }⟩,
    ⟨0x0C6, .frnd, fun e => spec1 (e.modIn 0x1F)⟩, ⟨0x0C7, .frcp, fun e => spec1 (e.modIn 0x1F)⟩,
    ⟨0x0C8, .frsq, fun e => spec1 (e.modIn 0x1C)⟩, ⟨0x0C9, .fsqrt, fun e => spec1 (e.modIn 0x1F)⟩,
    ⟨0x0CA, .fex2, fun e => spec1 (e.modIn 0x1C)⟩, ⟨0x0CB, .flg2, fun e => spec1 (e.modIn 0x1C)⟩,
    ⟨0x0CC, .fsin, fun e => spec1 (e.modIn 0x1C)⟩, ⟨0x0CD, .fcos, fun e => spec1 (e.modIn 0x1C)⟩ ]

/-- 0x100 to 0x104 and 0x140 to 0x145: R274 to R283. -/
def rowsPackConvert : List ExtRow :=
  [ ⟨0x100, .padd16, fun e => spec2 (e.modIn 0x7F)⟩, ⟨0x101, .pmul16, fun e => spec2 (e.modIn 0x7F)⟩,
    ⟨0x102, .pfma16, fun e => spec3 (e.modIn 0xFF)⟩, ⟨0x103, .pmin16, fun e => spec2 (e.modIn 0x6C)⟩,
    ⟨0x104, .pmax16, fun e => spec2 (e.modIn 0x6C)⟩,
    ⟨0x140, .ftoi, fun e => { d := rXQZ.pair (e.modBit 4), a := rSrc, mod := e.modIn 0x1F }⟩,
    ⟨0x141, .itof, fun e => { d := rXQZ, a := rSrc.pair (e.modBit 4), mod := e.modIn 0x17 }⟩,
    ⟨0x142, .ftof, fun e => spec1 (e.modBits 4 2 != 3 && e.modBits 6 2 != 3
        && !(e.modBit 2 && e.modBits 6 2 == 0) && !(e.modBit 8 && e.modBits 4 2 == 0))⟩,
    ⟨0x143, .fpk8, fun e => spec3 (e.modIn 0x3F && e.modBits 1 2 != 3
        && !(e.modBits 1 2 == 2 && e.modBits 4 2 != 0))⟩,
    ⟨0x144, .fpk4, fun e => spec3 (e.modIn 0xF)⟩,
    ⟨0x145, .funpk, fun e => spec1 (e.modIn 0x3F && decide (e.modBits 0 3 < 6)
        && (!decide (e.modBits 0 3 < 3) || decide (e.modBits 3 3 < 4))
        && (!decide (4 ≤ e.modBits 0 3) || decide (e.modBits 3 3 < 2)))⟩ ]

/-- 0x180 to 0x188: R324 to R340, R361. -/
def rowsMemory : List ExtRow :=
  [ ⟨0x180, .ld, specLoad rX [0, 1, 2, 3, 4, 5]⟩, ⟨0x181, .st, specStore⟩,
    ⟨0x182, .ldq, specLoad rXQ [0, 2, 3, 4, 5]⟩, ⟨0x183, .prf, specPrf⟩, ⟨0x184, .cctl, specCctl⟩,
    ⟨0x185, .atom, specAtom false⟩, ⟨0x186, .red, specAtom true⟩, ⟨0x187, .cas128, specCas⟩,
    ⟨0x188, .fence, fun e => { mod := e.modIn 0x1F && e.modBits 0 3 != 7 && e.modBits 3 2 != 0 }⟩ ]

/-- 0x1C0 to 0x1C8: R133 to R145. -/
def rowsShelf : List ExtRow :=
  [ ⟨0x1C0, .cpy, specCopy 56 false⟩, ⟨0x1C1, .cpy2, specCopy 52 false⟩, ⟨0x1C2, .cpy3, specCopy 48 false⟩,
    ⟨0x1C3, .cpyg, specCopy 52 true⟩,
    ⟨0x1C4, .publ, fun e => { a := { q := true, i := true, mark := false }, mod := e.mod == 0, word2 := .field (if e.a == 0xF0 then decide (e.imm.toNat < 16) else e.imm == 0) }⟩,
    ⟨0x1C5, .ctok, fun e => { d := rXQ, a := { q := true, i := true, mark := false }, mod := e.mod == 0 }⟩,
    ⟨0x1C6, .ccan, fun e => { a := { q := true, i := true, mark := false }, mod := e.mod == 0 }⟩,
    ⟨0x1C7, .grel, fun e => { a := { q := true, z := true, mark := false }, mod := e.modBits 0 2 != 0, word2 := .field true }⟩,
    ⟨0x1C8, .gstat, fun e => { d := rXQ, a := { q := true, z := true, mark := false }, mod := e.modIn 3 && e.modBits 0 2 != 0, word2 := .field true }⟩ ]

/-- 0x200 to 0x202: R309 to R312. -/
def rowsTask : List ExtRow :=
  [ ⟨0x200, .tpost, fun e => { a := { q := true, al := 4, top := 48, mark := false }, b := rSrc, mod := e.mod == 0 }⟩,
    ⟨0x201, .chb, fun e => { mod := e.modIn 1 }⟩,
    ⟨0x202, .che, fun e => { a := if e.modBit 1 then { q := true, al := 2, mark := false } else { n := true }, mod := e.modIn 3 }⟩ ]

/-- 0x240 to 0x249: R378 to R384. -/
def rowsGroup : List ExtRow :=
  [ ⟨0x240, .gnew, fun e => { d := rXQ, mod := e.mod == 0 }⟩,
    ⟨0x241, .gjoin, fun e => { a := rXQ, mod := e.mod == 0 }⟩,
    ⟨0x242, .gleave, fun e => { a := rXQ, mod := e.mod == 0 }⟩,
    ⟨0x243, .gfree, fun e => { a := rXQ, mod := e.mod == 0 }⟩,
    ⟨0x244, .bar, fun e => { d := rP, a := rXQZ, mod := e.mod == 0 }⟩,
    ⟨0x245, .barinit, specBarrier { n := true } { rXQ with l := true }⟩,
    ⟨0x246, .barr, specBarrier rXQZ { n := true }⟩,
    ⟨0x247, .barw, specBarrier rP { rXQ with l := true }⟩,
    ⟨0x248, .sigs, specBarrier { n := true } { rXQ with l := true }⟩,
    ⟨0x249, .sigw, specBarrier rP { rXQ with l := true }⟩ ]

/-- 0x280 to 0x282: R402, R423, R425. -/
def rowsSystem : List ExtRow :=
  [ ⟨0x280, .launch, fun e => { d := rXQZ, a := rXQ.pair (e.modBit 0), mod := e.modIn 3, word2 := .field (decide (e.imm.toNat < 2 ^ 24)) }⟩,
    ⟨0x281, .trap, fun e => { a := if e.modBit 0 then { q := true, al := 2, mark := false } else { n := true }, mod := e.modIn 1, word2 := .field (decide (e.imm.toNat < 2 ^ 16)) }⟩,
    ⟨0x282, .brk, fun e => { mod := e.mod == 0, word2 := .field (decide (e.imm.toNat < 2 ^ 16)) }⟩ ]

/-- The OPX map of R44. -/
def extRows : List ExtRow :=
  rowsControl ++ rowsMove ++ rowsInt ++ rowsFp ++ rowsPackConvert ++ rowsMemory ++ rowsShelf ++ rowsTask
    ++ rowsGroup ++ rowsSystem

/-- The row of an OPX code; none for an unassigned code (R44). -/
def extRow (opx : Nat) : Option ExtRow := extRows.find? (fun r => r.opx == opx)

/-- A base word's own constraint of R29: no last-read mark on a k word. -/
def BaseOps.ok (f : BaseOps) : Bool := !(f.bk && f.blr)
def Base1.ok (f : Base1) : Bool := !(f.bk && f.blr)

/-- A clause header's fields (R45). -/
def ClauseWord.ok (h : ClauseWord) : Bool :=
  let legal (v : BitVec 4) : Bool := decide (v.toNat < 12) || v == 15
  legal h.setA && legal h.setB && (h.setA != h.setB || h.setA == 15)

/-- A word of the strand slot (R42). -/
def Slot.okStrand : Slot → Bool
  | .two _ f => f.ok
  | .one _ f => f.ok
  | .f20 _ _ => true
  | .mem _ f => f.ok

/-- A word of the span slot: no memory major, and register fields that name q0 to q63 (R42). -/
def Slot.okSpan : Slot → Bool
  | .two _ f => f.ok && decide (f.d.toNat < 64) && decide (f.a.toNat < 64) && (f.bk || decide (f.b.toNat < 64))
  | .one _ f => f.ok && decide (f.d.toNat < 64) && (f.bk || decide (f.b.toNat < 64))
  | .f20 _ _ => true
  | .mem _ _ => false

/-- A pair's fields (R41, R42). -/
def PairWord.ok (w : PairWord) : Bool := guardOk w.guard && w.span.okSpan && w.strand.okStrand

end Sys2Proof
end

