-- ==== Sys2Proof/WellFormed.lean ====
section
/-! DEFINITION. Well-formed instructions: those whose fields the spec lets an encoding hold (R28 to R45). The checks
themselves stand in Machine/Encoding.lean. Device steps and outside events have no encoding (95) and carry whatever
the world outside sends, so every one of them is well formed. -/

namespace Sys2Proof

/-- The OPX code and the fields of an extended instruction (R44); none for every other instruction. -/
def Instr.asExt : Instr → Option (Nat × Ext)
  | .bra e => some (0x000, e)
  | .brx e => some (0x001, e)
  | .call e => some (0x002, e)
  | .ret e => some (0x003, e)
  | .exit e => some (0x004, e)
  | .join e => some (0x005, e)
  | .yield e => some (0x006, e)
  | .wait e => some (0x007, e)
  | .nop e => some (0x008, e)
  | .mat e => some (0x009, e)
  | .formq e => some (0x00A, e)
  | .mov e => some (0x040, e)
  | .movk e => some (0x041, e)
  | .sel e => some (0x042, e)
  | .rds e => some (0x043, e)
  | .wrs e => some (0x044, e)
  | .pcomb e => some (0x045, e)
  | .pmov e => some (0x046, e)
  | .vote e => some (0x047, e)
  | .sxch e => some (0x048, e)
  | .sred e => some (0x049, e)
  | .iadd e => some (0x080, e)
  | .isub e => some (0x081, e)
  | .imul e => some (0x082, e)
  | .imulh e => some (0x083, e)
  | .imad e => some (0x084, e)
  | .imin e => some (0x085, e)
  | .imax e => some (0x086, e)
  | .iabs e => some (0x087, e)
  | .ineg e => some (0x088, e)
  | .and e => some (0x089, e)
  | .or e => some (0x08A, e)
  | .xor e => some (0x08B, e)
  | .not e => some (0x08C, e)
  | .andn e => some (0x08D, e)
  | .shl e => some (0x08E, e)
  | .shr e => some (0x08F, e)
  | .sar e => some (0x090, e)
  | .rol e => some (0x091, e)
  | .popc e => some (0x092, e)
  | .clz e => some (0x093, e)
  | .brev e => some (0x094, e)
  | .bfe e => some (0x095, e)
  | .bfi e => some (0x096, e)
  | .bperm e => some (0x097, e)
  | .lea e => some (0x098, e)
  | .icmp e => some (0x099, e)
  | .idp4 e => some (0x09A, e)
  | .iadd64 e => some (0x09B, e)
  | .imad64 e => some (0x09C, e)
  | .fadd e => some (0x0C0, e)
  | .fmul e => some (0x0C1, e)
  | .ffma e => some (0x0C2, e)
  | .fmin e => some (0x0C3, e)
  | .fmax e => some (0x0C4, e)
  | .fcmp e => some (0x0C5, e)
  | .frnd e => some (0x0C6, e)
  | .frcp e => some (0x0C7, e)
  | .frsq e => some (0x0C8, e)
  | .fsqrt e => some (0x0C9, e)
  | .fex2 e => some (0x0CA, e)
  | .flg2 e => some (0x0CB, e)
  | .fsin e => some (0x0CC, e)
  | .fcos e => some (0x0CD, e)
  | .padd16 e => some (0x100, e)
  | .pmul16 e => some (0x101, e)
  | .pfma16 e => some (0x102, e)
  | .pmin16 e => some (0x103, e)
  | .pmax16 e => some (0x104, e)
  | .ftoi e => some (0x140, e)
  | .itof e => some (0x141, e)
  | .ftof e => some (0x142, e)
  | .fpk8 e => some (0x143, e)
  | .fpk4 e => some (0x144, e)
  | .funpk e => some (0x145, e)
  | .ld e => some (0x180, e)
  | .st e => some (0x181, e)
  | .ldq e => some (0x182, e)
  | .prf e => some (0x183, e)
  | .cctl e => some (0x184, e)
  | .atom e => some (0x185, e)
  | .red e => some (0x186, e)
  | .cas128 e => some (0x187, e)
  | .fence e => some (0x188, e)
  | .cpy e => some (0x1C0, e)
  | .cpy2 e => some (0x1C1, e)
  | .cpy3 e => some (0x1C2, e)
  | .cpyg e => some (0x1C3, e)
  | .publ e => some (0x1C4, e)
  | .ctok e => some (0x1C5, e)
  | .ccan e => some (0x1C6, e)
  | .grel e => some (0x1C7, e)
  | .gstat e => some (0x1C8, e)
  | .tpost e => some (0x200, e)
  | .chb e => some (0x201, e)
  | .che e => some (0x202, e)
  | .gnew e => some (0x240, e)
  | .gjoin e => some (0x241, e)
  | .gleave e => some (0x242, e)
  | .gfree e => some (0x243, e)
  | .bar e => some (0x244, e)
  | .barinit e => some (0x245, e)
  | .barr e => some (0x246, e)
  | .barw e => some (0x247, e)
  | .sigs e => some (0x248, e)
  | .sigw e => some (0x249, e)
  | .launch e => some (0x280, e)
  | .trap e => some (0x281, e)
  | .brk e => some (0x282, e)
  | _ => none

/-- A well-formed instruction: no check of R28 to R45 refuses its fields. -/
def Instr.wf (i : Instr) : Bool :=
  match i.asExt with
  | some (opx, e) =>
    match extRow opx with
    | some r => extOk (r.spec e) e
    | none => false
  | none =>
    match i with
    | .clause h => h.ok
    | .pair w => w.ok
    | .iaddBase f => f.ok
    | .isubBase f => f.ok
    | .imulBase f => f.ok
    | .imulhBase f => f.ok
    | .iminBase f => f.ok
    | .imaxBase f => f.ok
    | .andBase f => f.ok
    | .orBase f => f.ok
    | .xorBase f => f.ok
    | .andnBase f => f.ok
    | .shlBase f => f.ok
    | .shrBase f => f.ok
    | .sarBase f => f.ok
    | .rolBase f => f.ok
    | .lea1Base f => f.ok
    | .lea2Base f => f.ok
    | .lea3Base f => f.ok
    | .faddBase f => f.ok
    | .fmulBase f => f.ok
    | .ffmaDmBase f => f.ok
    | .ffmaAccBase f => f.ok
    | .fminBase f => f.ok
    | .fmaxBase f => f.ok
    | .padd16Base f => f.ok
    | .pmul16Base f => f.ok
    | .pfma16AccBase f => f.ok
    | .ldB32Base f => f.ok
    | .stB32Base f => f.ok
    | .ldqB32Base f => f.ok
    | .movBase f => f.ok
    | .popcBase f => f.ok
    | .clzBase f => f.ok
    | .brevBase f => f.ok
    | .notBase f => f.ok
    | .braBase disp => disp.toNat % 4 == 0
    | _ => true

end Sys2Proof
end

