-- ==== Sys2Proof/Decode.lean ====
section
/-! DEFINITION. Decoding instruction words (R26 to R45), total on every list of words, and the encoder written from
the same layouts. Fields are taken and placed as numbers, so that both directions are arithmetic. -/

namespace Sys2Proof

/-- Why a word is no instruction. All but `truncated` raise IllegalEncoding (R28); `truncated` says that the list
handed to the decoder ends inside the instruction, which the machine never does (R27). -/
inductive DecodeErr where
  | truncated
  | unassignedMajor
  | badLength
  | badFields
  | unassignedOpx
  deriving DecidableEq, Repr

/-- Bits [lo+n-1:lo] of a number. -/
def bits (w lo n : Nat) : Nat := w / 2 ^ lo % 2 ^ n

/-- Bit lo of a number. -/
def bitAt (w lo : Nat) : Bool := w / 2 ^ lo % 2 == 1

/-- 1 for a set bit. -/
def bitNat (b : Bool) : Nat := if b then 1 else 0

/-- Words of the instruction whose first word is `w` (R26). -/
def instrLength (w : Word) : Nat :=
  match bits w.toNat 30 2 with
  | 0 => 1
  | 1 => 2
  | 2 => 3
  | _ => 5

/-! ### Layouts -/

/-- R29. -/
def BaseOps.ofNat (w : Nat) : BaseOps :=
  { d := .ofNat 7 (bits w 17 7), a := .ofNat 7 (bits w 10 7), alr := bitAt w 9, b := .ofNat 7 (bits w 2 7),
    blr := bitAt w 1, bk := bitAt w 0 }

/-- R29, without LEN and MAJOR. -/
def BaseOps.toNat (f : BaseOps) : Nat :=
  f.d.toNat * 2 ^ 17 + f.a.toNat * 2 ^ 10 + bitNat f.alr * 2 ^ 9 + f.b.toNat * 2 ^ 2 + bitNat f.blr * 2
    + bitNat f.bk

/-- R30. -/
def Base1.ofNat (w : Nat) : Base1 :=
  { d := .ofNat 7 (bits w 17 7), b := .ofNat 7 (bits w 2 7), blr := bitAt w 1, bk := bitAt w 0 }

/-- R30: A and ALR are zero. -/
def Base1.toNat (f : Base1) : Nat :=
  f.d.toNat * 2 ^ 17 + f.b.toNat * 2 ^ 2 + bitNat f.blr * 2 + bitNat f.bk

/-- R32. -/
def F20Word.ofNat (w : Nat) : F20Word := { d := .ofNat 4 (bits w 20 4), imm := .ofNat 20 (bits w 0 20) }

/-- R32, without LEN and MAJOR. -/
def F20Word.toNat (f : F20Word) : Nat := f.d.toNat * 2 ^ 20 + f.imm.toNat

/-- R45. -/
def ClauseWord.ofNat (w : Nat) : ClauseWord :=
  { wait := .ofNat 12 (bits w 12 12), setA := .ofNat 4 (bits w 8 4), setB := .ofNat 4 (bits w 4 4),
    rgn := bitAt w 3, yld := bitAt w 2 }

/-- R45, without LEN and MAJOR. -/
def ClauseWord.toNat (h : ClauseWord) : Nat :=
  h.wait.toNat * 2 ^ 12 + h.setA.toNat * 2 ^ 8 + h.setB.toNat * 2 ^ 4 + bitNat h.rgn * 8 + bitNat h.yld * 4

/-- The bits [8:0] that every base word with a literal holds: B = 0x7F, BLR = 0, BK = 1 (R31). -/
def litB : Nat := 0x1FD

/-- R34. -/
def Ext.ofWords (w0 w1 w2 : Nat) (lit : Option DWord) : Ext :=
  { guard := .ofNat 7 (bits w0 13 7), neg := bitAt w0 12, alr := bitAt w0 11, blr := bitAt w0 10,
    clr := bitAt w0 9, mod := .ofNat 9 (bits w0 0 9), d := .ofNat 8 (bits w1 24 8), a := .ofNat 8 (bits w1 16 8),
    b := .ofNat 8 (bits w1 8 8), c := .ofNat 8 (bits w1 0 8), imm := .ofNat 32 w2, lit := lit }

/-- R34: word0 without LEN and OPX. -/
def Ext.word0 (e : Ext) : Nat :=
  e.guard.toNat * 2 ^ 13 + bitNat e.neg * 2 ^ 12 + bitNat e.alr * 2 ^ 11 + bitNat e.blr * 2 ^ 10
    + bitNat e.clr * 2 ^ 9 + e.mod.toNat

/-- R34: word1. -/
def Ext.word1 (e : Ext) : Nat := e.d.toNat * 2 ^ 24 + e.a.toNat * 2 ^ 16 + e.b.toNat * 2 ^ 8 + e.c.toNat

/-! ### The base-major map (R33) -/

/-- A two-operand base major with its two forms. -/
structure BaseRow where
  major : Nat
  reg : BaseOps → Instr
  lit : BaseLit → Instr

/-- A single-source base major with its two forms. -/
structure BaseRow1 where
  major : Nat
  reg : Base1 → Instr
  lit : Base1Lit → Instr

/-- Majors 0x01 to 0x1A and 0x20 to 0x22. -/
def baseRows : List BaseRow :=
  [ ⟨0x01, .iaddBase, .iaddBaseLit⟩,
    ⟨0x02, .isubBase, .isubBaseLit⟩,
    ⟨0x03, .imulBase, .imulBaseLit⟩,
    ⟨0x04, .imulhBase, .imulhBaseLit⟩,
    ⟨0x05, .iminBase, .iminBaseLit⟩,
    ⟨0x06, .imaxBase, .imaxBaseLit⟩,
    ⟨0x07, .andBase, .andBaseLit⟩,
    ⟨0x08, .orBase, .orBaseLit⟩,
    ⟨0x09, .xorBase, .xorBaseLit⟩,
    ⟨0x0A, .andnBase, .andnBaseLit⟩,
    ⟨0x0B, .shlBase, .shlBaseLit⟩,
    ⟨0x0C, .shrBase, .shrBaseLit⟩,
    ⟨0x0D, .sarBase, .sarBaseLit⟩,
    ⟨0x0E, .rolBase, .rolBaseLit⟩,
    ⟨0x0F, .lea1Base, .lea1BaseLit⟩,
    ⟨0x10, .lea2Base, .lea2BaseLit⟩,
    ⟨0x11, .lea3Base, .lea3BaseLit⟩,
    ⟨0x12, .faddBase, .faddBaseLit⟩,
    ⟨0x13, .fmulBase, .fmulBaseLit⟩,
    ⟨0x14, .ffmaDmBase, .ffmaDmBaseLit⟩,
    ⟨0x15, .ffmaAccBase, .ffmaAccBaseLit⟩,
    ⟨0x16, .fminBase, .fminBaseLit⟩,
    ⟨0x17, .fmaxBase, .fmaxBaseLit⟩,
    ⟨0x18, .padd16Base, .padd16BaseLit⟩,
    ⟨0x19, .pmul16Base, .pmul16BaseLit⟩,
    ⟨0x1A, .pfma16AccBase, .pfma16AccBaseLit⟩,
    ⟨0x20, .ldB32Base, .ldB32BaseLit⟩,
    ⟨0x21, .stB32Base, .stB32BaseLit⟩,
    ⟨0x22, .ldqB32Base, .ldqB32BaseLit⟩ ]

/-- Majors 0x1B to 0x1F. -/
def baseRows1 : List BaseRow1 :=
  [ ⟨0x1B, .movBase, .movBaseLit⟩,
    ⟨0x1C, .popcBase, .popcBaseLit⟩,
    ⟨0x1D, .clzBase, .clzBaseLit⟩,
    ⟨0x1E, .brevBase, .brevBaseLit⟩,
    ⟨0x1F, .notBase, .notBaseLit⟩ ]

/-- F20 majors 0x30 to 0x34. -/
def f20Of : Nat → Option (F20Word → Instr)
  | 0x30 => some .faddI
  | 0x31 => some .fmulI
  | 0x32 => some .fminI
  | 0x33 => some .fmaxI
  | 0x34 => some .fmovI
  | _ => none

/-- The slot operation of a two-operand major. -/
def op2Of : Nat → Option Op2
  | 0x01 => some .iadd
  | 0x02 => some .isub
  | 0x03 => some .imul
  | 0x04 => some .imulh
  | 0x05 => some .imin
  | 0x06 => some .imax
  | 0x07 => some .and
  | 0x08 => some .or
  | 0x09 => some .xor
  | 0x0A => some .andn
  | 0x0B => some .shl
  | 0x0C => some .shr
  | 0x0D => some .sar
  | 0x0E => some .rol
  | 0x0F => some .lea1
  | 0x10 => some .lea2
  | 0x11 => some .lea3
  | 0x12 => some .fadd
  | 0x13 => some .fmul
  | 0x14 => some .ffmaDm
  | 0x15 => some .ffmaAcc
  | 0x16 => some .fmin
  | 0x17 => some .fmax
  | 0x18 => some .padd16
  | 0x19 => some .pmul16
  | 0x1A => some .pfma16Acc
  | _ => none

/-- Its major. -/
def Op2.major : Op2 → Nat
  | .iadd => 0x01
  | .isub => 0x02
  | .imul => 0x03
  | .imulh => 0x04
  | .imin => 0x05
  | .imax => 0x06
  | .and => 0x07
  | .or => 0x08
  | .xor => 0x09
  | .andn => 0x0A
  | .shl => 0x0B
  | .shr => 0x0C
  | .sar => 0x0D
  | .rol => 0x0E
  | .lea1 => 0x0F
  | .lea2 => 0x10
  | .lea3 => 0x11
  | .fadd => 0x12
  | .fmul => 0x13
  | .ffmaDm => 0x14
  | .ffmaAcc => 0x15
  | .fmin => 0x16
  | .fmax => 0x17
  | .padd16 => 0x18
  | .pmul16 => 0x19
  | .pfma16Acc => 0x1A

/-- The slot operation of a single-source major. -/
def op1Of : Nat → Option Op1
  | 0x1B => some .mov
  | 0x1C => some .popc
  | 0x1D => some .clz
  | 0x1E => some .brev
  | 0x1F => some .not
  | _ => none

/-- Its major. -/
def Op1.major : Op1 → Nat
  | .mov => 0x1B
  | .popc => 0x1C
  | .clz => 0x1D
  | .brev => 0x1E
  | .not => 0x1F

/-- The slot operation of an F20 major. -/
def opFOf : Nat → Option OpF
  | 0x30 => some .fadd
  | 0x31 => some .fmul
  | 0x32 => some .fmin
  | 0x33 => some .fmax
  | 0x34 => some .fmov
  | _ => none

/-- Its major. -/
def OpF.major : OpF → Nat
  | .fadd => 0x30
  | .fmul => 0x31
  | .fmin => 0x32
  | .fmax => 0x33
  | .fmov => 0x34

/-- The slot operation of a memory major. -/
def opMOf : Nat → Option OpM
  | 0x20 => some .ld
  | 0x21 => some .st
  | 0x22 => some .ldq
  | _ => none

/-- Its major. -/
def OpM.major : OpM → Nat
  | .ld => 0x20
  | .st => 0x21
  | .ldq => 0x22

/-! ### Decoding -/

/-- A slot word of a pair: LEN 00 and a major of the slot sets (R41, R42); the slot's own checks are `PairWord.ok`. -/
def decodeSlot (w : Nat) : Option Slot :=
  if bits w 30 2 = 0 then
    let major := bits w 24 6
    match op2Of major with
    | some o => some (.two o (.ofNat w))
    | none =>
      match op1Of major with
      | some o => if bits w 9 8 = 0 then some (.one o (.ofNat w)) else none
      | none =>
        match opFOf major with
        | some o => some (.f20 o (.ofNat w))
        | none =>
          match opMOf major with
          | some o => some (.mem o (.ofNat w))
          | none => none
  else none

/-- Refuse what the well-formedness checks refuse (R28). -/
def checked (i : Instr) (n : Nat) : Except DecodeErr (Instr × Nat) :=
  if i.wf then .ok (i, n) else .error .badFields

/-- A base word with LEN 00 (R29 to R33, R45). -/
def decodeBase (w : Nat) : Except DecodeErr (Instr × Nat) :=
  let major := bits w 24 6
  if major = 0x3F then
    if bits w 0 2 = 0 then checked (.clause (.ofNat w)) 1 else .error .badFields
  else if major = 0x23 then .error .badLength
  else
    match f20Of major with
    | some make => checked (make (.ofNat w)) 1
    | none =>
      match baseRows1.find? (fun r => r.major == major) with
      | some r => if bits w 9 8 = 0 then checked (r.reg (.ofNat w)) 1 else .error .badFields
      | none =>
        match baseRows.find? (fun r => r.major == major) with
        | some r => checked (r.reg (.ofNat w)) 1
        | none => .error .unassignedMajor

/-- A base word with LEN 01 and its literal (R31, R33). -/
def decodeBaseLit (w : Nat) (lit : Word) : Except DecodeErr (Instr × Nat) :=
  let major := bits w 24 6
  if major = 0x3F ∨ (f20Of major).isSome then .error .badLength
  else if major = 0x23 then
    if bits w 0 24 = litB then checked (.braBase lit) 2 else .error .badFields
  else
    match baseRows1.find? (fun r => r.major == major) with
    | some r =>
      if bits w 0 17 = litB then checked (r.lit { d := .ofNat 7 (bits w 17 7), lit := lit }) 2
      else .error .badFields
    | none =>
      match baseRows.find? (fun r => r.major == major) with
      | some r =>
        if bits w 0 9 = litB then
          checked (r.lit { d := .ofNat 7 (bits w 17 7), a := .ofNat 7 (bits w 10 7), alr := bitAt w 9, lit := lit }) 2
        else .error .badFields
      | none => .error .unassignedMajor

/-- An extended word with LEN 10 or 11 that is no pair (R34 to R44). -/
def decodeExt (w0 w1 w2 : Nat) (lit : Option DWord) (n : Nat) : Except DecodeErr (Instr × Nat) :=
  match extRow (bits w0 20 10) with
  | some r => checked (r.make (.ofWords w0 w1 w2 lit)) n
  | none => .error .unassignedOpx

/-- A pair (R41, R42). -/
def decodePair (w0 w1 w2 : Nat) : Except DecodeErr (Instr × Nat) :=
  if bits w0 0 12 = 0 then
    match decodeSlot w1, decodeSlot w2 with
    | some sp, some st =>
      checked (.pair { guard := .ofNat 7 (bits w0 13 7), neg := bitAt w0 12, span := sp, strand := st }) 3
    | _, _ => .error .badFields
  else .error .badFields

/-- The instruction at the head of a list of code words and how many words it takes (R26). -/
def decodeWords : List Word → Except DecodeErr (Instr × Nat)
  | [] => .error .truncated
  | w0 :: rest =>
    match bits w0.toNat 30 2 with
    | 0 => decodeBase w0.toNat
    | 1 =>
      match rest with
      | lit :: _ => decodeBaseLit w0.toNat lit
      | _ => .error .truncated
    | 2 =>
      match rest with
      | w1 :: w2 :: _ =>
        if bits w0.toNat 20 10 = 0x3FF then decodePair w0.toNat w1.toNat w2.toNat
        else decodeExt w0.toNat w1.toNat w2.toNat none 3
      | _ => .error .truncated
    | _ =>
      match rest with
      | w1 :: w2 :: w3 :: w4 :: _ =>
        decodeExt w0.toNat w1.toNat w2.toNat (some (w4 ++ w3)) 5
      | _ => .error .truncated

/-- The word held by four bytes in memory order (R3). -/
def wordOfBytes (b0 b1 b2 b3 : Byte) : Word := b3 ++ b2 ++ b1 ++ b0

/-- The whole words of a list of bytes, in address order. -/
def wordsOfBytes : List Byte → List Word
  | b0 :: b1 :: b2 :: b3 :: rest => wordOfBytes b0 b1 b2 b3 :: wordsOfBytes rest
  | _ => []

/-- Decoding from bytes as they stand in memory. -/
def decode (bs : List Byte) : Except DecodeErr (Instr × Nat) := decodeWords (wordsOfBytes bs)

/-- The five 32-bit words of a number, the first in its low bits: the longest instruction (R26). -/
def tableWords (w : Nat) : List Word :=
  (List.range 5).map fun k => BitVec.ofNat 32 (w / 2 ^ (32 * k))

/-- What the decoder reads from the words of `w`, bit 0 being bit 0 of word0 and each further word standing 32 bits
higher; the bits from `nbits` up are zero. -/
def decodeTableWord (nbits w : Nat) : Option Instr :=
  match decodeWords (tableWords (w % 2 ^ nbits)) with
  | .ok (i, _) => some i
  | .error _ => none

/-! ### Encoding -/

/-- A general base word (R29). -/
def baseWord (major : Nat) (f : BaseOps) : List Word := [.ofNat 32 (major * 2 ^ 24 + f.toNat)]

/-- A base word with its literal (R31). -/
def baseLitWords (major : Nat) (f : BaseLit) : List Word :=
  [.ofNat 32 (2 ^ 30 + major * 2 ^ 24 + f.d.toNat * 2 ^ 17 + f.a.toNat * 2 ^ 10 + bitNat f.alr * 2 ^ 9 + litB), f.lit]

/-- A single-source base word (R30). -/
def base1Word (major : Nat) (f : Base1) : List Word := [.ofNat 32 (major * 2 ^ 24 + f.toNat)]

/-- A single-source base word with its literal (R31). -/
def base1LitWords (major : Nat) (f : Base1Lit) : List Word :=
  [.ofNat 32 (2 ^ 30 + major * 2 ^ 24 + f.d.toNat * 2 ^ 17 + litB), f.lit]

/-- An F20 word (R32). -/
def f20Words (major : Nat) (f : F20Word) : List Word := [.ofNat 32 (major * 2 ^ 24 + f.toNat)]

/-- An extended instruction (R34, R37). -/
def extWords (opx : Nat) (e : Ext) : List Word :=
  let w1 : Word := .ofNat 32 e.word1
  match e.lit with
  | none => [.ofNat 32 (2 ^ 31 + opx * 2 ^ 20 + e.word0), w1, e.imm]
  | some v => [.ofNat 32 (3 * 2 ^ 30 + opx * 2 ^ 20 + e.word0), w1, e.imm, v.truncate 32, (v >>> 32).truncate 32]

/-- A slot word of a pair (R41, R42). -/
def Slot.encode : Slot → Nat
  | .two o f => o.major * 2 ^ 24 + f.toNat
  | .one o f => o.major * 2 ^ 24 + f.toNat
  | .f20 o f => o.major * 2 ^ 24 + f.toNat
  | .mem o f => o.major * 2 ^ 24 + f.toNat

/-- A pair (R41). -/
def pairWords (w : PairWord) : List Word :=
  [.ofNat 32 (2 ^ 31 + 0x3FF * 2 ^ 20 + w.guard.toNat * 2 ^ 13 + bitNat w.neg * 2 ^ 12), .ofNat 32 w.span.encode,
    .ofNat 32 w.strand.encode]

/-- The code words of an instruction; none for a device step or an outside event, which has no encoding (95). -/
def encode (i : Instr) : Option (List Word) :=
  match i.asExt with
  | some (opx, e) => some (extWords opx e)
  | none =>
    match i with
    | .clause h => some [.ofNat 32 (0x3F * 2 ^ 24 + h.toNat)]
    | .pair w => some (pairWords w)
    | .braBase disp => some [.ofNat 32 (2 ^ 30 + 0x23 * 2 ^ 24 + litB), disp]
    | .iaddBase f => some (baseWord 0x01 f)
    | .iaddBaseLit f => some (baseLitWords 0x01 f)
    | .isubBase f => some (baseWord 0x02 f)
    | .isubBaseLit f => some (baseLitWords 0x02 f)
    | .imulBase f => some (baseWord 0x03 f)
    | .imulBaseLit f => some (baseLitWords 0x03 f)
    | .imulhBase f => some (baseWord 0x04 f)
    | .imulhBaseLit f => some (baseLitWords 0x04 f)
    | .iminBase f => some (baseWord 0x05 f)
    | .iminBaseLit f => some (baseLitWords 0x05 f)
    | .imaxBase f => some (baseWord 0x06 f)
    | .imaxBaseLit f => some (baseLitWords 0x06 f)
    | .andBase f => some (baseWord 0x07 f)
    | .andBaseLit f => some (baseLitWords 0x07 f)
    | .orBase f => some (baseWord 0x08 f)
    | .orBaseLit f => some (baseLitWords 0x08 f)
    | .xorBase f => some (baseWord 0x09 f)
    | .xorBaseLit f => some (baseLitWords 0x09 f)
    | .andnBase f => some (baseWord 0x0A f)
    | .andnBaseLit f => some (baseLitWords 0x0A f)
    | .shlBase f => some (baseWord 0x0B f)
    | .shlBaseLit f => some (baseLitWords 0x0B f)
    | .shrBase f => some (baseWord 0x0C f)
    | .shrBaseLit f => some (baseLitWords 0x0C f)
    | .sarBase f => some (baseWord 0x0D f)
    | .sarBaseLit f => some (baseLitWords 0x0D f)
    | .rolBase f => some (baseWord 0x0E f)
    | .rolBaseLit f => some (baseLitWords 0x0E f)
    | .lea1Base f => some (baseWord 0x0F f)
    | .lea1BaseLit f => some (baseLitWords 0x0F f)
    | .lea2Base f => some (baseWord 0x10 f)
    | .lea2BaseLit f => some (baseLitWords 0x10 f)
    | .lea3Base f => some (baseWord 0x11 f)
    | .lea3BaseLit f => some (baseLitWords 0x11 f)
    | .faddBase f => some (baseWord 0x12 f)
    | .faddBaseLit f => some (baseLitWords 0x12 f)
    | .fmulBase f => some (baseWord 0x13 f)
    | .fmulBaseLit f => some (baseLitWords 0x13 f)
    | .ffmaDmBase f => some (baseWord 0x14 f)
    | .ffmaDmBaseLit f => some (baseLitWords 0x14 f)
    | .ffmaAccBase f => some (baseWord 0x15 f)
    | .ffmaAccBaseLit f => some (baseLitWords 0x15 f)
    | .fminBase f => some (baseWord 0x16 f)
    | .fminBaseLit f => some (baseLitWords 0x16 f)
    | .fmaxBase f => some (baseWord 0x17 f)
    | .fmaxBaseLit f => some (baseLitWords 0x17 f)
    | .padd16Base f => some (baseWord 0x18 f)
    | .padd16BaseLit f => some (baseLitWords 0x18 f)
    | .pmul16Base f => some (baseWord 0x19 f)
    | .pmul16BaseLit f => some (baseLitWords 0x19 f)
    | .pfma16AccBase f => some (baseWord 0x1A f)
    | .pfma16AccBaseLit f => some (baseLitWords 0x1A f)
    | .ldB32Base f => some (baseWord 0x20 f)
    | .ldB32BaseLit f => some (baseLitWords 0x20 f)
    | .stB32Base f => some (baseWord 0x21 f)
    | .stB32BaseLit f => some (baseLitWords 0x21 f)
    | .ldqB32Base f => some (baseWord 0x22 f)
    | .ldqB32BaseLit f => some (baseLitWords 0x22 f)
    | .movBase f => some (base1Word 0x1B f)
    | .movBaseLit f => some (base1LitWords 0x1B f)
    | .popcBase f => some (base1Word 0x1C f)
    | .popcBaseLit f => some (base1LitWords 0x1C f)
    | .clzBase f => some (base1Word 0x1D f)
    | .clzBaseLit f => some (base1LitWords 0x1D f)
    | .brevBase f => some (base1Word 0x1E f)
    | .brevBaseLit f => some (base1LitWords 0x1E f)
    | .notBase f => some (base1Word 0x1F f)
    | .notBaseLit f => some (base1LitWords 0x1F f)
    | .faddI f => some (f20Words 0x30 f)
    | .fmulI f => some (f20Words 0x31 f)
    | .fminI f => some (f20Words 0x32 f)
    | .fmaxI f => some (f20Words 0x33 f)
    | .fmovI f => some (f20Words 0x34 f)
    | _ => none

end Sys2Proof
end

