-- ==== Sys2Proof/Config.lean ====
section
/-! DEFINITION. What the spec leaves to the implementation or to chance: constants without a body, of which no proof
can know a value. Each is applied to what it depends on, or to the machine's counter `State.free`, which a step reads
and advances. -/

namespace Sys2Proof.Config

/-- Which of several agents that can act moves next (cores against each other, device steps, R292, R232 and every "in any order");
taken modulo the number of candidates. -/
opaque pick : Nat → Nat

/-- How many cluster clocks pass in a step (timing is left out; the spec fixes no clock count of a result). -/
opaque elapsed : Nat → Nat

/-- The order an engine adds the K-steps of an MMA in (R232): the next K-step to add, taken modulo those left. -/
opaque kOrder : Nat → Nat

/-- Which of the two FP32 values that bracket the exact result `frsq` returns, a fixed function of the source bits and
MOD (R272): true for the greater in magnitude. -/
opaque frsqUp : Word → BitVec 9 → Bool

/-- The value `fex2` returns, a fixed function of the source bits and MOD (R272). -/
opaque fex2 : Word → BitVec 9 → Word

/-- The value `flg2` returns (R272). -/
opaque flg2 : Word → BitVec 9 → Word

/-- The value `fsin` returns (R272). -/
opaque fsin : Word → BitVec 9 → Word

/-- The value `fcos` returns (R272). -/
opaque fcos : Word → BitVec 9 → Word

/-- The high half of the 64-bit value that `itof.w64` reads from an immediate (R276 and R277 do not say how word2 is
extended). -/
opaque immHigh : Word → Word

/-- The current, in A, that an engine asks of its arbiter for a reserved operation (R480 gives no figures). -/
opaque current : Nat → Nat

/-- The duration, in core clocks, that an engine asks of its arbiter for a run of K-steps or a burst of a copy (R480 gives no figures),
taken modulo the longest (R481) and one. -/
opaque duration : Nat → Nat

/-- The operand bit toggles that an engine counts in a K-step, by its bytes of A and of B (R482 does not say what it compares them with). -/
opaque bitToggles : Nat → List Byte → List Byte → Nat

/-- How many of the K-steps that a running MMA has left its engine has added when a forced save stops it (R308), taken modulo one
more than those left. -/
opaque stepsDone : Nat → Nat

/-- Which contents of an overwritten sector of code a fetch returns: the present ones or which of the earlier (R57), by the
counter and the sector. -/
opaque oldCode : Nat → Nat → Nat

/-- An error that strikes a sector of a stack in a step, true for an uncorrectable one (R83): the spec says what is done about
errors, and nothing about when they come. -/
opaque stackError : Nat → Option (Nat × Bool)

/-- An error that strikes a sector of a line in the banks of a slice in a step (R105). -/
opaque l2Error : Nat → Option ((Nat × Nat) × Bool)

/-- An uncorrectable error that strikes a sector of a shelf in a step (R112). -/
opaque shelfError : Nat → Option Nat

/-- The lane, 0 to 63, that a span's item reads where a uniform register takes s_lane, which R148 gives to strands and solos alone. -/
opaque spanLane : Nat → Nat → BitVec 6

/-- A byte that a span-file entry leaves in a spill area, and where in the area it is put: the spec gives the area no layout (R160). -/
opaque spillByte : Nat → Byte
opaque spillPlace : Nat → Nat

/-- The cycle count in the token of a copy that performed no sector (R126). -/
opaque copyCycle : Nat → DWord

/-- The next launch number to give (R387 leaves the numbers open); the distributor skips those in use. -/
opaque launchNumber : Nat → Word

/-- Whether a cluster's block of launch numbers has one left (R404 does not say when the master grants the next block). -/
opaque blockLeft : Nat → Bool

/-- Whether a granted vector burst of a lane ends now (R480 bounds it by 64 core clocks). -/
opaque burstOver : Nat → Nat → Bool

/-- The bytes of a slice's certificate chain in slot 0 (R441). -/
opaque certChain : Nat → List Byte

/-- A signature by a slice's alias key, each time it makes one: the 64 bytes of Ed25519 (R441). -/
opaque signature : Nat → BitVec 512

/-- The bytes that a measurement index covers, by the index and the number that stands for what is measured (R442): parts of the
firmware's image, and the bring-up record, whose layouts the spec does not give. -/
opaque measured : Nat → Nat → List Byte

/-- The bytes of a device interface report, whose layout is the TDISP specification's (R438). -/
opaque interfaceReport : Nat → List Byte

/-- A byte that a peer package's memory holds when the device itself reads it (R64, R390). -/
opaque peerByte : Nat → Nat → Byte

/-- A byte of the device state that the owner of a counted barrier or signal keeps in it (R372, R373). -/
opaque deviceByte : Nat → Byte

/-- How many 8-byte words a record of a folio's section of a type holds beyond its fixed parts (R505). -/
opaque folioPart : Nat → Nat

/-- A byte of a folio outside its fixed parts (R505). -/
opaque folioByte : Nat → Byte

/-- The address space of a slice in which a scale-out descriptor's LOCAL and TOKEN lie (R467 does not say). -/
opaque ueAsid : Nat → Nat

/-- The cycle count in the token of a scale-out descriptor, which no core issued (R468). -/
opaque ueCycle : Nat → DWord

/-- The switch plane that an edge group is wired to (R461), taken modulo the number of planes. -/
opaque groupPlane : Nat → Nat

/-- The sectors of a page that a SEND reads next, as bits (R450). -/
opaque sendMix : Nat → Nat

/-- The state that the header of a checkpoint area names (R455). -/
opaque checkpointState : Nat → Word

end Sys2Proof.Config
end

