-- ==== Sys2Proof/Machine/Types.lean ====
section
/-! DEFINITION. The records the machine's state is made of: contexts and their registers, operations in flight,
translation, caches, copies, tile tasks, groups, launches, faults, slices and links, each with the rules that name it. -/

namespace Sys2Proof.Machine

/-! ### Registers of a context (06) -/

/-- A predicate in form E (R151): the A register it compares (value at coordinates 0 and strides), the U threshold,
the comparison (coded as `icmp`), its signedness, whether the U value is the left operand, and whether the sense has
been inverted (R172). -/
structure EPred where
  base : Word
  sx : Word
  sy : Word
  sz : Word
  thr : Word
  cmp : Nat
  uns : Bool
  swap : Bool
  neg : Bool
  deriving DecidableEq, Repr

/-- The form of an item register (R146, R149). An A form is held as its value at the launch coordinates (0, 0, 0)
and its strides, so that a cut or a merge re-expresses nothing; an M form holds one slot per item, by
cohort-linear index. -/
inductive XForm where
  | u (v : Word)
  | a (base sx sy sz : Word)
  | m (slots : List (Nat × Word))
  deriving DecidableEq, Repr

/-- The form of a predicate (R146, R151). -/
inductive PForm where
  | u (v : Bool)
  | e (p : EPred)
  | m (slots : List (Nat × Bool))
  deriving DecidableEq, Repr

/-- An item register and the items for which it is live (R157). `ent` names the span-file entry of one in form U or A: the context
that took it, and how often that context had been cut by then; the parts of a cut share it (R156). -/
structure XReg where
  num : Nat
  form : XForm
  live : List Nat
  ent : Nat × Nat := (0, 0)
  deriving DecidableEq, Repr

/-- A uniform register and the items for which it is live (R157), and its span-file entry (R156). -/
structure QReg where
  num : Nat
  val : Word
  live : List Nat
  ent : Nat × Nat := (0, 0)
  deriving DecidableEq, Repr

/-- A predicate. -/
structure PReg where
  num : Nat
  form : PForm
  deriving DecidableEq, Repr

/-- A leaf as a TLB holds it (R70, R74): the first 64 KiB virtual page, the size in 64 KiB pages, and the SPA. -/
structure Leaf where
  page : Nat
  pages : Nat
  spa : Nat
  r : Bool
  w : Bool
  x : Bool
  mt : Nat
  shw : Bool
  deriving DecidableEq, Repr

/-! ### Contexts and items (07, 15) -/

/-- What a context has marked while it waits at an instruction for writes of its core (R331, R346): the marker's place in the
dirty-line FIFO, the PC it waits at, the lines a `cctl` named, and the items that have stood at the instruction since then; or the
granules that a `grel` has left (R143). -/
structure Rel where
  mark : Nat
  pc : DWord
  lines : List Nat
  left : Nat := 0
  items : List Nat := []
  deriving DecidableEq, Repr

/-- An item of a launch: its launch, its cohort's number, its cohort-linear index c (R149). -/
structure ItemKey where
  launch : Nat
  cohort : Nat
  c : Nat
  deriving DecidableEq, Repr

/-- The place of an item in its clause (R46, R48): instructions and long-latency operations since the header, and the
flags the header names. -/
structure Place where
  count : Nat
  long : Nat
  setA : BitVec 4
  setB : BitVec 4
  deriving DecidableEq, Repr

/-- What a region entry records (R411, R414). -/
structure Entry where
  pc : DWord
  region : Word
  fflags : BitVec 5
  place : Place
  deriving DecidableEq, Repr

/-- What an item waits for (R189). `flags`: named flags, at a header or in `wait`; `clock`: `wait.clk`; `bar`, `barw`, `sigw`: a
barrier or signal with the predicate that takes the status; `fault`: the action on a record; `walk`, `pageFault`: a translation;
`join`: a merge or a deadline, with the number of items its context held, and of items of its cohort on its core, when it was last
tested; `region`: the values R322 asks a header to wait for; `syscall`; `publ`; `late`: the check of R405; `quiet`: the register
writes still outstanding for it (R414). -/
inductive Wait where
  | none
  | flags (mask : BitVec 12)
  | clock (till : Nat)
  | bar (grp : GroupRef) (handle : Word) (pd : BitVec 8)
  | barw (req : Nat)
  | sigw (req : Nat) (till : Nat)
  | fault (id : Nat)
  | walk (id : Nat)
  | pageFault (id : Nat)
  | join (till n left : Nat)
  | region
  | syscall (id : Nat)
  | publ (id : Nat)
  | late
  | quiet
  deriving DecidableEq, Repr

/-- An item held by a context. `obj`: the last eight objects it operated on (R375); `groups`: handles (R367);
`since`: the clock at which its group last issued or began to wait; `parked`: it awaits a place to be cut out
as a solo (R188); `starts`: the clock at which every item of its group last waited (R191). -/
structure Item where
  c : Nat
  pc : DWord
  wait : Wait
  region : Word
  entry : Entry
  place : Place
  groups : List Word
  objs : List Nat
  since : Nat
  parked : Bool
  starts : Nat := 0
  deriving DecidableEq, Repr

/-- The kinds of R181. -/
inductive CtxKind where
  | span | strand | solo
  deriving DecidableEq, Repr

/-- Where a context's span-file entries are: in the span file; on their way to its cohort's spill area; or there (R160). -/
inductive Spill where
  | home | leaving | away
  deriving DecidableEq, Repr

/-- A context (R181). `pending` marks a pending remainder and since when (R185); `yielded` the PC of the group that
performed `yield` (R190); `staged` the copies of R415; `held` the fault for which the whole context waits (R188); `rel` the release or
`cctl` it waits in (R331, R346), `acq` the number below which no load is joined after an acquire (R348);
`place` the block whose reserved strand place it takes, none for an unreserved one (R183; a span holds `some 0` for
its cohort's reserved span place); `gen` how often it has been cut (R156), `spill` where its entries are, and `issued` when it last
issued (R160); `parkedAt` since when it has found the path to a launch record parked (R471); `readySince` since when it has been ready and
not issued (R407, R408), and `gives` that its next issue yields to others on its lane (R51, R408). -/
structure Ctx where
  id : Nat
  kind : CtxKind
  core : Nat
  launch : Nat
  cohort : Nat
  items : List Item
  x : List XReg
  q : List QReg
  p : List PReg
  fflags : BitVec 5
  fctl : BitVec 5
  region : Word
  lane : Nat
  split : Nat
  staged : Nat
  yielded : Option DWord
  pending : Option Nat
  held : Option Nat
  rel : Option Rel
  acq : Nat
  place : Option Nat
  created : Nat
  gen : Nat := 0
  spill : Spill := .home
  issued : Nat := 0
  parkedAt : Option Nat := none
  readySince : Option Nat := none
  gives : Bool := false
  deriving DecidableEq, Repr

/-! ### Operations in flight (02 R49, 11, 12) -/

/-- The destination of an operation's result: registers by number. -/
inductive RegRef where
  | x (n : Nat)
  | q (n : Nat)
  | p (n : Nat)
  deriving DecidableEq, Repr

/-- Where a byte's home is (R64, R347). -/
inductive Home where
  | field (f : Nat)
  | host
  | peer
  deriving DecidableEq, Repr

/-- What an outstanding operation is. A load names its physical pieces (key and length, low address first), the
width code, whether it may fill L1, at what scope it acquires, and whether one value serves every item (`ldq`); an atomic names its
place, its width and the same; an ack counts a write by its home (R347); a release is a condition, not an operation. -/
inductive OpKind where
  | load (parts : List (Nat × Nat)) (width : Nat) (noL1 : Bool) (acq : Option Nat) (uni : Bool)
  | atomic (key : Nat) (bytes : Nat) (acq : Option Nat) (uni : Bool)
  | ack (home : Home)
  | copy (id : Nat)
  | task (id : Nat)
  | child (launch : Nat) (done : Bool)
  | syscall (id : Nat)
  deriving DecidableEq, Repr

/-- The operation is the acknowledgement of a write (R347). -/
def OpKind.isAck : OpKind → Bool
  | .ack _ => true
  | _ => false

/-- A line of another field that a load reads (R353): the load whose response it joins (itself, where it joins none), whether
no later load may join it any more, its response once that has been taken at the home, and the number that says when; `own` are the
bytes that the load's core has written back since it was issued, which it does not see older (R344). -/
structure Cross where
  line : Nat
  root : Nat
  shut : Bool
  bytes : Option (List Byte)
  taken : Nat := 0
  own : List (Nat × Byte) := []
  deriving DecidableEq, Repr

/-- An outstanding operation: the issue it belongs to, the items it was issued for, the flag it marked, the registers it will
write, and, once it is answered, the bytes that travel back. `va` is the address a fault names, `cross` the lines of other fields
it reads, `nofill` the lines that its answer is not to install: those of device pages (R72), and those invalidated while they were
under way (R103); `ev` that what it fills is the first to be replaced (R315); `born` is the number that an acknowledgement's write took
its place in the order of the core's writes with: that at which its line first became dirty, or its own (R346). -/
structure Op where
  id : Nat
  issue : Nat
  core : Nat
  launch : Nat
  cohort : Nat
  items : List Nat
  flag : Option Nat
  dst : List RegRef
  kind : OpKind
  va : DWord
  pc : DWord
  back : Option (List Byte)
  fl : BitVec 5
  parkedAt : Option Nat
  cross : List Cross
  nofill : List Nat
  ev : Bool
  born : Nat := 0
  deriving DecidableEq, Repr

/-! ### Translation (03) -/

/-- The access kinds of R73 and R78. -/
inductive Access where
  | load | store | atomic | fetch | copyRead | copyWrite
  deriving DecidableEq, Repr

/-- An entry of a TLB (R74): `core` is the core whose TLB holds it, or the cluster for an entry of a cluster's TLB. -/
structure TlbEntry where
  core : Nat
  slice : Nat
  asid : Nat
  leaf : Leaf
  deriving DecidableEq, Repr

/-- An entry of a field's cache of table entries (R74): the level it was read at, the pages it stands for (the index of the
span of virtual pages it covers), and the entry itself. -/
structure WalkEntry where
  field : Nat
  slice : Nat
  asid : Nat
  level : Nat
  span : Nat
  entry : Nat
  deriving DecidableEq, Repr

/-- Who waits on a walk or a page fault: items of a context (all of it when `whole`), or a copy; `pc` is the instruction that
asked (R27), `vas` the address of each item where there are several (R418). -/
structure Waiter where
  ctx : Option Nat
  copy : Option Nat
  items : List Nat
  whole : Bool
  core : Nat
  launch : Nat
  cohort : Nat
  access : Access
  va : DWord
  pc : DWord
  vas : List (Nat × Nat) := []
  deriving DecidableEq, Repr

/-- The result of a walk that may not be cached, for the access that waited on it (R81): that of a context's instruction at a PC,
or that of a copy. -/
structure Lent where
  ctx : Option Nat
  copy : Option Nat
  pc : DWord
  slice : Nat
  leaf : Leaf
  deriving DecidableEq, Repr

/-- A miss of a field's walk service and its walk (R75): `started` once a walker has taken it; `fresh` is false when an
invalidation forbids caching its result (R81). -/
structure Walk where
  id : Nat
  field : Nat
  slice : Nat
  asid : Nat
  page : Nat
  waiters : List Waiter
  started : Bool
  fresh : Bool
  deriving DecidableEq, Repr

/-- A pending page fault (R78); kind 4, which R78 does not use, stands for accesses that wait for a pulled page (R453),
`page` being the local page. -/
structure PFault where
  id : Nat
  slice : Nat
  asid : Nat
  page : Nat
  kind : Nat
  access : Access
  launch : Nat
  waiters : List Waiter
  seq : Option Nat
  deriving DecidableEq, Repr

/-- An invalidation in progress (R81): the walks, the operations and the requests to atomic service units it waits for, and the
number below which a dirty L1 line was dirty when the last access it waits for was made. -/
structure Inval where
  slice : Nat
  walks : List Nat
  ops : List Nat
  asu : List Nat
  mark : Nat
  deriving DecidableEq, Repr

/-! ### Caches and homes (04, 12) -/

/-- A line in a core's L1 (R345): valid bytes by offset, the dirty offsets, the clock of its fill, and its place in
the dirty-line FIFO when it is dirty; `used` when it was last used, among the eight ways of its set (R16); `ev` that the last store into
it marked it as the first to be replaced, in L2 too (R315). -/
structure L1Line where
  core : Nat
  line : Nat
  bytes : List (Nat × Byte)
  dirty : List Nat
  filled : Nat
  order : Nat
  used : Nat
  issuer : List (Nat × Nat × Nat)
  ev : Bool := false
  deriving DecidableEq, Repr

/-- A line resident in an L2 bank (R86 to R97): where it lies, its encoding code (R90), the partition that placed it,
recency, and, for a line of the host or a peer, its bytes; `bad` are its sectors that carry a poison mark (R91, R105). -/
structure L2Line where
  slice : Nat
  bank : Nat
  set : Nat
  way : Nat
  line : Nat
  enc : Nat
  owner : Nat
  dirty : Bool
  used : Nat
  bytes : List Byte
  bad : List Nat := []
  deriving DecidableEq, Repr

/-- What a sector held before it was overwritten while launches were resident, and the launches that may still fetch it (R57). -/
structure OldSector where
  sector : Nat
  bytes : List Byte
  users : List Nat
  deriving DecidableEq, Repr

/-- A directory entry (R101). -/
structure DirEntry where
  slice : Nat
  line : Nat
  holders : List (Nat × Nat)
  coarse : Option (BitVec 32)
  host : Bool
  used : Nat
  deriving DecidableEq, Repr

/-- A write that a home holds until every holder has acknowledged (R102): the bytes by physical key, and the issue whose
acknowledgements it starts; `device` when they lie on a device page (R72), `ev` when the line is the first to be replaced (R315),
`peer` when a peer package waits for the answer (R347), `bad` when its bytes carry the link's poison indication (R84). One without
bytes is an invalidation only (R104). -/
structure HomeWrite where
  id : Nat
  slice : Nat
  line : Nat
  pid : Nat
  cells : List (Nat × Byte)
  ack : Option Nat
  sent : Bool
  device : Bool
  ev : Bool
  peer : Bool
  bad : Bool := false
  deriving DecidableEq, Repr

/-- A write on its way to a home in another field, with its stamp (R351). -/
structure XWrite where
  id : Nat
  pid : Nat
  src : Nat
  dst : Nat
  seq : Nat
  stamp : List Nat
  cells : List (Nat × Byte)
  ack : Option Nat
  device : Bool
  ev : Bool
  deriving DecidableEq, Repr

/-- A field's operating point, clock, what it has received from each field, what it has sent to each, and when
(R13, R351, R352); its current estimate (R479), the slice whose misses its walkers look at first (R76), and its count of clocks
(`clk`) at the time `base`, when its operating point was last set (R17). -/
structure FieldSt where
  mhz : Nat
  vc : List Nat
  seen : List Nat
  sent : List Nat
  est : BitVec 15
  turn : Nat
  clk : Nat
  base : Nat
  deriving DecidableEq, Repr

/-- A core's divider (R17), copy sequence counter (R116), clock base (R148), and what its matrix engine has counted since the last
estimate of its field (R482), the number of its last acquire at `.dev` or wider (R348), its count when its span pipe and its strand start
were last taken (R407, R408), and up to which count each lane that has been started is busy (R16). -/
structure CoreSt where
  core : Nat
  div : Nat
  copySeq : Nat
  cycBase : Nat
  clkBase : Nat
  toggles : Nat := 0
  zeros : Nat := 0
  acq : Nat := 0
  spanAt : Option Nat := none
  strandAt : Option Nat := none
  busy : List (Nat × Nat) := []
  deriving DecidableEq, Repr

/-! ### Launches (14) and cohorts (13) -/

/-- The launch record of R385. -/
structure LaunchRec where
  kobj : Nat
  entry : Nat
  spread : Bool
  afterAny : Bool
  param : Nat
  const : Nat
  nx : Nat
  ny : Nat
  nz : Nat
  cohX : Nat
  cohY : Nat
  cohZ : Nat
  queue : Nat
  prio : Nat
  maxM : Nat
  maxS : Nat
  shelfW : Nat
  shelfA : Nat
  shelfC : Nat
  headroom : Nat
  barLog : Nat
  joinWait : Nat
  lsize : Nat
  lbase : Nat
  spill : Nat
  spillSize : Nat
  paramBytes : Nat
  token : Nat
  after : Nat
  deriving DecidableEq, Repr

/-- A launch's dependence (R390). -/
inductive DepState where
  | waiting | ready | failed
  deriving DecidableEq, Repr

/-- A launch that has been accepted and has not completed (R386, R387, R392). `code`, `words`, `map` come from the
kernel object (R52); `status` is the largest completion status so far (R391); `reason` of a refusal; `noToken` once its token cannot be
written, and since when its path is parked (R502). A refused record of the launch window has a number of 2^32 or more,
which is the model's own. `unread` that its header has still to be read (R386), `slot` the launch window's slot it came from, `hdrSince`
when the path to the header was found parked, `hdrFail` that the pull of its page failed. -/
structure Launch where
  num : Nat
  rcd : LaunchRec
  slice : Nat
  asid : Nat
  pid : Nat
  parent : Option Nat
  device : Bool
  order : Nat
  code : Nat
  words : Nat
  map : Nat
  dep : DepState
  nextCohort : Nat
  passed : Nat
  ended : Nat
  status : Nat
  stopped : Bool
  late : Bool
  lastCycle : Nat
  reason : Nat
  noToken : Bool
  tokSince : Option Nat
  unread : Bool := false
  slot : Nat := 0
  hdrSince : Option Nat := none
  hdrFail : Bool := false
  deriving DecidableEq, Repr

/-- What a cohort holds on one core: its blocks, for each of which so many strand registers and, with one more, span-file entries
are reserved (R158), none once these have been released (R161); and the physical granules of each shelf in OFFSET order (R109, R156). -/
structure Share where
  core : Nat
  blocks : List Nat
  maxM : Nat
  maxS : Nat
  granW : List Nat
  granA : List Nat
  granC : List Nat
  deriving DecidableEq, Repr

/-- A barrier phase: who has arrived and since when, and breakage (R369, R370); `last` the time of the last instruction that reached
the record, and its place among those of one cluster clock (R368). -/
structure Phase where
  arrived : List ItemKey
  since : Option Nat
  broken : Bool
  cause : Nat
  last : Nat × Nat
  deriving DecidableEq, Repr

/-- A phase at which no item has arrived, of a group that is not broken. -/
def Phase.start : Phase := { arrived := [], since := none, broken := false, cause := 0, last := (0, 0) }

/-- A resident cohort, or one whose reservation still stands (R158, R161, R364). -/
structure Cohort where
  launch : Nat
  num : Nat
  shares : List Share
  phase : Phase
  unitOf : Option Nat
  deriving DecidableEq, Repr

/-- A headroom unit of a launch (R401): the reservation it keeps. -/
structure HeadUnit where
  id : Nat
  launch : Nat
  shares : List Share
  used : Bool
  deriving DecidableEq, Repr

/-- A core's constant image of a launch (R387): none until it has arrived; `failed` the cause for which its page fault or its pull
failed; `since` when the path to it was found parked (R471). -/
structure ConstImage where
  core : Nat
  launch : Nat
  words : Option (List Word)
  failed : Option Nat
  since : Option Nat := none
  deriving DecidableEq, Repr

/-- Free resources of a core: strand registers, span-file entries, strand places, span places, granules of each
shelf; also what a cohort needs of a core (R158, R183, R396). -/
structure Need where
  m : Nat
  e : Nat
  strands : Nat
  spans : Nat
  w : Nat
  a : Nat
  c : Nat
  deriving DecidableEq, Repr

/-- What a member's distributor last reported of a core (R396). -/
structure Report where
  core : Nat
  free : Need
  amps : Nat
  deriving DecidableEq, Repr

/-! ### Shelves, copies, tile tasks (05, 10) -/

/-- The states of R113. -/
inductive GranState where
  | empty | filling | resident
  deriving DecidableEq, Repr

/-- A physical granule: shelf code (1 W, 2 A, 3 C), number, state, fill count, holds, and whether a `grel` waits for it (R113,
R114). -/
structure Gran where
  core : Nat
  space : Nat
  num : Nat
  state : GranState
  count : Nat
  holds : Nat
  rel : Bool
  deriving DecidableEq, Repr

/-- A copy in flight (R116 to R125). `idx` are the rows of `cpyg`; `dst` the destination granules and `src` the source
granules that were FILLING at acceptance, each as core, shelf, number; `win` the shadow window; `held` a pending publish
it waits for (R131); `fault` a page fault it waits on; `force` the status it will complete with, once decided; `pos` the
destination sectors written; `cycle` its core's count when the last was; `mark` its release's marker (R358); `marked` that the
sectors it will not write carry their marks (R126); `resumed` that it was saved and its number is not known any more (R128); `issuer`
the core that issued it (R126); `moved` the sectors moved under its present grant of current (R480). -/
structure Copy where
  id : Nat
  core : Nat
  slice : Nat
  launch : Nat
  cohort : Nat
  asid : Nat
  pid : Nat
  seq : Nat
  form : Nat
  desc : List Word
  idx : List Word
  items : List Nat
  dst : List (Nat × Nat × Nat)
  win : Option Nat
  held : Option Nat
  fault : Option Nat
  force : Option Nat
  pos : Nat
  src : List (Nat × Nat × Nat)
  cycle : Option Nat
  mark : Nat
  noTok : Bool
  tokSince : Option Nat
  marked : Bool := false
  resumed : Bool := false
  issuer : Nat := 0
  moved : Nat := 0
  deriving DecidableEq, Repr

/-- A completed copy's status (R139); `saved` that a forced save has come since (R128). -/
structure DoneCopy where
  core : Nat
  seq : Nat
  status : Nat
  saved : Bool := false
  deriving DecidableEq, Repr

/-- A `publ` being served (R137): `before` the shadow copies it waits for; `flipped` once PHASE has inverted, and then
the operations in flight under the old phase, and the dirty lines of cores that its stores had left, with their stamps. -/
structure Publ where
  id : Nat
  slice : Nat
  win : Nat
  ctx : Nat
  items : List Nat
  before : List Nat
  flipped : Bool
  ops : List Nat
  lines : List (Nat × Nat × Nat) := []
  deriving DecidableEq, Repr

/-- Where a tile task stands (R295, R296, R302). -/
inductive TaskState where
  | posted | running | readsDone
  deriving DecidableEq, Repr

/-- An accepted record of a call desk (R287, R294). `kind` 0 MMA, 1 ZERO, 2 DRAIN, 8 chain begin, 9 chain end. `added`
are the K-steps of an MMA in its bank (R308), `holding` that it holds its inputs (R114). -/
structure TaskRec where
  id : Nat
  core : Nat
  slice : Nat
  launch : Nat
  cohort : Nat
  kind : Nat
  acc : Nat
  words : List Word
  fmt : Word
  flag : Option Nat
  stamp : Nat
  chain : Nat
  solo : Bool
  item : Nat
  state : TaskState
  started : Nat
  readySince : Option Nat
  allowedSince : Option Nat
  engine : Option Nat
  poisoned : Bool
  added : List Nat := []
  holding : Bool := false
  deriving DecidableEq, Repr

/-- An accumulator slot (R290): the bank it is bound to (engine's core, bank), and its open chain (R291). -/
structure SlotSt where
  core : Nat
  launch : Nat
  cohort : Nat
  acc : Nat
  bank : Option (Nat × Nat)
  chain : Option Nat
  deriving DecidableEq, Repr

/-- An accumulator bank: elements that are not +0, by 128·m + n, and the poison mark (R299, R304). -/
structure Bank where
  core : Nat
  num : Nat
  elems : List (Nat × Word)
  poison : Bool
  deriving DecidableEq, Repr

/-- A chain (R291, R305, R306); `item` is the item that posted its first record. -/
structure Chain where
  id : Nat
  core : Nat
  launch : Nat
  cohort : Nat
  acc : Nat
  closed : Bool
  tasks : Nat
  sats : Nat
  nans : Nat
  status : Nat
  report : Option Nat
  noReport : Bool
  tokSince : Option Nat
  item : Nat := 0
  deriving DecidableEq, Repr

/-- A failed task whose fault has not been delivered (R304). -/
structure TaskFail where
  core : Nat
  launch : Nat
  cohort : Nat
  acc : Nat
  flag : Option Nat
  item : Nat
  cause : Nat
  deriving DecidableEq, Repr

/-- A current reservation asked of a cluster's arbiter (R480): `kind` 0 matrix, 1 copy, 2 vector; `owner` is the record, the copy or the
lane; `since` its field's count of cluster clocks when it was asked for, `amps` and `dur` its current and its duration in core clocks,
`began` its core's count when it was granted. -/
structure CurReq where
  core : Nat
  kind : Nat
  owner : Nat
  prio : Nat
  since : Nat
  amps : Nat
  granted : Bool
  dur : Nat := 0
  began : Nat := 0
  deriving DecidableEq, Repr

/-! ### Groups, atomics (11, 13) -/

/-- A run-time group record (R367). -/
structure GroupRec where
  core : Nat
  slot : Nat
  gen : Nat
  launch : Nat
  members : List ItemKey
  phase : Phase
  deriving DecidableEq, Repr

/-- What an ASU request asks (R337, R340, R383). An atomic carries each item's operands in ascending c, a wait each item's operand. `brk` breaks an object
(R375), and `idle` clears the device state of a signal at which no item waits any more (R373). -/
inductive AsuKind where
  | atomic (op : Nat) (uns w64 ftz : Bool) (operands : List (Nat × DWord × DWord))
  | cas128 (operands : List (Nat × List Byte × List Byte))
  | barinit (n : Nat)
  | barr (k : Nat)
  | barw (toks : List (Nat × Word)) (pd : BitVec 8) (scope : Nat)
  | sigs (v : Word)
  | sigw (vals : List (Nat × Word)) (pd : BitVec 8) (scope : Nat)
  | brk (cause : Nat) (signal : Bool)
  | idle
  deriving DecidableEq, Repr

/-- A request of one instruction to one address (R333): the items, the operations that return values or count its
acknowledgement; `waiting` once a `barw` or `sigw` waits at the owner; its stamp when the owner lies in another field; whether it
lies on a device page (R72). -/
structure AsuReq where
  id : Nat
  issue : Nat
  cluster : Nat
  core : Nat
  ctx : Nat
  launch : Nat
  cohort : Nat
  items : List Nat
  key : Nat
  va : DWord
  kind : AsuKind
  ops : List Nat
  pc : DWord
  waiting : Bool
  seq : Nat
  stamp : List Nat
  device : Bool
  deriving DecidableEq, Repr

/-- The deadline of a counted barrier's phase, kept by its owner, and the device state that the owner has left in the object (R372, R376):
other bytes there say that stores have made the object anew (R493). -/
structure BarDeadline where
  key : Nat
  till : Nat
  slice : Nat
  dev : List Byte := []
  deriving DecidableEq, Repr

/-! ### Faults, syscalls, interrupts (15) -/

/-- A fault and its record (R416 to R419). `next` says that its resume point is the next instruction; `issue` is the issue of the
operation whose answer raised it, 0 where none did; `grp` are the items that issued the instruction of a fault of a whole context, where
they stand behind it by now. -/
structure Fault15 where
  id : Nat
  slice : Nat
  seq : Option Nat
  cause : Nat
  scope : Nat
  auto : Bool
  launch : Nat
  cohort : Nat
  core : Nat
  cfirst : Nat
  mask : DWord
  pc : Nat
  region : Word
  detail : DWord
  ctx : Nat
  items : List Nat
  next : Bool
  needs : Bool
  issue : Nat := 0
  grp : List Nat := []
  deriving DecidableEq, Repr

/-- A child's failure to deliver at the first header or `wait` that names the flag (R403). -/
structure ChildFail where
  launch : Nat
  cohort : Nat
  items : List Nat
  flag : Nat
  child : Nat
  deriving DecidableEq, Repr

/-- A system call (R424). -/
structure Syscall where
  id : Nat
  slice : Nat
  seq : Option Nat
  code : BitVec 16
  launch : Nat
  cohort : Nat
  core : Nat
  cfirst : Nat
  mask : DWord
  region : Word
  pc : Nat
  arg : DWord
  items : List Nat
  ctx : Nat
  deriving DecidableEq, Repr

/-- An interrupt raised (R421): to the host, or to the slice's command processor. -/
structure Irq where
  slice : Nat
  source : Nat
  cmd : Bool
  deriving DecidableEq, Repr

/-! ### Slices (16), links (17), bring-up (18) -/

/-- A set of pages: those of `except` when `all` is false, all others when it is true (R449, R453). -/
structure PageSet where
  all : Bool
  except : List Nat
  deriving DecidableEq, Repr

/-- What a folio holds beyond its fixed parts (R431): the contexts with everything that belongs to them, the leader of the
slices that wrote it and the clock at which it was written. -/
structure Folio where
  kind : Nat
  lead : Nat
  clock : Nat
  ctxs : List Ctx
  cohorts : List Cohort
  units : List HeadUnit
  launches : List Launch
  groups : List GroupRec
  ops : List Op
  asu : List AsuReq
  copies : List Copy
  tasks : List TaskRec
  slots : List SlotSt
  banks : List Bank
  chains : List Chain
  grans : List Gran
  shelf : List Host.Cell
  shelfPoison : List (Nat × List Nat)
  faults : List Fault15
  fails : List TaskFail
  childFails : List ChildFail
  deriving DecidableEq, Repr

/-- The SPDM responder of a slice (R441): how far the connection has come, the algorithms agreed, and the sessions
being established and open. -/
structure Spdm where
  stage : Nat
  opening : List Nat
  sessions : List Nat
  nextId : Nat
  deriving DecidableEq, Repr

/-- A slice's own state: group leader (R434), TDISP (R438), clearing (R436, R443), key (R82), usage (R444), pre-emption (R427),
launch window queue (R388), round-robin pointers (R399), sequence numbers (R78, R418, R424), attestation (R440), pulled pages
(R453: what an access has asked for and when; `hostPulls` those a host read waits for), tracking (R449, R457), migration (R448; `sendLeft` the pages a command has still to send, `sendPart`
the sectors sent of the first of them, `sent` that its folio has gone), checkpoints (R455; `ckFolios` what the buddy's folio slots hold,
by generation, and their bytes), scale-out (R467), and the shadow windows whose registers were written against R132 (R9).
-/
structure SliceSt where
  lead : Nat
  tdisp : Nat
  clean : Bool
  clearing : Bool
  stopPending : Bool
  rstgen : Nat
  hostw : Bool
  keyGen : Nat
  usage : Nat
  pre : Nat
  preErr : Nat
  nreset : Nat
  preSince : Nat
  parseQ : List Nat
  rr : List Nat
  pfSeq : Nat
  fltSeq : Nat
  scSeq : Nat
  ctbReqs : List Nat
  bindDue : Bool
  spdm : Spdm
  meas7 : Option Word
  dirty : PageSet
  ckDirty : PageSet
  pull : PageSet
  pulling : List (Nat × Nat)
  hostPulls : List Nat
  migOp : Nat
  migBlock : Nat
  migErr : Nat
  migDone : Bool
  ckState : Nat
  ckGen : Nat
  ckFolios : List (Nat × Folio × List Byte)
  stranded : Nat
  ueIndex : Nat
  dumpErr : Bool
  badWin : List Nat
  folio : Option Folio
  image : List Byte := []
  sent : Bool := false
  sendLeft : PageSet := { all := false, except := [] }
  sendPart : List Nat := []
  deriving DecidableEq, Repr

/-- An edge group (R470, R476). `parks` holds what it parks: bit p for logical plane p, bit 8 for host class, bit 9 for
host accesses to the exposed range, bit 10 for scale-out packets (R471). `since` is when it came to its state and `began` when its switch or
its link's failure began; `useNow` and `sliceNow` are the CXLUSE and XSLICE in force. -/
structure EdgeSt where
  parks : Nat
  state : Nat
  mode : Nat
  busy : Bool
  err : Nat
  target : Nat
  cxluse : Nat
  xslice : Nat
  useNow : Nat
  since : Nat
  began : Nat := 0
  sliceNow : Nat := 0
  deriving DecidableEq, Repr

/-- A scale-out descriptor that has started (R467, R468): its bytes, the endpoint entry as it then stood, the status it
will complete with once that is decided, and its token's fate (R502); `overrun`
says that the program had posted more descriptors than the ring holds, against R467 (R9), `stuck` since when no group has been able to
carry it (R468). -/
structure Desc where
  slice : Nat
  index : Nat
  words : List Byte
  endpoint : List Byte
  since : Nat
  status : Option Nat
  noTok : Bool
  tokSince : Option Nat
  overrun : Bool := false
  stuck : Option Nat := none
  deriving DecidableEq, Repr

/-- An entry of the bring-up record (R486): the method last used (1 first, 2 alternate), attempts, and the result:
passed, failed, or only started, when a reset cut the step short; a step only started counts as failed at the next start. -/
structure BringEntry where
  step : Nat
  method : Nat
  attempts : Nat
  result : StepResult
  altFailed : Bool
  deriving DecidableEq, Repr

/-- The part's enabled units (R22, R24). -/
structure Part where
  fields : BitVec 4
  clusters : List (BitVec 21)
  stackMask : BitVec 16
  deriving DecidableEq, Repr

/-- The last thing the machine returned to the world outside; `poison` also the poison indication of the link on data that it sends
(R84). -/
inductive Resp where
  | word (v : Word)
  | bytes (bs : List Byte)
  | poison
  | retry
  | refused
  | error (code : Nat)
  | ok
  deriving DecidableEq, Repr

end Sys2Proof.Machine

namespace Sys2Proof.Config

/-- What a folio that this device has not written holds, by the number its contexts are counted from and its bytes outside the PCs and
active bits (R431, R505): the layout of its sections is the implementation's. None where a field is outside its limits (R432). -/
opaque folioOf : Nat → List Byte → Option Machine.Folio

end Sys2Proof.Config
end

