-- ==== Sys2Proof/Machine/State.lean ====
section
/-! DEFINITION. The machine's state as plain data, the reasons a step stops, and the state after module reset. Every
piece of state the spec names has its field here; INVENTORY.md gives the rule and the reset value of each. -/

namespace Sys2Proof.Machine

/-- Why the machine stops. -/
inductive Fault where
  /-- Raised by the meaning of an instruction of the instruction set when no context is issuing: an instruction acts only
  for the context that issues it (R181), so there is nothing it could do. `step` asks for it only when an input hands one
  in, which nothing outside the device can do. Safe: no behaviour of the hardware is lost. -/
  | noContext
  deriving DecidableEq, Repr

/-- Why an instruction is refused. -/
inductive Refusal where
  /-- Raised only by the dispatcher for an instruction without a meaning; every instruction has one. Safe. -/
  | notModelled (mnemonic : String)
  deriving DecidableEq, Repr

/-- Memory: address and byte, addresses strictly rising, no entry equal to the byte an unlisted address reads as. -/
abbrev Memory := List Host.Cell

/-- What an unlisted address reads as: memory the tenant has not written returns zero (R82), shelves and launch
windows are zeroed (R443); host memory by the model's choice (log entry 6). -/
def Memory.blank : Byte := 0

/-- The canonical form. -/
def Memory.wf (m : Memory) : Bool :=
  decide (m.Pairwise (fun a b => a.1 < b.1)) && m.all (fun c => c.2 != Memory.blank)

/-- The machine. -/
structure State where
  /-- Time since module reset, in cluster clocks of a field at 940 MHz (R17, R148). -/
  clock : Nat
  /-- The model's own counter that fresh free values are applied to. -/
  free : Nat
  /-- What the outside world will do, oldest first. -/
  inputs : List Instr
  /-- The context that is issuing. -/
  cur : Option Nat
  /-- The model's own source of fresh numbers. -/
  nextId : Nat
  /-- The last answer given to the outside. -/
  resp : Option Resp
  /-- DST_CAP0.VALID and the part's configuration (R24). -/
  valid : Bool
  part : Part
  /-- The bring-up record (R486) and CUR_FWSTAT's ERR and STEP (R487). -/
  bring : List BringEntry
  fwErr : Nat
  fwStep : Nat
  /-- CUR_FWSTAT.BUSY (R484, R487). -/
  fwBusy : Bool
  /-- The firmware's image as a number, and the bring-up record as the last bring-up left it (R442). -/
  measure : Nat
  measured : List BringEntry
  /-- Registers of PF0 (function 0) and of VF s+1 (function s+1), and those of their configuration spaces (function 32 and 33+s), that do
  not hold their reset value. -/
  regs : List ((Nat × Nat) × Word)
  portH : Bool
  slices : List SliceSt
  /-- Stack memory by stack·2^36 + address (R66), its poison marks and latent errors by sector (R83). -/
  mem : Memory
  poison : List Nat
  ecc : List (Nat × Bool)
  /-- Errors of sectors of lines in the L2 banks that nothing has met yet, by bank slice and sector; true for an uncorrectable one
  (R105). -/
  l2err : List ((Nat × Nat) × Bool)
  /-- Earlier contents of sectors that were overwritten while launches were resident, which these may still fetch (R57). -/
  oldCode : List OldSector
  /-- Host memory by requester·2^48 + I/O virtual address (R64); requester 16 is PF0. -/
  host : Memory
  /-- Launch windows by slice·2^16 + offset (R388). -/
  window : Memory
  /-- Shelves by (core·4 + space)·2^21 + physical offset (R110), and their poison marks by sector, each
  with the bytes strands have written since (R112). -/
  shelf : Memory
  shelfPoison : List (Nat × List Nat)
  l1 : List L1Line
  l2 : List L2Line
  dir : List DirEntry
  homeWrites : List HomeWrite
  /-- The TLBs of the cores and of the clusters, and the fields' caches of table entries (R74). -/
  tlb : List TlbEntry
  ctlb : List TlbEntry
  wcache : List WalkEntry
  walks : List Walk
  lent : List Lent
  pfaults : List PFault
  invals : List Inval
  fields : List FieldSt
  xwrites : List XWrite
  cores : List CoreSt
  /-- Generations of group slots that have been used: ((core, slot), generation) (R367). -/
  grpGens : List ((Nat × Nat) × Nat)
  launches : List Launch
  cohorts : List Cohort
  units : List HeadUnit
  consts : List ConstImage
  /-- What the distributors of merged members have reported to their master (R396). -/
  reports : List Report
  ctxs : List Ctx
  ops : List Op
  grans : List Gran
  copies : List Copy
  doneCopies : List DoneCopy
  publs : List Publ
  tasks : List TaskRec
  slots : List SlotSt
  banks : List Bank
  chains : List Chain
  taskFails : List TaskFail
  curReqs : List CurReq
  groups : List GroupRec
  asu : List AsuReq
  barDl : List BarDeadline
  faults : List Fault15
  childFails : List ChildFail
  syscalls : List Syscall
  irqs : List Irq
  edges : List EdgeSt
  descs : List Desc
  deriving DecidableEq, Repr

/-- No page. -/
def PageSet.none : PageSet := { all := false, except := [] }

/-- A slice after module reset; its group leader is itself (R434, R436). -/
def SliceSt.reset (s : Nat) : SliceSt :=
  { lead := s, tdisp := 0, clean := true, clearing := false, stopPending := false, rstgen := 0, hostw := false,
    keyGen := 0, usage := 0, pre := 0, preErr := 0, nreset := 0, preSince := 0, parseQ := [],
    rr := List.replicate 8 0, pfSeq := 0, fltSeq := 0, scSeq := 0, ctbReqs := [], bindDue := false,
    spdm := { stage := 0, opening := [], sessions := [], nextId := 1 }, meas7 := Option.none, dirty := PageSet.none,
    ckDirty := PageSet.none, pull := PageSet.none, pulling := [], hostPulls := [], migOp := 0, migBlock := 0, migErr := 0,
    migDone := false, ckState := 0, ckGen := 0, ckFolios := [], stranded := 0, ueIndex := 0, dumpErr := false, badWin := [], folio := Option.none }

/-- A field after module reset. Until bring-up sets its operating point (R485) it has none that the spec gives; 940 MHz is taken
(DESIGN CHOICE, log entry 7), and its walkers look at slice 0 first (DESIGN CHOICE, log entry 12). -/
def FieldSt.reset : FieldSt :=
  { mhz := 940, vc := List.replicate 4 0, seen := List.replicate 4 0, sent := List.replicate 4 0, est := 0, turn := 0,
    clk := 0, base := 0 }

/-- An edge group after module reset: OFF (R476). -/
def EdgeSt.reset : EdgeSt :=
  { parks := 0, state := 6, mode := 0, busy := false, err := 0, target := 0, cxluse := 0, xslice := 0, useNow := 0, since := 0 }

/-- The machine after module reset (R7, R147, R484): nothing runs, only PF0 answers, no firmware has been pushed. -/
def State.reset : State :=
  { clock := 0, free := 0, inputs := [], cur := none, nextId := 1, resp := none, valid := false,
    part := { fields := 0, clusters := List.replicate 4 0, stackMask := 0 }, bring := [], fwErr := 0, fwStep := 0, fwBusy := false,
    measure := 0, measured := [], regs := [], portH := true, slices := (List.range 16).map SliceSt.reset, mem := [], poison := [],
    ecc := [], l2err := [], oldCode := [], host := [], window := [], shelf := [], shelfPoison := [], l1 := [], l2 := [], dir := [],
    homeWrites := [], tlb := [], ctlb := [], wcache := [], walks := [], lent := [], pfaults := [], invals := [], fields := List.replicate 4 FieldSt.reset,
    xwrites := [], cores := [], grpGens := [], launches := [], cohorts := [], units := [], consts := [], reports := [], ctxs := [],
    ops := [], grans := [], copies := [], doneCopies := [], publs := [], tasks := [], slots := [], banks := [],
    chains := [], taskFails := [], curReqs := [], groups := [], asu := [], barDl := [], faults := [],
    childFails := [], syscalls := [], irqs := [], edges := List.replicate 16 EdgeSt.reset, descs := [] }

end Sys2Proof.Machine
end

