-- ==== Sys2Proof/Machine/Ops.lean ====
section
/-! DEFINITION. The named operations over memory, registers of BAR0, places and contexts, and the taking of an
exception and the return from one (15): every meaning is written over these. -/

namespace Sys2Proof.Machine

/-! ### Memory -/

/-- The byte at an address. -/
def Memory.read (m : Memory) (a : Nat) : Byte :=
  match m.find? (fun c => c.1 == a) with
  | some c => c.2
  | none => Memory.blank

/-- Store one byte, keeping the canonical form. -/
def Memory.write (m : Memory) (a : Nat) (v : Byte) : Memory :=
  match m with
  | [] => if v = Memory.blank then [] else [(a, v)]
  | (b, w) :: rest =>
    if a < b then (if v = Memory.blank then (b, w) :: rest else (a, v) :: (b, w) :: rest)
    else if a = b then (if v = Memory.blank then rest else (a, v) :: rest)
    else (b, w) :: Memory.write rest a v

/-- Store bytes at rising addresses. -/
def Memory.writeList (m : Memory) (a : Nat) : List Byte → Memory
  | [] => m
  | v :: vs => Memory.writeList (m.write a v) (a + 1) vs

/-- `n` bytes from an address up. -/
def Memory.readList (m : Memory) (a n : Nat) : List Byte := (List.range n).map fun k => m.read (a + k)

/-- Every byte of a range of addresses reads as blank. -/
def Memory.wipe (m : Memory) (lo n : Nat) : Memory := m.filter fun c => !(decide (lo ≤ c.1) && decide (c.1 < lo + n))

/-- The number held by bytes, little-endian (R3). -/
def leNat : List Byte → Nat
  | [] => 0
  | b :: bs => b.toNat + 256 * leNat bs

/-- A number as `n` bytes, little-endian (R3). -/
def leBytes : Nat → Nat → List Byte
  | 0, _ => []
  | n + 1, v => BitVec.ofNat 8 v :: leBytes n (v / 256)

/-! ### Small lists -/

/-- Replace the elements a test picks. -/
def updWhere {α : Type} (p : α → Bool) (f : α → α) (l : List α) : List α := l.map fun x => if p x then f x else x

/-- Insert a number into a rising list. -/
def insertNat (n : Nat) : List Nat → List Nat
  | [] => [n]
  | m :: ms => if n < m then n :: m :: ms else if n = m then m :: ms else m :: insertNat n ms

/-- Union of rising lists. -/
def unionNat (a b : List Nat) : List Nat := a.foldl (fun acc n => insertNat n acc) b

/-- The value at a key of an association list. -/
def lookupD {α β : Type} [BEq α] (l : List (α × β)) (k : α) (d : β) : β :=
  match l.find? (fun e => e.1 == k) with
  | some e => e.2
  | none => d

/-- Store under a key, keeping one entry per key. -/
def storeKey {α β : Type} [BEq α] (l : List (α × β)) (k : α) (v : β) : List (α × β) :=
  (k, v) :: l.filter (fun e => !(e.1 == k))

/-- Round up to a whole number. -/
def ceilDiv (a b : Nat) : Nat := (a + b - 1) / b

/-- Position of a maximum: the first element with the greatest key. -/
def argMax {α : Type} (key : α → Nat) : List α → Option α
  | [] => none
  | x :: xs =>
    match argMax key xs with
    | some y => if key x < key y then some y else some x
    | none => some x

/-- The first element with the least key. -/
def argMin {α : Type} (key : α → Nat) : List α → Option α
  | [] => none
  | x :: xs =>
    match argMin key xs with
    | some y => if key y < key x then some y else some x
    | none => some x

/-! ### Where things lie (R15, R19, R66) -/

def clusterOf (core : Nat) : Nat := core / 6
def fieldOf (core : Nat) : Nat := core / 120
/-- The slice a core belongs to (R19). -/
def sliceOf (core : Nat) : Nat := 4 * (core / 120) + (core / 6 % 20) / 5
/-- The package number of a cluster of a slice (R19). -/
def sliceCluster (slice k : Nat) : Nat := 20 * (slice / 4) + 5 * (slice % 4) + k
/-- Core t of a slice (R393). -/
def sliceCore (slice t : Nat) : Nat := 6 * sliceCluster slice (t / 6) + t % 6
/-- t of a core within its slice. -/
def coreIndex (core : Nat) : Nat := core - sliceCore (sliceOf core) 0

/-- The state of a slice. -/
def State.slice (s : State) (n : Nat) : SliceSt := s.slices.getD n (SliceSt.reset n)
/-- Change a slice. -/
def State.setSlice (s : State) (n : Nat) (f : SliceSt → SliceSt) : State :=
  { s with slices := s.slices.modify n f }
/-- The leader of a slice's group (R434). -/
def State.leadOf (s : State) (n : Nat) : Nat := (s.slice n).lead
/-- The members of the group a slice leads or belongs to, ascending (R66, R434). -/
def State.members (s : State) (n : Nat) : List Nat :=
  (List.range 16).filter fun k => s.leadOf k == s.leadOf n
/-- The slice whose registers serve a slice's group (R435). -/
def State.leader (s : State) (n : Nat) : Nat := s.leadOf n

/-- Ones among the low bits of a number. -/
def onesBelow (n w : Nat) : Nat := ((List.range n).filter w.testBit).length

/-- The part offers a slice: its field, its five clusters and its stack are enabled (R22). -/
def Part.present (p : Part) (slice : Nat) : Bool :=
  p.fields.toNat.testBit (slice / 4) && decide (5 * (slice % 4) + 5 ≤ onesBelow 21 (p.clusters.getD (slice / 4) 0).toNat)
    && p.stackMask.toNat.testBit slice

/-- A slice is present (R22). -/
def State.present (s : State) (slice : Nat) : Bool := s.valid && decide (slice < 16) && s.part.present slice

/-- The slice is present and leads its group: its VF's registers and launch window are its own (R436). -/
def State.serves (s : State) (slice : Nat) : Bool := s.present slice && s.leader slice == slice

/-- Change every member of a slice's group. -/
def State.setMembers (s : State) (slice : Nat) (f : SliceSt → SliceSt) : State :=
  (s.members slice).foldl (fun t k => t.setSlice k f) s

/-- A physical byte: local memory as stack·2^36 + address, peer memory as its SPA, host memory as 2^52 + requester·2^48 + I/O
virtual address (R64, R66). The requester is the slice whose VF presents the address, the leader of its group (R435), or 16 for
PF0. -/
abbrev Phys := Nat

def physHost : Nat := 2 ^ 52
/-- A host byte, by the slice that asks and the I/O virtual address (R64). -/
def State.hostPhys (s : State) (slice iova : Nat) : Phys := physHost + s.leadOf slice * 2 ^ 48 + iova % 2 ^ 48
def Phys.isLocal (k : Phys) : Bool := decide (k < 2 ^ 40)
def Phys.isHost (k : Phys) : Bool := decide (2 ^ 52 ≤ k) && decide (k < 2 ^ 53)
def Phys.isPeer (k : Phys) : Bool := decide (2 ^ 50 ≤ k) && decide (k < 2 ^ 51)

/-- Whether the bytes of a line are local, of the host, of a peer. -/
def lineLocal (line : Nat) : Bool := Phys.isLocal (line * 128)
def lineHost (line : Nat) : Bool := Phys.isHost (line * 128)
def linePeer (line : Nat) : Bool := Phys.isPeer (line * 128)

/-- The bytes of a slice's memory (R65). -/
def State.localSize (s : State) (slice : Nat) : Nat := 2 ^ 36 * (s.members slice).length

/-- Where a local offset lies (R66): its stack, the address within the stack, and the channel. -/
structure StackPlace where
  stack : Nat
  addr : Nat
  channel : Nat
  deriving DecidableEq, Repr

/-- The channel of a stack address (R66). -/
def channelOf (a : Nat) : Nat := (a / 2 ^ 8 % 32) ^^^ (a / 2 ^ 16 % 32)

/-- R66: the stack, the address and the channel of a local offset. -/
def State.stackPlace (s : State) (slice o : Nat) : StackPlace :=
  let mem := s.members slice
  let m := mem.length
  let a := o / 4096 / m * 4096 + o % 4096
  { stack := mem.getD (o / 4096 % m) slice, addr := a, channel := channelOf a }

/-- R66: the physical byte of a local offset. -/
def State.localPhys (s : State) (slice o : Nat) : Phys :=
  let p := s.stackPlace slice o
  p.stack * 2 ^ 36 + p.addr

/-- The local offset of a byte of a stack in its slice group, the other way round (R66). -/
def State.localOffset (s : State) (k : Phys) : Nat :=
  let stack := k / 2 ^ 36
  let mem := s.members stack
  let a := k % 2 ^ 36
  (a / 4096 * mem.length + mem.idxOf stack) * 4096 + a % 4096

/-- The home of a byte (R347). -/
def homeOf (k : Phys) : Home :=
  if k.isLocal then .field (k / 2 ^ 36 / 4) else if k.isHost then .host else .peer

/-! ### Registers of BAR0 (R5 to R7) -/

/-- The number that stands for PF0's configuration space among the functions; VF s+1's is s+1 beyond it (R436, R439, R484). -/
def configFn : Nat := 32

/-- What a register reads after module reset, where that is not zero (R107, R393, R433, R436, R448, R476, R487). -/
def regReset (fn off : Nat) : Word :=
  if fn = 0 then
    if 0x140 ≤ off ∧ off < 0x150 then .ofNat 32 (1050 * 2 ^ 21 + 40 * 2 ^ 15)
    else if 0x2200 ≤ off ∧ off < 0x2600 then 256
    else if 0x4000 ≤ off ∧ off < 0x4400 then
      (if off % 0x40 = 0 then .ofNat 32 ((off - 0x4000) / 0x40)
       else if off % 0x40 = 0x10 then .ofNat 32 (4 * 2 ^ 24) else 0)
    else 0
  else if configFn ≤ fn then 0
  else
    if 0x600 ≤ off ∧ off < 0x620 then 0xFFFF
    else if 0xC00 ≤ off ∧ off < 0xD00 ∧ off % 8 = 4 then .ofNat 32 (7 * 2 ^ 10)
    else if 0xE40 ≤ off ∧ off < 0xE80 then
      (if off < 0xE54 ∨ off = 0xE58 then 2 else if off = 0xE54 then 1 else 0)
    else if off = 0xE84 then .ofNat 32 (200 * 2 ^ 16 + 50)
    else 0

/-- The stored value of a register: function 0 is PF0, function s+1 is VF s+1. -/
def State.reg (s : State) (fn off : Nat) : Word :=
  match s.regs.find? (fun r => r.1 == (fn, off)) with
  | some r => r.2
  | none => regReset fn off

/-- Store a register's value; a register that holds its reset value is not listed. -/
def State.setReg (s : State) (fn off : Nat) (v : Word) : State :=
  let rest := s.regs.filter fun r => !(r.1 == (fn, off))
  { s with regs := if v = regReset fn off then rest else ((fn, off), v) :: rest }

/-- A page has been asked for, and has neither come nor failed (R453). -/
def SliceSt.asked (v : SliceSt) (page : Nat) : Bool := v.pulling.any fun p => p.1 == page

/-- A register of a slice's VF, taken from its group's leader (R435). -/
def State.vreg (s : State) (slice off : Nat) : Word := s.reg (s.leader slice + 1) off
/-- Store a register of a slice's VF in its group's leader. -/
def State.setVreg (s : State) (slice off : Nat) (v : Word) : State := s.setReg (s.leader slice + 1) off v

/-- A field of a word. -/
def fieldOfWord (w : Word) (lo n : Nat) : Nat := w.toNat / 2 ^ lo % 2 ^ n
/-- The word with a field replaced. -/
def setField (w : Word) (lo n v : Nat) : Word :=
  .ofNat 32 (w.toNat - fieldOfWord w lo n * 2 ^ lo + v % 2 ^ n * 2 ^ lo)

/-- Add to a 32-bit counter of a slice's VF, saturating (R85, R307, R335, R410, R415). -/
def State.count (s : State) (slice off n : Nat) : State :=
  s.setVreg slice off (.ofNat 32 (min ((s.vreg slice off).toNat + n) 0xFFFFFFFF))

/-- An event of an interrupt source (R421): to the host, to the command processor, with a notification for the host
when both own it. -/
def State.interrupt (s : State) (slice source : Nat) (announced : Nat) : State :=
  let own := s.vreg slice (0xE40 + 4 * source)
  let host := own.toNat % 2 == 1
  let cmd := own.toNat / 2 % 2 == 1
  let lead := s.leader slice
  if cmd then
    let s := { s with irqs := s.irqs ++ [{ slice := lead, source := source, cmd := true }] }
    if host then
      let head := fieldOfWord (s.vreg slice 0xE28) 0 6
      let tail := fieldOfWord (s.vreg slice 0xE2C) 0 6
      if (head + 1) % 64 = tail then
        let h := s.vreg slice 0xE28
        s.setVreg slice 0xE28 (setField h 8 8 (min (fieldOfWord h 8 8 + 1) 255))
      else
        let base := fieldOfWord (s.vreg slice 0xE20) 12 20 * 4096 + (s.vreg slice 0xE24).toNat * 2 ^ 32
        let rcd := leBytes 2 (s.slice lead).scSeq ++ [2, .ofNat 8 source] ++ leBytes 2 announced ++ leBytes 58 0
        let s := { s with host := s.host.writeList (lead * 2 ^ 48 + (base + 64 * head) % 2 ^ 48) rcd }
        let s := s.setSlice lead fun v => { v with scSeq := (v.scSeq + 1) % 65536 }
        s.setVreg slice 0xE28 (setField (s.vreg slice 0xE28) 0 6 (head + 1))
    else s
  else if host then { s with irqs := s.irqs ++ [{ slice := lead, source := source, cmd := false }] }
  else s

/-! ### Fresh numbers, free values, time -/

/-- A fresh number. -/
def State.fresh (s : State) : Nat × State := (s.nextId, { s with nextId := s.nextId + 1 })

/-- Advance the counter that free values are applied to. -/
def State.draw (s : State) : State := { s with free := s.free + 1 }

/-- Choose one of several in no fixed order. -/
def State.choose {α : Type} (s : State) (l : List α) : Option α × State :=
  match l with
  | [] => (none, s)
  | [x] => (some x, s)
  | x :: y :: rest => (some ((x :: y :: rest).getD (Config.pick s.free % (rest.length + 2)) x), s.draw)

/-- The divider and counters of a core (R17, R116, R148). -/
def State.coreSt (s : State) (core : Nat) : CoreSt :=
  match s.cores.find? (fun c => c.core == core) with
  | some c => c
  | none => { core := core, div := 8, copySeq := 0, cycBase := 0, clkBase := 0 }

/-- Change a core's state. -/
def State.setCore (s : State) (core : Nat) (f : CoreSt → CoreSt) : State :=
  { s with cores := f (s.coreSt core) :: s.cores.filter (fun c => c.core != core) }

/-- The operating point of a field (R13). -/
def State.mhz (s : State) (field : Nat) : Nat := (s.fields.getD field FieldSt.reset).mhz

/-- A field's count of cluster clocks, which run at its operating point (R13, R17). -/
def State.fieldClock (s : State) (field : Nat) : Nat :=
  let f := s.fields.getD field FieldSt.reset
  f.clk + (s.clock - f.base) * f.mhz / 940

/-- A core's count of core clocks (R148): n/8 of the clocks of its field (R17). -/
def State.cycles (s : State) (core : Nat) : Nat :=
  let c := s.coreSt core
  c.cycBase + (s.fieldClock (fieldOf core) - c.clkBase) * c.div / 8

/-- The time of `n` core clocks of a core (R17). -/
def State.coreClocks (s : State) (core n : Nat) : Nat :=
  ceilDiv (n * (8 * 940)) ((s.coreSt core).div * s.mhz (fieldOf core))

/-- The time of `n` cluster clocks of a field (R13, R17). -/
def State.fieldClocks (s : State) (field n : Nat) : Nat := ceilDiv (n * 940) (s.mhz field)

/-- The time of some milliseconds. -/
def millis (ms : Nat) : Nat := 940 * 1000 * ms

/-- Both sides of every crossing between two fields have come up (R14). -/
def State.crossOpen (s : State) (f g : Nat) : Bool :=
  (List.range 4).all fun h => decide (h < min f g) || decide (max f g < h) || s.part.fields.toNat.testBit h

/-! ### Launches, cohorts, items -/

def State.launch? (s : State) (n : Nat) : Option Launch := s.launches.find? fun l => l.num == n
def State.setLaunch (s : State) (n : Nat) (f : Launch → Launch) : State :=
  { s with launches := updWhere (fun l => l.num == n) f s.launches }
def State.cohort? (s : State) (launch n : Nat) : Option Cohort :=
  s.cohorts.find? fun c => c.launch == launch && c.num == n
def State.setCohort (s : State) (launch n : Nat) (f : Cohort → Cohort) : State :=
  { s with cohorts := updWhere (fun c => c.launch == launch && c.num == n) f s.cohorts }
def State.ctx? (s : State) (id : Nat) : Option Ctx := s.ctxs.find? fun c => c.id == id
def State.setCtx (s : State) (c : Ctx) : State := { s with ctxs := updWhere (fun d => d.id == c.id) (fun _ => c) s.ctxs }
def State.modCtx (s : State) (id : Nat) (f : Ctx → Ctx) : State := { s with ctxs := updWhere (fun d => d.id == id) f s.ctxs }

/-- A box size of 0 stands for 2^32 (R385); the record holds sizes already so read. -/
def cohortsX (r : LaunchRec) : Nat := ceilDiv r.nx r.cohX
def cohortsY (r : LaunchRec) : Nat := ceilDiv r.ny r.cohY
def cohortsZ (r : LaunchRec) : Nat := ceilDiv r.nz r.cohZ
/-- Cohorts of a launch (R363). -/
def cohortTotal (r : LaunchRec) : Nat := cohortsX r * cohortsY r * cohortsZ r

/-- The coordinates of item c of a cohort (R148, R149, R363). -/
def coord (r : LaunchRec) (cohort c : Nat) : Nat × Nat × Nat :=
  (cohort % cohortsX r * r.cohX + c % r.cohX,
   cohort / cohortsX r % cohortsY r * r.cohY + c / r.cohX % r.cohY,
   cohort / cohortsX r / cohortsY r * r.cohZ + c / r.cohX / r.cohY)

/-- The item lies in the launch box (R363). -/
def inBox (r : LaunchRec) (cohort c : Nat) : Bool :=
  let (x, y, z) := coord r cohort c
  decide (x < r.nx) && decide (y < r.ny) && decide (z < r.nz)

/-- The item's linear index L (R148). -/
def linear (r : LaunchRec) (cohort c : Nat) : Nat :=
  let (x, y, z) := coord r cohort c
  x + r.nx * (y + r.ny * z)

/-- The cohort-linear indices of a cohort's items (R363). -/
def cohortItems (r : LaunchRec) (cohort : Nat) : List Nat :=
  (List.range (r.cohX * r.cohY * r.cohZ)).filter fun c => inBox r cohort c

/-- The blocks that hold at least one of some items, ascending (R156). -/
def blocksOf (cs : List Nat) : List Nat := (cs.map (· / 64)).foldl (fun acc j => insertNat j acc) []

/-- Items of a context by index. -/
def Ctx.cs (c : Ctx) : List Nat := c.items.map Item.c
/-- Change the items a test picks. -/
def Ctx.mapItems (c : Ctx) (p : Nat → Bool) (f : Item → Item) : Ctx :=
  { c with items := updWhere (fun i => p i.c) f c.items }
/-- The key of an item of a context. -/
def Ctx.key (ctx : Ctx) (c : Nat) : ItemKey := { launch := ctx.launch, cohort := ctx.cohort, c := c }

/-- The context that holds an item. -/
def State.holder? (s : State) (k : ItemKey) : Option Ctx :=
  s.ctxs.find? fun x => x.launch == k.launch && x.cohort == k.cohort && x.cs.contains k.c

/-- The operation was issued for an item that the context holds (R49). -/
def Op.serves (o : Op) (x : Ctx) : Bool :=
  o.launch == x.launch && o.cohort == x.cohort && o.core == x.core && o.items.any x.cs.contains

/-- A completion flag is busy (R49). -/
def State.flagBusy (s : State) (x : Ctx) (f : Nat) : Bool :=
  s.ops.any fun o => o.flag == some f && o.serves x

/-- Some flag of a mask is busy. -/
def State.maskBusy (s : State) (x : Ctx) (mask : BitVec 12) : Bool :=
  (List.range 12).any fun f => mask.toNat.testBit f && s.flagBusy x f

/-- Operations outstanding under a flag of a context: issues, not items (R49). -/
def State.underFlag (s : State) (x : Ctx) (f : Nat) : Nat :=
  ((s.ops.filter fun o => o.flag == some f && o.serves x).map Op.issue).foldl (fun acc n => insertNat n acc) [] |>.length

/-- No register write is outstanding for an item (R161, R414). -/
def State.quiet (s : State) (x : Ctx) (c : Nat) : Bool :=
  !(s.ops.any fun o => o.serves x && o.items.contains c && !o.dst.isEmpty)

/-- Loads and atomics of some items of a context are still to return their values. -/
def State.reading (s : State) (x : Ctx) (cs : List Nat) : Bool :=
  s.ops.any fun o => o.serves x && o.items.any cs.contains && match o.kind with
    | .load _ _ _ _ _ => true
    | .atomic _ _ _ _ => !o.dst.isEmpty
    | _ => false

/-- The items of a context that wait in the same way at the same PC. -/
def Ctx.withWait (x : Ctx) (i : Item) : List Nat := (x.items.filter fun j => j.pc == i.pc && j.wait == i.wait).map Item.c

/-- The item waits (R189). A group waits as a whole for what its items still have outstanding. -/
def State.waits (s : State) (x : Ctx) (i : Item) : Bool :=
  i.parked ||
  match i.wait with
  | .none => false
  | .flags m => s.maskBusy x m
  | .quiet => (x.withWait i).any fun c => !s.quiet x c
  | .region => s.reading x (x.withWait i)
  | _ => true

/-- The PC of the group that issues next, if one can (R189, R190). -/
def State.groupPc (s : State) (x : Ctx) : Option DWord :=
  if x.held.isSome || x.pending.isSome then none
  else
    let ready := x.items.filter fun i => !s.waits x i
    let least (l : List Item) : Option DWord := (argMin (fun i => i.pc.toNat) l).map Item.pc
    match x.yielded with
    | none => least ready
    | some y =>
      let others := ready.filter fun i => i.pc != y
      match least (others.filter fun i => decide (y.toNat < i.pc.toNat)) with
      | some p => some p
      | none =>
        match least others with
        | some p => some p
        | none => least ready

/-- The context that issues, its launch, and its executing group (R189). -/
structure Issue where
  ctx : Ctx
  launch : Launch
  pc : DWord
  grp : List Item
  aff : List Item

/-- The issue at hand, every item of the executing group affected. -/
def State.issue? (s : State) : Option Issue :=
  match s.cur with
  | none => none
  | some id =>
    match s.ctx? id with
    | none => none
    | some x =>
      match s.launch? x.launch, s.groupPc x with
      | some l, some pc =>
        let grp := x.items.filter fun i => i.pc == pc && !s.waits x i
        some { ctx := x, launch := l, pc := pc, grp := grp, aff := grp }
      | _, _ => none

/-! ### Places (R158, R183) and reservations -/

/-- What is reserved on a core, over cohorts and headroom units (R183, R401). -/
def State.shares (s : State) (core : Nat) : List Share :=
  let inUnit (c : Cohort) : Bool := s.units.any fun u => c.unitOf == some u.id
  let ofCohort := s.cohorts.flatMap fun c => if inUnit c then [] else c.shares.filter fun h => h.core == core
  ofCohort ++ s.units.flatMap fun u => u.shares.filter fun h => h.core == core

/-- Strand places of a core that no cohort has reserved and no context has taken (R183). -/
def State.freeStrands (s : State) (core : Nat) : Nat :=
  512 - ((s.shares core).map fun h => h.blocks.length).sum
    - (s.ctxs.filter fun x => x.core == core && x.kind != .span && x.place.isNone).length

/-- Span places of a core neither reserved nor taken (R183). -/
def State.freeSpans (s : State) (core : Nat) : Nat :=
  64 - ((s.shares core).filter fun h => !h.blocks.isEmpty).length
    - (s.ctxs.filter fun x => x.core == core && x.kind == .span && x.place.isNone).length

/-- Span places of a core that contexts of a queue hold (R393). -/
def State.queueSpans (s : State) (core slice queue : Nat) : Nat :=
  (s.ctxs.filter fun x => x.core == core && x.kind == .span && match s.launch? x.launch with
    | some l => l.rcd.queue == queue && s.leader l.slice == s.leader slice
    | none => false).length

/-- Span places of a core that a queue's contexts may hold (R393). -/
def State.spanLimit (s : State) (slice queue : Nat) : Nat :=
  match fieldOfWord (s.vreg slice (0xC04 + 8 * queue)) 0 7 with
  | 0 => 64
  | n => min n 64

/-- The reserved place of a block of a cohort is free (R183). -/
def State.blockFree (s : State) (core launch cohort j : Nat) : Bool :=
  !(s.ctxs.any fun x => x.core == core && x.launch == launch && x.cohort == cohort && x.kind != .span
      && x.place == some j)

/-- A pending remainder stands ahead of another context for the places of a core: the one that has been pending longest, the first
made on ties, and any of them ahead of every other use (R185). -/
def Ctx.ahead (y x : Ctx) : Bool :=
  y.id != x.id && y.core == x.core && match y.pending, x.pending with
    | some a, some b => decide (a < b) || (a == b && decide (y.id < x.id))
    | some _, none => true
    | none, _ => false

/-- An unreserved strand place is free for a context (R183, R185). -/
def State.openStrand (s : State) (x : Ctx) : Bool := decide (0 < s.freeStrands x.core) && !(s.ctxs.any fun y => y.ahead x)

/-- The place that a block of a context finds when the context is cut: the one reserved for the block, or an unreserved one
(R184, R185). -/
def State.blockPlace (s : State) (x : Ctx) (j : Nat) : Option (Option Nat) :=
  let claimed := s.ctxs.any fun y => y.ahead x && y.launch == x.launch && y.cohort == x.cohort && (blocksOf y.cs).head? == some j
  if s.blockFree x.core x.launch x.cohort j && !claimed then some (some j)
  else if s.openStrand x then some none else none

/-- The lane a new strand takes: the one with the fewest contexts, the lowest on ties (R408). -/
def State.newLane (s : State) (core : Nat) : Nat :=
  let load (n : Nat) : Nat := (s.ctxs.filter fun x => x.core == core && x.kind != .span && x.lane == n).length
  (argMin load (List.range 64)).getD 0

/-! ### Cutting a context (R155, R184, R188) -/

/-- An item register that lives for some items (R157). -/
def Ctx.xReg? (x : Ctx) (n : Nat) : Option XReg := x.x.find? fun g => g.num == n && !g.live.isEmpty
/-- A uniform register that lives for some items (R157). -/
def Ctx.qReg? (x : Ctx) (n : Nat) : Option QReg := x.q.find? fun g => g.num == n && !g.live.isEmpty

/-- The item and uniform registers of a context that live for some items, one for each number. -/
def Ctx.xRegs (x : Ctx) : List XReg := (unionNat (x.x.map XReg.num) []).filterMap x.xReg?
def Ctx.qRegs (x : Ctx) : List QReg := (unionNat (x.q.map QReg.num) []).filterMap x.qReg?

/-- The registers of a context restricted to some of its items, which go on sharing its span-file entries (R155 to R157). -/
def Ctx.restrict (x : Ctx) (cs : List Nat) : Ctx :=
  let keep (l : List Nat) : List Nat := l.filter cs.contains
  { x with
    gen := x.gen + 1,
    items := x.items.filter (fun i => cs.contains i.c),
    x := x.xRegs.map (fun r => { r with live := keep r.live, form := match r.form with
      | .m slots => .m (slots.filter fun e => cs.contains e.1)
      | f => f }) |>.filter (fun r => !r.live.isEmpty),
    q := x.qRegs.map (fun r => { r with live := keep r.live }) |>.filter (fun r => !r.live.isEmpty),
    p := x.p.map (fun r => { r with form := match r.form with
      | .m slots => .m (slots.filter fun e => cs.contains e.1)
      | f => f }) }

/-- Whether the value of an E predicate's comparison holds (R151, R256). -/
def cmpHolds (cmp : Nat) (uns : Bool) (a b : Word) : Bool :=
  let lt := if uns then decide (a.toNat < b.toNat) else decide (a.toInt < b.toInt)
  match cmp with
  | 0 => a == b
  | 1 => a != b
  | 2 => lt
  | 3 => lt || a == b
  | 4 => !(lt || a == b)
  | _ => !lt

/-- An A register's value at coordinates (R149). -/
def affineAt (base sx sy sz : Word) (p : Nat × Nat × Nat) : Word :=
  base + sx * .ofNat 32 p.1 + sy * .ofNat 32 p.2.1 + sz * .ofNat 32 p.2.2

/-- An E predicate's value at coordinates (R151). -/
def EPred.at (e : EPred) (p : Nat × Nat × Nat) : Bool :=
  let v := affineAt e.base e.sx e.sy e.sz p
  xor e.neg (if e.swap then cmpHolds e.cmp e.uns e.thr v else cmpHolds e.cmp e.uns v e.thr)

/-- E predicates become M in each strand of a cut (R184). -/
def PForm.concrete (f : PForm) (r : LaunchRec) (cohort : Nat) (cs : List Nat) : PForm :=
  match f with
  | .e p => .m (cs.map fun c => (c, p.at (coord r cohort c)))
  | g => g

/-- Cut a span into strands, block by block, while places are free; the rest stays behind as a pending remainder
(R184, R185). -/
def State.cutBlocks (s : State) (x : Ctx) (r : LaunchRec) : List Nat → List Ctx × State
  | [] => ([], s)
  | j :: js =>
    let cs := x.cs.filter fun c => c / 64 == j
    match s.blockPlace x j with
    | none => ([], s)
    | some place =>
      let (id, s) := s.fresh
      let y := x.restrict cs
      let y := { y with id := id, kind := .strand, lane := s.newLane x.core, split := 0, staged := 0, pending := none,
                        place := place, created := s.clock, yielded := none,
                        p := y.p.map fun p => { p with form := p.form.concrete r x.cohort cs } }
      let (rest, s) := State.cutBlocks { s with ctxs := s.ctxs ++ [y] } x r js
      (y :: rest, s)

/-- Materialise a span (R184). The staged copies go with the first strand. -/
def State.materialise (s : State) (x : Ctx) (r : LaunchRec) : State :=
  let s0 := { s with ctxs := s.ctxs.filter fun y => y.id != x.id }
  let (made, s1) := s0.cutBlocks x r (blocksOf x.cs)
  let taken := made.flatMap Ctx.cs
  let rest := x.cs.filter fun c => !taken.contains c
  let s1 := match made with
    | y :: _ => s1.modCtx y.id fun z => { z with staged := x.staged }
    | [] => s1
  if rest.isEmpty then s1
  else
    let y := x.restrict rest
    let y := { y with pending := some (x.pending.getD s.clock), staged := if made.isEmpty then x.staged else 0 }
    { s1 with ctxs := s1.ctxs ++ [y] }

/-- Cut one item out of its strand as a solo, when an unreserved strand place is free; otherwise it is parked
(R188). A context of one item that is already a solo stays as it is. The staged copies stay with the strand (DESIGN CHOICE, log
entry 84). -/
def State.cutSolo (s : State) (ctx c : Nat) : State :=
  match s.ctx? ctx with
  | none => s
  | some x =>
    if x.kind == .solo then s.modCtx ctx fun y => y.mapItems (· == c) fun i => { i with parked := false }
    else if s.openStrand x then
      let (id, s) := s.fresh
      let y := x.restrict [c]
      let y := { y with id := id, kind := .solo, lane := s.newLane x.core, staged := 0, place := none, split := 0,
                        created := s.clock, yielded := none, held := none, rel := none }
      let y := y.mapItems (· == c) fun i => { i with parked := false }
      let left := x.restrict (x.cs.filter (· != c))
      let s := { s with ctxs := s.ctxs ++ [y] }
      if left.items.isEmpty then
        { s with ctxs := (s.ctxs.filter fun z => z.id != ctx).map fun z => if z.id == id then { z with staged := x.staged } else z }
      else s.setCtx left
    else s.modCtx ctx fun y => y.mapItems (· == c) fun i => { i with parked := true }

/-! ### Taking an exception (15) and returning from one -/

/-- The context number that a record names (R418). -/
def Ctx.number (x : Ctx) : Nat := x.id

/-- The code word index of a PC (R418). -/
def wordIndex (l : Launch) (pc : DWord) : Nat := (pc.toNat - l.code) / 4

/-- Bit c − first for each item (R418, R424). -/
def maskOf (first : Nat) (cs : List Nat) : DWord :=
  .ofNat 64 ((cs.filter fun c => decide (first ≤ c) && decide (c - first < 64)).foldl (fun m c => m ||| 2 ^ (c - first)) 0)

/-- The fault policy ends faults of this cause at once (R420). -/
def State.autoEnd (s : State) (slice cause : Nat) : Bool := (s.vreg slice 0xE10).toNat.testBit cause

/-- The record of a fault of some items of a context, or of the whole of it (R418). -/
def faultRecord (s : State) (id : Nat) (x : Ctx) (l : Launch) (cause : Nat) (whole : Bool) (cs : List Nat)
    (pc : DWord) (region : Word) (detail : DWord) (next : Bool) : Fault15 :=
  let first := x.cs.headD 0
  let auto := s.autoEnd l.slice cause
  { id := id, slice := s.leader l.slice, seq := none, cause := cause, scope := if whole then 1 else 0, auto := auto,
    launch := x.launch, cohort := x.cohort, core := x.core, cfirst := first,
    mask := if whole then -1 else maskOf first cs, pc := wordIndex l pc, region := region, detail := detail,
    ctx := x.number, items := if whole then x.cs else cs, next := next, needs := !auto }

/-- Take a fault of some items of a strand or solo (R188, R416, R418): their record is made, each waits for its action
and is cut out as a solo. `pc` is the PC the record names. What the answers to one issue's operations fault for one cause shares a
record that has not been written yet. -/
def State.faultItems (s : State) (ctx : Nat) (cause : Nat) (cs : List Nat) (pc : DWord) (detail : DWord)
    (next : Bool) (issue : Nat := 0) : State :=
  match s.ctx? ctx with
  | none => s
  | some x =>
    match s.launch? x.launch with
    | none => s
    | some l =>
      let same (f : Fault15) : Bool :=
        issue != 0 && f.issue == issue && f.cause == cause && f.ctx == x.number && f.launch == x.launch && f.seq.isNone && f.scope == 0
      let (id, s) : Nat × State := match s.faults.find? same with
        | some f =>
          (f.id, { s with faults := updWhere (fun g => g.id == f.id)
                            (fun g => { g with mask := g.mask ||| maskOf g.cfirst cs, items := g.items ++ cs }) s.faults })
        | none =>
          let (id, s) := s.fresh
          (id, { s with faults := s.faults ++ [{ faultRecord s id x l cause false cs pc x.region detail next with issue := issue }] })
      let s := s.modCtx ctx fun y => y.mapItems cs.contains fun i => { i with wait := .fault id, since := s.clock }
      cs.foldl (fun t c => t.cutSolo ctx c) s

/-- Take a fault of a whole context (R188, R416, R418): the context waits as a whole. `grp` are the items that issued the instruction,
where they stand behind it by now. -/
def State.faultCtx (s : State) (ctx : Nat) (cause : Nat) (pc : DWord) (detail : DWord) (next : Bool) (grp : List Nat := []) : State :=
  match s.ctx? ctx with
  | none => s
  | some x =>
    match s.launch? x.launch with
    | none => s
    | some l =>
      let (id, s) := s.fresh
      let f := { faultRecord s id x l cause true [] pc x.region detail next with grp := grp }
      let s := { s with faults := s.faults ++ [f] }
      s.modCtx ctx fun y => { y with held := some id }

/-- Take a fault of items that an issue faulted together and that have been cut out of their strand since: one record names them
(R79, R418). -/
def State.faultCut (s : State) (launch cohort cause : Nat) (cs : List Nat) (pc detail : DWord) : State :=
  match argMin id cs with
  | none => s
  | some first =>
    match s.holder? { launch := launch, cohort := cohort, c := first }, s.launch? launch with
    | some x, some l =>
      let (id, s) := s.fresh
      let f := { faultRecord s id x l cause false cs pc x.region detail false with cfirst := first, mask := maskOf first cs }
      let hit (y : Ctx) : Bool := y.launch == launch && y.cohort == cohort
      { s with
        faults := s.faults ++ [f],
        ctxs := updWhere hit (fun y => y.mapItems cs.contains fun i => { i with wait := .fault id, since := s.clock }) s.ctxs }
    | _, _ => s

/-- The contexts that hold some items of a context as it was. -/
def State.partsOf (s : State) (x : Ctx) (cs : List Nat) : List (Nat × List Nat) :=
  s.ctxs.filterMap fun y =>
    let mine := y.cs.filter cs.contains
    if y.launch == x.launch && y.cohort == x.cohort && !mine.isEmpty then some (y.id, mine) else none

/-- Materialise a context that is a span, as an item of it needs strands (R184, R188). -/
def State.needStrands (s : State) (ctx : Nat) : State :=
  match s.ctx? ctx with
  | none => s
  | some x =>
    match s.launch? x.launch with
    | none => s
    | some l => if x.kind == CtxKind.span && x.pending.isNone then s.materialise x l.rcd else s

/-- Take a fault of some items of any context: a span materialises first (R320, R371), and each part takes it, its record naming what
`detail` gives for the first of its items. -/
def State.faultEach (s : State) (ctx : Nat) (cause : Nat) (cs : List Nat) (pc : DWord) (detail : Nat → DWord) (next : Bool)
    (issue : Nat := 0) : State :=
  match s.ctx? ctx with
  | none => s
  | some x =>
    let s := s.needStrands ctx
    (s.partsOf x cs).foldl (fun t q => t.faultItems q.1 cause q.2 pc (detail (q.2.headD 0)) next issue) s

/-- Take a fault of some items of any context, whose records name one thing. -/
def State.faultSome (s : State) (ctx : Nat) (cause : Nat) (cs : List Nat) (pc : DWord) (detail : DWord) (next : Bool)
    (issue : Nat := 0) : State :=
  s.faultEach ctx cause cs pc (fun _ => detail) next issue

/-- Roll an item back to its region entry; it goes on once its outstanding register writes have landed (R414). -/
def Item.rollback (i : Item) : Item :=
  { i with pc := i.entry.pc, region := i.entry.region, place := i.entry.place, wait := .quiet }

/-- Return from a fault by RESUME (R414, R419): each item of the record continues at its resume point. A rollback of
a solo restores s_region and s_fflags from the item's entry; in a strand or span the same values are those recorded at
the entry by the group that rolls back. Items that wait for something else go on waiting: with a `whole` context those of its other
groups, and those that a record of their own holds. What a region has staged is behind its entry and stands (R411, R415). -/
def State.resumeItems (s : State) (x : Ctx) (cs : List Nat) (next : Bool) (whole : Bool := false) : State :=
  let goes (i : Item) : Bool := cs.contains i.c && match i.wait with
    | .none => true
    | .fault _ => !whole
    | .flags _ => !next
    | .quiet => !next
    | .region => !next
    | _ => false
  s.modCtx x.id fun y =>
    let y := if whole then { y with held := none } else y
    if next then y.mapItems cs.contains fun i => if goes i then { i with wait := .none } else i
    else
      let y := match y.items.find? goes with
        | some i => { y with region := i.entry.region, fflags := i.entry.fflags }
        | none => y
      y.mapItems cs.contains fun i => if goes i then i.rollback else i

end Sys2Proof.Machine
end

