-- ==== Sys2Proof/Machine/Operands.lean ====
section
/-! DEFINITION. Operand forms and result forms (06), hazards (02 R50), last-read marks (R157), and the one procedure by
which every instruction of the instruction set issues: count, guard, cut, perform, advance (02, 07, 15). -/

namespace Sys2Proof.Machine

/-! ### Values and forms -/

/-- A register form's value for item c. -/
def XForm.at (f : XForm) (r : LaunchRec) (cohort c : Nat) : Word :=
  match f with
  | .u v => v
  | .a b sx sy sz => affineAt b sx sy sz (coord r cohort c)
  | .m slots => lookupD slots c 0

/-- A predicate form's value for item c. -/
def PForm.at (f : PForm) (r : LaunchRec) (cohort c : Nat) : Bool :=
  match f with
  | .u v => v
  | .e p => p.at (coord r cohort c)
  | .m slots => lookupD slots c false

/-- A form A whose strides are all zero is held as U (R149). -/
def XForm.norm : XForm → XForm
  | .a b sx sy sz => if sx = 0 ∧ sy = 0 ∧ sz = 0 then .u b else .a b sx sy sz
  | f => f

/-- An item register as the context's items read it: killed or never written reads 0 (R147, R157). -/
def Ctx.xForm (x : Ctx) (r : LaunchRec) (n : Nat) : XForm :=
  match x.xReg? n with
  | none => .u 0
  | some g =>
    if x.cs.all g.live.contains then g.form
    else .m (x.cs.map fun c => (c, if g.live.contains c then g.form.at r x.cohort c else 0))

/-- A uniform register as the context's items read it (R157). -/
def Ctx.qForm (x : Ctx) (n : Nat) : XForm :=
  match x.qReg? n with
  | none => .u 0
  | some g =>
    if x.cs.all g.live.contains then .u g.val
    else .m (x.cs.map fun c => (c, if g.live.contains c then g.val else 0))

/-- A predicate's form; PT is 1. -/
def Ctx.pForm (x : Ctx) (n : Nat) : PForm :=
  if n = 127 then .u true
  else match x.p.find? (fun g => g.num == n) with
    | none => .u false
    | some g => g.form

/-- A word of the constant bank; none while the image has not arrived (R387). -/
def State.kWord (s : State) (x : Ctx) (i : Nat) : Option Word :=
  match s.consts.find? (fun k => k.core == x.core && k.launch == x.launch) with
  | none => some 0
  | some k => k.words.map fun ws => if i < 1024 then ws.getD i 0 else 0

/-- The constant bank of a context has arrived, as far as an instruction reads it. -/
def State.kReady (s : State) (x : Ctx) : Bool := (s.kWord x 0).isSome

/-! ### Operands of an instruction -/

/-- Operands of an extended instruction, or of the base word it stands for. -/
structure Src where
  code : BitVec 8
  imm : Word
  lit : DWord


/-- A register of a base word: x, or q in the span slot of a pair (R42). -/
def regSrc (span : Bool) (n : Nat) : Src := { code := .ofNat 8 (if span then 128 + n else n), imm := 0, lit := 0 }
/-- A k word of a base word (R29). -/
def kSrc (n : Nat) : Src := { code := 0xE0, imm := .ofNat 32 n, lit := 0 }
/-- A 32-bit literal (R31). -/
def litSrc (w : Word) : Src := { code := 0xF0, imm := w, lit := 0 }

/-- The operand is a k word. -/
def Src.isK (a : Src) : Bool := a.code == 0xE0

/-- The form of a 32-bit source operand (R35). -/
def State.src32 (s : State) (x : Ctx) (r : LaunchRec) (a : Src) : XForm :=
  let n := a.code.toNat
  if n < 128 then x.xForm r n
  else if n < 192 then x.qForm (n - 128)
  else if n = 0xE0 then .u ((s.kWord x a.imm.toNat).getD 0)
  else if n = 0xF0 then .u a.imm
  else if n = 0xF1 then .u (a.lit.truncate 32)
  else .u 0

/-- The form of the high half of a 64-bit source operand (R38): the next register, the next k word, the literal's high
half, and an immediate extended with its sign when `sx` (R163, R259). -/
def State.srcHi (s : State) (x : Ctx) (r : LaunchRec) (a : Src) (sx : Bool) : XForm :=
  let n := a.code.toNat
  if n < 128 then x.xForm r (n + 1)
  else if n < 192 then x.qForm (n - 128 + 1)
  else if n = 0xE0 then .u ((s.kWord x (a.imm.toNat + 1)).getD 0)
  else if n = 0xF0 then .u (if sx && a.imm.msb then -1 else 0)
  else if n = 0xF1 then .u ((a.lit >>> 32).truncate 32)
  else .u 0

/-- The registers an operand code names, `n` of them from its number. -/
def codeRegs (code : BitVec 8) (n : Nat) : List RegRef :=
  let v := code.toNat
  if v < 128 then (List.range n).map fun k => .x (v + k)
  else if v < 192 then (List.range n).map fun k => .q (v - 128 + k)
  else []

/-- Where a result goes. -/
inductive Dst where
  | x (n : Nat)
  | q (n : Nat)
  | p (n : Nat)
  | none
  deriving DecidableEq, Repr

/-- The destination at an operand code (R35). -/
def dstOf (code : BitVec 8) : Dst :=
  let v := code.toNat
  if v < 128 then .x v else if v < 192 then .q (v - 128) else .none
/-- The second register of a 64-bit destination (R38). -/
def dstHi (code : BitVec 8) : Dst :=
  let v := code.toNat
  if v < 128 then .x (v + 1) else if v < 192 then .q (v - 128 + 1) else .none
/-- A predicate destination; 0x7F discards (R35). -/
def dstPred (code : BitVec 8) : Dst := if code.toNat < 96 then .p code.toNat else .none

/-- The registers a destination names. -/
def Dst.regs : Dst → List RegRef
  | .x n => [.x n]
  | .q n => [.q n]
  | .p n => [.p n]
  | .none => []

/-! ### Hazards (R50) and marks (R157) -/

/-- A write of one of these registers is outstanding for an item of the context: for q registers any item, for the
others one of `cs`. -/
def State.outstanding (s : State) (x : Ctx) (cs : List Nat) (regs : List RegRef) : Bool :=
  s.ops.any fun o => o.serves x && o.dst.any fun d => regs.contains d && match d with
    | .q _ => true
    | _ => o.items.any cs.contains

/-- Kill one register for some items (R157). -/
def Ctx.kill1 (x : Ctx) (cs : List Nat) (g : RegRef) : Ctx :=
  match g with
  | .x n =>
    match x.xReg? n with
    | none => x
    | some h =>
      let left := x.x.filter fun e => e.num != n
      let live := h.live.filter fun c => !cs.contains c
      { x with x := if live.isEmpty then left else { h with live := live } :: left }
  | .q n =>
    match x.qReg? n with
    | none => x
    | some h =>
      let left := x.q.filter fun e => e.num != n
      let live := h.live.filter fun c => !cs.contains c
      { x with q := if live.isEmpty then left else { h with live := live } :: left }
  | .p _ => x

/-- Kill registers for some items (R157). -/
def Ctx.kill (x : Ctx) (cs : List Nat) (regs : List RegRef) : Ctx := regs.foldl (fun y g => y.kill1 cs g) x

/-! ### Writing registers (R152 to R157) -/

/-- Write an item register whole, in form U or A: an entry that another part shares is left to it (R156). -/
def Ctx.setX (x : Ctx) (n : Nat) (f : XForm) (ent : Nat × Nat := (x.id, x.gen)) : Ctx :=
  { x with x := { num := n, form := f.norm, live := x.cs, ent := ent } :: x.x.filter (fun g => g.num != n) }

/-- Write an item register for some items in form M; the others keep their values (R153). -/
def Ctx.setSlots (x : Ctx) (r : LaunchRec) (n : Nat) (vals : List (Nat × Word)) : Ctx :=
  let old := x.xReg? n
  let keep := match old with
    | none => []
    | some g => (g.live.filter fun c => !(vals.any fun v => v.1 == c)).map fun c => (c, g.form.at r x.cohort c)
  let live := unionNat ((old.map XReg.live).getD []) (vals.map Prod.fst)
  { x with x := { num := n, form := .m (keep ++ vals), live := live } :: x.x.filter (fun g => g.num != n) }

/-- Write a uniform register (R154). -/
def Ctx.setQ (x : Ctx) (n : Nat) (v : Word) (ent : Nat × Nat := (x.id, x.gen)) : Ctx :=
  { x with q := { num := n, val := v, live := x.cs, ent := ent } :: x.q.filter (fun g => g.num != n) }

/-- Write a predicate in form U or E. -/
def Ctx.setP (x : Ctx) (n : Nat) (f : PForm) : Ctx :=
  { x with p := { num := n, form := f } :: x.p.filter (fun g => g.num != n) }

/-- Write a predicate for some items in form M (R153). -/
def Ctx.setPSlots (x : Ctx) (r : LaunchRec) (n : Nat) (vals : List (Nat × Bool)) : Ctx :=
  let old := x.pForm n
  let keep := (x.cs.filter fun c => !(vals.any fun v => v.1 == c)).map fun c => (c, old.at r x.cohort c)
  x.setP n (.m (keep ++ vals))

/-! ### Storage limits (R156 to R160) -/

/-- One value of the operation serves every item (`ldq`, and an atomic with a q destination). -/
def Op.uniform (o : Op) : Bool :=
  match o.kind with
  | .load _ _ _ _ uni => uni
  | .atomic _ _ _ uni => uni
  | _ => false

/-- An operation's values will lie in strand registers: those of each item, or the one value where it is for only some items of a
context (R153, R156, R161). -/
def Op.perItem (o : Op) (ctxs : List Ctx) : Bool :=
  match o.kind with
  | .load _ _ _ _ _ => !o.uniform || ctxs.any fun y => o.serves y && !(y.cs.all o.items.contains)
  | .atomic _ _ _ _ => !o.uniform
  | _ => false

/-- Strand registers that a block's items hold in some contexts: M item registers, those in quarantine for a result
still to land, and M predicate groups (R156, R161). -/
def blockRegs (ctxs : List Ctx) (ops : List Op) (j : Nat) : Nat :=
  let inBlock (c : Nat) : Bool := c / 64 == j
  let names := ctxs.flatMap fun y => y.x.filterMap fun g => match g.form with
    | .m _ => if g.live.any inBlock then some g.num else none
    | _ => none
  let preds := ctxs.flatMap fun y => if y.cs.any inBlock then y.p.filterMap fun g => match g.form with
    | .m _ => some (128 + g.num / 32)
    | _ => none else []
  let due := (ops.filter fun o => o.perItem ctxs && o.items.any inBlock).flatMap fun o => o.dst.filterMap fun d => match d with
    | .x n => some n
    | _ => none
  ((names ++ preds ++ due).foldl (fun acc n => insertNat n acc) []).length

/-- The contexts of a cohort on a core. -/
def Cohort.ctxsIn (k : Cohort) (core : Nat) (ctxs : List Ctx) : List Ctx :=
  ctxs.filter fun y => y.core == core && y.launch == k.launch && y.cohort == k.num

/-- The operations of a cohort's items on a core. -/
def Cohort.opsIn (k : Cohort) (core : Nat) (ops : List Op) : List Op :=
  ops.filter fun o => o.core == core && o.launch == k.launch && o.cohort == k.num

/-- What the cohorts of a core hold there, by a measure of one. -/
def State.sumShares (s : State) (core : Nat) (f : Cohort → Share → Nat) : Nat :=
  (s.cohorts.flatMap fun k => (k.shares.filter fun h => h.core == core).map (f k)).sum

/-- Strand registers of a core in use beyond the reserved ones, were its contexts these (R159). -/
def State.overM (s : State) (core : Nat) (ctxs : List Ctx) : Nat :=
  s.sumShares core fun k h =>
    (h.blocks.map fun j => blockRegs (k.ctxsIn core ctxs) (k.opsIn core s.ops) j - h.maxM).sum

/-- Strand registers of a core that are not reserved (R158, R159). -/
def State.spareM (s : State) (core : Nat) : Nat := 2048 - ((s.shares core).map fun h => h.blocks.length * h.maxM).sum

/-- The span-file entries that a uniform value still to land will take: not where it will lie in strand registers (R156, R161). -/
def Op.coming (o : Op) (ctxs : List Ctx) : List (Nat × Nat × Nat) :=
  if !o.uniform then []
  else o.dst.filterMap fun d => match d with
    | .x n => if o.perItem ctxs then none else some (0, o.id, n)
    | .q n => some (0, o.id, 128 + n)
    | .p _ => none

/-- The span-file entries a context holds, newest first: those that uniform values still to land will take, and those of its U and A
item registers and q registers, but for registers that are to be overwritten (R156, R161). -/
def Ctx.entries (x : Ctx) (ops : List Op) : List (Nat × Nat × Nat) :=
  let mine := ops.filter fun o => o.serves x && !o.dst.isEmpty
  let stays (d : RegRef) : Bool := !(mine.any fun o => o.dst.contains d)
  let xs := x.x.filterMap fun g => match g.form with
    | .m _ => none
    | _ => if stays (.x g.num) then some (g.ent.1, g.ent.2, g.num) else none
  let qs := x.q.filterMap fun g => if stays (.q g.num) then some (g.ent.1, g.ent.2, 128 + g.num) else none
  (mine.flatMap fun o => o.coming [x]) ++ xs ++ qs

/-- Each of some entries once: those that contexts share count once (R156). -/
def distinct {α : Type} [BEq α] (l : List α) : List α := l.foldl (fun acc e => if acc.contains e then acc else e :: acc) []

/-- The contexts of a list whose entries are in the span file (R160). -/
def atHome (ctxs : List Ctx) : List Ctx := ctxs.filter fun y => y.spill == Spill.home

/-- The entries that contexts of a cohort hold beyond MAXS (R159). -/
def Share.excess (h : Share) (ctxs : List Ctx) (ops : List Op) : List (Nat × Nat × Nat) :=
  distinct ((atHome ctxs).flatMap fun y => (y.entries ops).take ((y.entries ops).length - h.maxS))

/-- Unreserved entries that a cohort has taken on a core: those beyond its contexts' MAXS (R159), and those within it for which its
reservation has no more room (R160). An entry that waits for a value is held whatever has become of the context (R161). -/
def Share.taken (h : Share) (ctxs : List Ctx) (ops : List Op) : Nat :=
  let more := h.excess ctxs ops
  let all := distinct ((ops.flatMap fun o => o.coming ctxs) ++ (atHome ctxs).flatMap fun y => y.entries ops)
  more.length + ((all.filter fun e => !more.contains e).length - if h.blocks.isEmpty then 0 else (h.blocks.length + 1) * h.maxS)

/-- Entries in use beyond MAXS of their contexts, were the core's contexts these (R159). -/
def State.moreS (s : State) (core : Nat) (ctxs : List Ctx) : Nat :=
  s.sumShares core fun k h => (h.excess (k.ctxsIn core ctxs) s.ops).length

/-- Unreserved entries of a core in use, were its contexts these (R159, R160). -/
def State.overS (s : State) (core : Nat) (ctxs : List Ctx) : Nat :=
  s.sumShares core fun k h => h.taken (k.ctxsIn core ctxs) (k.opsIn core s.ops)

/-- Span-file entries of a core that are not reserved (R158, R159). -/
def State.spareS (s : State) (core : Nat) : Nat :=
  2048 - ((s.shares core).map fun h => if h.blocks.isEmpty then 0 else (h.blocks.length + 1) * h.maxS).sum

/-- A core's storage may go from one state to another, if need be by spilling: the strand registers and the entries beyond MAXS that
it needs beyond the reservations are free, or are no more than before (R159). -/
def State.fitsBut (s t : State) (core : Nat) : Bool :=
  let m := t.overM core t.ctxs
  (decide (m ≤ s.spareM core) || decide (m ≤ s.overM core s.ctxs))
    && (decide (t.overS core t.ctxs ≤ s.spareS core) || decide (t.moreS core t.ctxs ≤ s.moreS core s.ctxs))

/-- A core's storage may go from one state to another with no entry spilled (R159, R160). -/
def State.fitsFrom (s t : State) (core : Nat) : Bool :=
  let e := t.overS core t.ctxs
  s.fitsBut t core && (decide (e ≤ s.spareS core) || decide (e ≤ s.overS core s.ctxs))

/-- The context may become `y` (R159). -/
def State.fits (s : State) (y : Ctx) : Bool := s.fitsFrom (s.setCtx y) y.core

/-- Spill the least recently issued other contexts of a context's cohort on its core until its entries fit (R160). -/
def State.makeRoom (s : State) (x : Ctx) : Nat → State
  | 0 => s
  | fuel + 1 =>
    if s.overS x.core s.ctxs ≤ s.spareS x.core then s
    else
      match argMin Ctx.issued (s.ctxs.filter fun y => y.id != x.id && y.core == x.core && y.launch == x.launch && y.cohort == x.cohort
          && y.spill == Spill.home && !(y.entries s.ops).isEmpty) with
      | none => s
      | some y => (s.modCtx y.id fun z => { z with spill := .leaving }).makeRoom x fuel

/-- A context that issues has its entries in the span file (R160). -/
def State.unspill (s : State) (id : Nat) : State :=
  let s := s.modCtx id fun x => { x with issued := s.clock }
  match s.ctx? id with
  | none => s
  | some x => if x.spill == Spill.home then s else (s.modCtx id fun y => { y with spill := .home }).makeRoom x s.ctxs.length

/-- What does not fit its storage faults for the items that were to be written, those of a span having been cut out (R159). -/
def State.noRoom (s : State) (i : Issue) : State := s.faultSome i.ctx.id 0x05 (i.aff.map Item.c) i.pc 0 false

/-! ### Issue -/

/-- What an instruction does at its issue: wait at the instruction; be performed by strands instead (R184); be
performed, after which the group goes on; or leave the PCs as it set them. -/
inductive Act where
  | stall
  | cut
  | advance (s : State)
  | set (s : State)

/-- A context becomes `y` by what an instruction writes (R159, R160). -/
def State.install (s : State) (i : Issue) (y : Ctx) : Act :=
  if s.fits y then .advance (s.setCtx y)
  else if s.fitsBut (s.setCtx y) y.core then .advance ((s.setCtx y).makeRoom y s.ctxs.length)
  else .set (s.noRoom i)

/-- Every item of the context is affected (R153). -/
def Issue.full (i : Issue) : Bool := i.aff.length == i.ctx.items.length

/-- The context while items of an issue wait for a status: the predicate that will take it has a slot for each of them, unless all of the
context take it together (R153, R159). -/
def Ctx.reserveP (x : Ctx) (i : Issue) (pd : BitVec 8) (together : Bool) : Ctx :=
  if 96 ≤ pd.toNat || x.kind == CtxKind.span || (together && i.full) then x
  else x.setPSlots i.launch.rcd pd.toNat (i.aff.map fun t => (t.c, (x.pForm pd.toNat).at i.launch.rcd x.cohort t.c))

/-- What an issue leaves behind, `u`, has room for what is to land, the registers it has read for the last time being free (R159 to
R161). -/
def State.roomFor (s u : State) (i : Issue) : Act :=
  if s.fitsFrom u i.ctx.core then .advance u
  else if s.fitsBut u i.ctx.core then .advance (u.makeRoom i.ctx s.ctxs.length)
  else .set (s.noRoom i)

/-- The act has used a free value. -/
def Act.drawn : Act → Act
  | .advance s => .advance s.draw
  | .set s => .set s.draw
  | a => a

/-- What the issue needs to know of an instruction: its length in words, whether it is long-latency (R48), whether it
can be repeated (R412), its guard, its last-read marks, the registers it reads and writes (R50), and whether it is
performed once for its context and never materialises it (chapters 05, 10, 14, R426). -/
structure Meta where
  words : Nat
  long : Bool := false
  once : Bool := false
  guard : BitVec 7 := 127
  neg : Bool := false
  marks : List RegRef := []
  reads : List RegRef := []
  writes : List RegRef := []
  usesK : Bool := false
  whole : Bool := false

/-- The flag the instruction marks (R48). -/
def Place.flag (p : Place) : Option Nat :=
  let f := if p.long = 0 then p.setA else p.setB
  if f.toNat < 12 then some f.toNat else none

/-- The place of the next instruction (R46, R48). -/
def Place.after (p : Place) (long : Bool) : Place :=
  { p with count := p.count + 1, long := if long then p.long + 1 else p.long }

/-- Commit the staged copies of a context (R415). -/
def State.commitStaged (s : State) (ctx : Nat) : State :=
  match s.ctx? ctx with
  | none => s
  | some x =>
    if x.staged = 0 then s
    else (s.count (sliceOf x.core) 0xEA0 x.staged).modCtx ctx fun y => { y with staged := 0 }

/-- After an instruction has been performed by the group: its items stand at the next instruction; one that cannot be
repeated makes that a region entry for the items it affected (R411, R412). -/
def State.advance (s : State) (i : Issue) (m : Meta) : State :=
  let next := i.pc + .ofNat 64 (4 * m.words)
  let grp := i.grp.map Item.c
  let aff := i.aff.map Item.c
  s.modCtx i.ctx.id fun x =>
    let x := { x with yielded := none }
    x.mapItems grp.contains fun t =>
      let place := t.place.after m.long
      let t := { t with pc := next, place := place, since := s.clock,
                        wait := match t.wait with
                          | .flags _ => .none
                          | .quiet => .none
                          | .region => .none
                          | w => w }
      if m.once && aff.contains t.c then
        { t with entry := { pc := next, region := t.region, fflags := x.fflags, place := place } }
      else t

/-- The items the guard affects (R40); none when it is E or M in a span, which must materialise first (R152), unless the
instruction never makes it. -/
def Issue.guarded (i : Issue) (g : BitVec 7) (neg whole : Bool) : Option (List Item) :=
  match i.ctx.pForm g.toNat with
  | .u v => some (if xor v neg then i.grp else [])
  | f =>
    if i.ctx.kind == CtxKind.span && !whole then none
    else some (i.grp.filter fun t => xor (f.at i.launch.rcd i.ctx.cohort t.c) neg)

/-- Perform an act: a cut leaves the instruction to the strands (R184). -/
def Act.run (a : Act) (s : State) (i : Issue) (m : Meta) : State :=
  match a with
  | .stall => s
  | .cut => s.materialise i.ctx i.launch.rcd
  | .advance t => t.advance i m
  | .set t => t

/-- What the issue finds before an instruction is performed. -/
inductive Gate where
  | noContext
  | overflow (i : Issue)
  | cut (i : Issue)
  | idle (s : State) (i : Issue)
  | stall
  | go (s : State) (i : Issue)

/-- The place in its clause of the group that issues. -/
def Issue.place (i : Issue) : Place :=
  match i.grp with
  | t :: _ => t.place
  | [] => { count := 0, long := 0, setA := 15, setB := 15 }

/-- The group stands at its region entry (R411). -/
def Issue.atEntry (i : Issue) : Bool :=
  match i.grp with
  | t :: _ => t.entry.pc == i.pc
  | [] => false

/-- The operation would be the 64th under its flag (R49). -/
def State.flagFull (s : State) (i : Issue) (m : Meta) : Bool :=
  m.long && match i.place.flag with
    | some f => decide (63 ≤ s.underFlag i.ctx f)
    | none => false

/-- The issue of an instruction (R40, R46 to R50, R152, R157, R184, R415): the seventeenth instruction of a clause and
its third long-latency one are too many; a guard in form E or M in a span cuts it; a guard that affects no item leaves
the instruction idle; registers with writes outstanding, a constant image still loading and a 64th operation under a
flag make the context wait at the instruction. -/
def State.gate (s : State) (m : Meta) : Gate :=
  match s.issue? with
  | none => .noContext
  | some i =>
    if 16 ≤ i.place.count || (m.long && decide (2 ≤ i.place.long)) then .overflow i
    else
      match i.guarded m.guard m.neg m.whole with
      | none => .cut i
      | some aff =>
        let s := if i.atEntry then s.commitStaged i.ctx.id else s
        let i := { i with aff := aff, ctx := (s.ctx? i.ctx.id).getD i.ctx }
        if aff.isEmpty then .idle s i
        else if s.flagFull i m || (m.usesK && !s.kReady i.ctx)
            || s.outstanding i.ctx (i.grp.map Item.c) (m.reads ++ m.writes) then .stall
        else .go s i

/-- Issue an instruction: ClauseOverflow for one too many, a cut where the guard asks for it, no effect but the kills of
its marks when no item is affected, and otherwise its body. -/
def State.issueInstr (s : State) (m : Meta) (body : State → Issue → Act) : Host.Outcome State Fault Refusal :=
  match s.gate m with
  | .noContext => .fault .noContext
  | .overflow i => .next (s.faultCtx i.ctx.id 0x0E i.pc 0 false)
  | .cut i => .next (s.materialise i.ctx i.launch.rcd)
  | .idle t i => .next ((t.modCtx i.ctx.id fun x => x.kill (i.grp.map Item.c) m.marks).advance i m)
  | .stall => .next s
  | .go t i => .next ((body t i).run t i m)

/-! ### Results -/

/-- A result to write: where, its U or A form when R152 gives it one, and each item's value. -/
structure Out where
  dst : Dst
  form : Option XForm := none
  val : Item → Word

/-- A predicate result. -/
structure OutP where
  dst : Dst
  form : Option PForm := none
  val : Item → Bool

/-- The affected item with the lowest index (R154). -/
def Issue.first (i : Issue) : Option Item := argMin (fun t => t.c) i.aff

/-- What an instruction that is performed once for its context reads of an operand: its lowest affected item's value (R154). -/
def Issue.uni (i : Issue) (f : XForm) : Word :=
  match i.first with
  | some t => f.at i.launch.rcd i.ctx.cohort t.c
  | none => 0

/-- The result must take form M (R152, R153). -/
def Out.isM (o : Out) (i : Issue) : Bool :=
  match o.dst with
  | .x _ => o.form.isNone || !i.full
  | _ => false

/-- Write one result. -/
def Out.write (o : Out) (i : Issue) (x : Ctx) : Ctx :=
  match o.dst with
  | .x n =>
    match o.form with
    | some f => if i.full then x.setX n f else x.setSlots i.launch.rcd n (i.aff.map fun t => (t.c, o.val t))
    | none => x.setSlots i.launch.rcd n (i.aff.map fun t => (t.c, o.val t))
  | .q n =>
    match i.first with
    | some t => x.setQ n (o.val t)
    | none => x
  | _ => x

/-- A span that issues an instruction with an x destination which does not serve every active item materialises first (R153). -/
def Issue.parts (i : Issue) (d : Dst) : Bool :=
  i.ctx.kind == CtxKind.span && !i.full && match d with
    | .x _ => true
    | _ => false

/-- Write results after the marks have killed what they mark (R157); what does not fit its storage faults (R159). -/
def State.writeOuts (s : State) (i : Issue) (m : Meta) (outs : List Out) : Act :=
  if i.ctx.kind == CtxKind.span && outs.any (fun o => o.isM i) then .cut
  else
    let x := outs.foldl (fun x o => o.write i x) (i.ctx.kill (i.grp.map Item.c) m.marks)
    s.install i x

/-- The E predicates a span would hold beside one more; four is the limit (R151). -/
def Ctx.manyE (x : Ctx) (n : Nat) : Bool :=
  decide (4 ≤ (x.p.filter fun g => g.num != n && match g.form with
    | .e _ => true
    | _ => false).length)

/-- A predicate result written in form U or E, where R151 to R153 give it one. -/
def OutP.whole (o : OutP) (i : Issue) (x : Ctx) : Option Ctx :=
  match o.dst, o.form with
  | .p n, some (.u v) => if i.full then some (x.setP n (.u v)) else none
  | .p n, some (.e p) => if i.full && i.ctx.kind == CtxKind.span && !x.manyE n then some (x.setP n (.e p)) else none
  | .p _, _ => none
  | _, _ => some x

/-- A predicate result written in form M. -/
def OutP.slots (o : OutP) (i : Issue) (x : Ctx) : Ctx :=
  match o.dst with
  | .p n => x.setPSlots i.launch.rcd n (i.aff.map fun t => (t.c, o.val t))
  | _ => x

/-- Predicate results written in the forms R151 to R153 give them; none when a span must materialise first. -/
def writePreds (i : Issue) : List OutP → Ctx → Option Ctx
  | [], x => some x
  | o :: os, x =>
    match o.whole i x with
    | some y => writePreds i os y
    | none => if i.ctx.kind == CtxKind.span then none else writePreds i os (o.slots i x)

/-- Write predicate results after the marks have killed what they mark (R151 to R153, R157, R159). -/
def State.writePredList (s : State) (i : Issue) (m : Meta) (os : List OutP) : Act :=
  match writePreds i os (i.ctx.kill (i.grp.map Item.c) m.marks) with
  | none => .cut
  | some y => s.install i y

/-- Write one predicate result. -/
def State.writePred (s : State) (i : Issue) (m : Meta) (o : OutP) : Act := s.writePredList i m [o]

/-- No register is written, but the marks kill. -/
def State.writeNothing (s : State) (i : Issue) (m : Meta) : Act :=
  .advance (s.modCtx i.ctx.id fun x => x.kill (i.grp.map Item.c) m.marks)

end Sys2Proof.Machine

namespace Sys2Proof

open Sys2Proof.Machine

/-! ### Guards, marks and registers of an extended instruction -/

/-- The source operand standing at a code of an extended instruction. -/
def Ext.src (e : Ext) (code : BitVec 8) : Src := { code := code, imm := e.imm, lit := e.lit.getD 0 }

/-- The issue data of an extended instruction whose A, B and C hold registers of na, nb and nc words, and D of nd. -/
def Ext.info (e : Ext) (nd na nb nc : Nat) : Meta :=
  { words := if e.lit.isSome then 5 else 3,
    guard := e.guard, neg := e.neg,
    marks := (if e.alr then codeRegs e.a na else []) ++ (if e.blr then codeRegs e.b nb else [])
      ++ (if e.clr then codeRegs e.c nc else []),
    reads := codeRegs e.a na ++ codeRegs e.b nb ++ codeRegs e.c nc,
    writes := codeRegs e.d nd,
    usesK := (e.a == 0xE0 && na != 0) || (e.b == 0xE0 && nb != 0) || (e.c == 0xE0 && nc != 0) }

/-- The issue data of a general base word, `d` being read as well when `rd`. -/
def BaseOps.info (f : BaseOps) (rd : Bool) : Meta :=
  { words := 1,
    marks := (if f.alr then [.x f.a.toNat] else []) ++ (if f.blr then [.x f.b.toNat] else []),
    reads := [.x f.a.toNat] ++ (if f.bk then [] else [.x f.b.toNat]) ++ (if rd then [.x f.d.toNat] else []),
    writes := [.x f.d.toNat], usesK := f.bk }

/-- The issue data of a base word with a literal. -/
def BaseLit.info (f : BaseLit) (rd : Bool) : Meta :=
  { words := 2, marks := if f.alr then [.x f.a.toNat] else [],
    reads := [.x f.a.toNat] ++ (if rd then [.x f.d.toNat] else []), writes := [.x f.d.toNat] }

/-- The issue data of a single-source base word. -/
def Base1.info (f : Base1) : Meta :=
  { words := 1, marks := if f.blr then [.x f.b.toNat] else [], reads := if f.bk then [] else [.x f.b.toNat],
    writes := [.x f.d.toNat], usesK := f.bk }

/-- The issue data of a single-source base word with a literal. -/
def Base1Lit.info (f : Base1Lit) : Meta := { words := 2, writes := [.x f.d.toNat] }

/-- The issue data of an F20 word. -/
def F20Word.info (f : F20Word) : Meta := { words := 1, reads := [.x f.d.toNat], writes := [.x f.d.toNat] }

/-- The B operand of a base word (R29). -/
def BaseOps.srcB (f : BaseOps) : Src := if f.bk then kSrc f.b.toNat else regSrc false f.b.toNat
/-- The source of a single-source base word (R30). -/
def Base1.src (f : Base1) : Src := if f.bk then kSrc f.b.toNat else regSrc false f.b.toNat

end Sys2Proof
end

