-- ==== Sys2Proof/Machine/Flags.lean ====
section
/-! DEFINITION. Number formats (08), rounding, and every computation that raises floating-point flags (09): the
results and flags of one element. -/

namespace Sys2Proof.Machine

/-- Floating-point flags: NV, DZ, OF, UF, NX in bits 4 to 0 (R236). -/
abbrev FFlags := BitVec 5

def flagNV : FFlags := 16
def flagDZ : FFlags := 8
def flagOF : FFlags := 4
def flagUF : FFlags := 2
def flagNX : FFlags := 1

/-- A flag when a condition holds. -/
def flagIf (b : Bool) (f : FFlags) : FFlags := if b then f else 0

/-- Rounding modes, coded as RM (R261). -/
inductive RMode where
  | rn | rz | ru | rd
  deriving DecidableEq, Repr

def RMode.ofBits : Nat → RMode
  | 0 => .rn
  | 1 => .rz
  | 2 => .ru
  | _ => .rd

/-- A binary format (R214, R216): fraction width, bias, total bits, the largest finite code, the infinity's code if it
has one, and the canonical NaN's. -/
structure Fmt where
  w : Nat
  bias : Nat
  size : Nat
  top : Nat
  inf : Option Nat
  canon : Nat
  deriving DecidableEq, Repr

def fp32 : Fmt := { w := 23, bias := 127, size := 32, top := 0x7F7FFFFF, inf := some 0x7F800000, canon := 0x7FC00000 }
def bf16 : Fmt := { w := 7, bias := 127, size := 16, top := 0x7F7F, inf := some 0x7F80, canon := 0x7FC0 }
def fp16 : Fmt := { w := 10, bias := 15, size := 16, top := 0x7BFF, inf := some 0x7C00, canon := 0x7E00 }
def e5m2 : Fmt := { w := 2, bias := 15, size := 8, top := 0x7B, inf := some 0x7C, canon := 0x7F }
def e4m3 : Fmt := { w := 3, bias := 7, size := 8, top := 0x7E, inf := none, canon := 0x7F }
def e2m1 : Fmt := { w := 1, bias := 1, size := 4, top := 7, inf := none, canon := 0 }
/-- The 13-bit significand of an M8 operand inside the matrix engine (R225). -/
def m8Engine : Fmt := { w := 12, bias := 127, size := 21, top := 0xFEFFF, inf := none, canon := 0 }

/-- The sign bit's weight. -/
def Fmt.signBit (f : Fmt) : Nat := 2 ^ (f.size - 1)

/-- A value: a NaN (signalling or quiet, with its code), an infinity, or ±m·2^e, m = 0 being a signed zero. -/
inductive FVal where
  | nan (signal : Bool) (code : Nat)
  | inf (neg : Bool)
  | fin (neg : Bool) (m : Nat) (e : Int)
  deriving DecidableEq, Repr

/-- Read a code of a format (R214, R216). -/
def Fmt.value (f : Fmt) (code : Nat) : FVal :=
  let neg := decide (f.signBit ≤ code)
  let mag := code % f.signBit
  if f.inf = some mag then .inf neg
  else if f.top < mag then .nan (f.inf.isSome && mag % 2 ^ f.w < 2 ^ (f.w - 1)) code
  else
    let ex := mag / 2 ^ f.w
    let fr := mag % 2 ^ f.w
    if ex = 0 then .fin neg fr (1 - f.bias - f.w) else .fin neg (2 ^ f.w + fr) ((ex : Int) - f.bias - f.w)

/-- The quiet form of a NaN code (R241). -/
def Fmt.quiet (f : Fmt) (code : Nat) : Nat := code ||| 2 ^ (f.w - 1)

/-- The code with a sign. -/
def Fmt.signed (f : Fmt) (neg : Bool) (mag : Nat) : Nat := if neg then f.signBit + mag else mag

/-- n·2^e over d as a fraction of naturals. -/
def scaled (n d : Nat) (e : Int) : Nat × Nat :=
  if 0 ≤ e then (n * 2 ^ e.toNat, d) else (n, d * 2 ^ (-e).toNat)

/-- The exponent of n/d, the greatest e with 2^e ≤ n/d, for positive n and d. -/
def ratioLog (n d : Nat) : Int :=
  let g : Int := (Nat.log2 n : Int) - Nat.log2 d
  let (a, b) := scaled n d (-g)
  if a < b then g - 1 else g

/-- The rounding of a positive fraction to a whole number (R217, step 2). -/
def roundWhole (mode : RMode) (neg : Bool) (n d : Nat) : Nat :=
  let q := n / d
  let r := n % d
  let up := match mode with
    | .rn => decide (d < 2 * r) || (2 * r == d && q % 2 == 1)
    | .rz => false
    | .ru => r != 0 && !neg
    | .rd => r != 0 && neg
  if up then q + 1 else q

/-- What an overflow gives (R218). -/
def Fmt.overflow (f : Fmt) (mode : RMode) (sat : Bool) (neg : Bool) (infinite : Bool) : Nat :=
  let clamp := sat || f.size == 4 || (!infinite && match mode with
    | .rn => false
    | .rz => true
    | .ru => neg
    | .rd => !neg)
  f.signed neg (if clamp then f.top else f.inf.getD f.canon)

/-- RoundToFormat of ±(n/d)·2^e, n and d positive (R217 to R219, R221). -/
def Fmt.round (f : Fmt) (mode : RMode) (sat ftz : Bool) (neg : Bool) (n d : Nat) (e : Int) : Nat × FFlags :=
  let emin : Int := 1 - f.bias
  let lg := ratioLog n d + e
  let q : Int := max lg emin - f.w
  let (a, b) := scaled n d (e - q)
  let k := roundWhole mode neg a b
  let exact := a % b == 0
  let code := ((q + f.w + f.bias - 1).toNat) * 2 ^ f.w + k
  let tiny := decide (lg < emin) &&
    (let (a', b') := scaled n d (e - (lg - f.w))
     !(lg == emin - 1 && roundWhole mode neg a' b' == 2 ^ (f.w + 1)))
  if f.top < code then (f.overflow mode sat neg false, flagOF ||| flagNX)
  else if tiny && ftz then (f.signed neg 0, flagUF ||| flagNX)
  else (f.signed neg code, if exact then 0 else if tiny then flagUF ||| flagNX else flagNX)

/-- RoundToFormat of an exact sum or product, a zero keeping the sign given (R243). -/
def Fmt.roundInt (f : Fmt) (mode : RMode) (sat ftz : Bool) (zeroNeg : Bool) (m : Int) (e : Int) : Nat × FFlags :=
  if m = 0 then (f.signed zeroNeg 0, 0) else f.round mode sat ftz (decide (m < 0)) m.natAbs 1 e

/-- An infinity under R218, with the flag of R221: NV where the format has none, and NX where a saturating one clamps it, which is a
result that differs from the value. -/
def Fmt.infinite (f : Fmt) (sat : Bool) (neg : Bool) : Nat × FFlags :=
  (f.overflow .rn sat neg true, if f.inf.isNone then flagNV else flagIf sat flagNX)

/-- A NaN source. -/
def FVal.isNan : FVal → Bool
  | .nan _ _ => true
  | _ => false
def FVal.signals : FVal → Bool
  | .nan s _ => s
  | _ => false
/-- A subnormal of the format reads as a zero of its sign under FTZ (R242). -/
def Fmt.flush (f : Fmt) (ftz : Bool) (code : Nat) : Nat :=
  let mag := code % f.signBit
  if ftz && decide (mag < 2 ^ f.w) then code - mag else code

/-- The first NaN source, quieted, with NV when any source signals (R241). -/
def nanResult (f : Fmt) (vs : List FVal) : Option (Nat × FFlags) :=
  match vs.find? FVal.isNan with
  | some (.nan _ code) => some (f.quiet code, flagIf (vs.any FVal.signals) flagNV)
  | _ => none

/-- Signed integer of a finite value. -/
def signedInt (neg : Bool) (m : Nat) : Int := if neg then -(m : Int) else m

/-- Sum of ±m1·2^e1 and ±m2·2^e2, exact. -/
def addExact (a : Int) (ea : Int) (b : Int) (eb : Int) : Int × Int :=
  let e := min ea eb
  (a * 2 ^ (ea - e).toNat + b * 2 ^ (eb - e).toNat, e)

/-- Sum of two non-NaN values, rounded once (R243, R262). -/
def Fmt.sum (f : Fmt) (mode : RMode) (sat ftz : Bool) (x y : FVal) : Nat × FFlags :=
  match x, y with
  | .inf a, .inf b => if a = b then f.infinite sat a else (f.canon, flagNV)
  | .inf a, _ => f.infinite sat a
  | _, .inf b => f.infinite sat b
  | .fin a m ea, .fin b n eb =>
    let (v, e) := addExact (signedInt a m) ea (signedInt b n) eb
    let zeroNeg := if m = 0 ∧ n = 0 ∧ a = b then a else mode == .rd
    f.roundInt mode sat ftz zeroNeg v e
  | _, _ => (f.canon, 0)

/-- Product of two non-NaN values, exact; none for 0 × ∞ (R241). -/
def mulExact (x y : FVal) : Option FVal :=
  match x, y with
  | .inf a, .inf b => some (.inf (xor a b))
  | .inf a, .fin b n _ => if n = 0 then none else some (.inf (xor a b))
  | .fin a m _, .inf b => if m = 0 then none else some (.inf (xor a b))
  | .fin a m ea, .fin b n eb => some (.fin (xor a b) (m * n) (ea + eb))
  | v, _ => some v

/-- Round a value. -/
def Fmt.roundVal (f : Fmt) (mode : RMode) (sat ftz : Bool) (v : FVal) : Nat × FFlags :=
  match v with
  | .nan _ _ => (f.canon, 0)
  | .inf a => f.infinite sat a
  | .fin a m e => if m = 0 then (f.signed a 0, 0) else f.round mode sat ftz a m 1 e

/-- `fadd` and its kin on codes (R241, R262). -/
def Fmt.add (f : Fmt) (mode : RMode) (sat ftz : Bool) (a b : Nat) : Nat × FFlags :=
  let x := f.value (f.flush ftz a)
  let y := f.value (f.flush ftz b)
  (nanResult f [x, y]).getD (f.sum mode sat ftz x y)

/-- `fmul` on codes (R241, R262). -/
def Fmt.mul (f : Fmt) (mode : RMode) (sat ftz : Bool) (a b : Nat) : Nat × FFlags :=
  let x := f.value (f.flush ftz a)
  let y := f.value (f.flush ftz b)
  (nanResult f [x, y]).getD (match mulExact x y with
    | none => (f.canon, flagNV)
    | some v => f.roundVal mode sat ftz v)

/-- `ffma` on codes: one rounding; 0 × ∞ raises NV even beside a quiet NaN addend (R241, R262). -/
def Fmt.fma (f : Fmt) (mode : RMode) (sat ftz : Bool) (a b c : Nat) : Nat × FFlags :=
  let x := f.value (f.flush ftz a)
  let y := f.value (f.flush ftz b)
  let z := f.value (f.flush ftz c)
  let bad := !x.isNan && !y.isNan && (mulExact x y).isNone
  match nanResult f [x, y, z] with
  | some (code, fl) => (code, fl ||| flagIf bad flagNV)
  | none =>
    match mulExact x y with
    | none => (f.canon, flagNV)
    | some p => f.sum mode sat ftz p z

/-- Ordered comparison of two non-NaN values: less than, with −0 below +0 when `signedZero`. -/
def FVal.less (signedZero : Bool) (x y : FVal) : Bool :=
  match x, y with
  | .inf a, .inf b => a && !b
  | .inf a, _ => a
  | _, .inf b => !b
  | .fin a m ea, .fin b n eb =>
    let (v, _) := addExact (signedInt a m) ea (-(signedInt b n)) eb
    if v = 0 then signedZero && m == 0 && n == 0 && a && !b else decide (v < 0)
  | _, _ => false

/-- `fmin` and `fmax` on codes (R264): a lone NaN gives the other operand, two give the canonical NaN. -/
def Fmt.minMax (f : Fmt) (isMax ftz : Bool) (a b : Nat) : Nat × FFlags :=
  let a := f.flush ftz a
  let b := f.flush ftz b
  let x := f.value a
  let y := f.value b
  let fl := flagIf (x.signals || y.signals) flagNV
  if x.isNan && y.isNan then (f.canon, fl)
  else if x.isNan then (b, fl)
  else if y.isNan then (a, fl)
  else
    let lt := x.less true y
    (if isMax then (if lt then b else a) else (if y.less true x then b else a), fl)

/-- `fcmp` (R266): COND in the order of R265. -/
def fcmpHolds (cond : Nat) (ftz : Bool) (a b : Nat) : Bool × FFlags :=
  let x := fp32.value (fp32.flush ftz a)
  let y := fp32.value (fp32.flush ftz b)
  let un := x.isNan || y.isNan
  let fl := flagIf (x.signals || y.signals) flagNV
  let lt := x.less false y
  let gt := y.less false x
  let rel (k : Nat) : Bool := match k with
    | 0 => !lt && !gt
    | 1 => lt || gt
    | 2 => lt
    | 3 => !gt
    | 4 => gt
    | _ => !lt
  (if cond < 6 then !un && rel cond
   else if cond = 6 then !un
   else if cond = 7 then un
   else un || rel (cond - 8), fl)

/-- The magnitude of the whole number RM selects from ±m·2^e, and whether it is exact (R268, R277). -/
def toWhole (mode : RMode) (neg : Bool) (m : Nat) (e : Int) : Nat × Bool :=
  let (a, b) := scaled m 1 e
  (roundWhole mode neg a b, a % b == 0)

/-- `frnd` (R268). -/
def frndVal (mode : RMode) (ftz : Bool) (a : Nat) : Nat × FFlags :=
  let a := fp32.flush ftz a
  match fp32.value a with
  | .nan s code => (fp32.quiet code, flagIf s flagNV)
  | .inf _ => (a, 0)
  | .fin neg m e =>
    if m = 0 then (a, 0)
    else
      let (k, exact) := toWhole mode neg m e
      let code := if k = 0 then fp32.signed neg 0 else (fp32.round .rn false false neg k 1 0).1
      (code, flagIf (!exact) flagNX)

/-- `ftoi` (R277): the result in two's complement of 2^bits. -/
def ftoiVal (mode : RMode) (uns ftz : Bool) (bits : Nat) (a : Nat) : Nat × FFlags :=
  let lo : Int := if uns then 0 else -(2 ^ (bits - 1) : Nat)
  let hi : Int := if uns then (2 ^ bits : Nat) - 1 else (2 ^ (bits - 1) : Nat) - 1
  let wrap (v : Int) : Nat := (v % (2 ^ bits : Nat)).toNat
  match fp32.value (fp32.flush ftz a) with
  | .nan _ _ => (0, flagNV)
  | .inf neg => (wrap (if neg then lo else hi), flagNV)
  | .fin neg m e =>
    let (k, exact) := toWhole mode neg m e
    let v := signedInt neg k
    if v < lo then (wrap lo, flagNV)
    else if hi < v then (wrap hi, flagNV)
    else (wrap v, flagIf (!exact) flagNX)

/-- `itof` (R277). -/
def itofVal (mode : RMode) (v : Int) : Nat × FFlags := fp32.roundInt mode false false false v 0

/-! ### Conversions of narrow formats (R220 to R224) -/

/-- 64·10^6 times the magnitude of an M8 code's value, from its seven low bits (R222). -/
def m8Scaled (m : Nat) : Nat :=
  if m = 0 then 0
  else
    let z := 6 - Nat.log2 m
    let k := 6 - z
    10 ^ (6 - z) * (64 + 9 * (m - 2 ^ k) * 2 ^ z)

/-- The M8 magnitude nearest to n/d, ties to the even code (R223). -/
def m8Nearest (n d : Nat) : Nat :=
  let dist (c : Nat) : Nat :=
    let v := m8Scaled c * d
    let t := n * 64000000
    if v ≤ t then t - v else v - t
  (List.range 127).foldl (fun best k =>
    let c := k + 1
    if dist c < dist best || (dist c == dist best && c % 2 == 0) then c else best) 0

/-- Conversion to M8 of ±m·2^e (R223, R224). -/
def toM8 (sat : Bool) (v : FVal) : Nat × FFlags :=
  match v with
  | .nan s _ => (0x80, flagIf s flagNV)
  | .inf neg => (if sat then (if neg then 0xFF else 0x7F) else 0x80, flagNV)
  | .fin neg m e =>
    if m = 0 then (0, 0)
    else
      let (n, d) := scaled m 1 e
      if m8Scaled 127 * d < n * 64000000 then
        (if sat then (if neg then 0xFF else 0x7F) else 0x80, flagOF ||| flagNX)
      else
        let c := m8Nearest n d
        let exact := m8Scaled c * d == n * 64000000
        let tiny := decide (n * 1000000 < d)
        (if c = 0 then 0 else if neg then 0x80 + c else c,
          if exact then 0 else if tiny then flagUF ||| flagNX else flagNX)

/-- Conversion of a NaN with sign and fraction from one format to another (R220). -/
def nanConvert (src dst : Fmt) (code : Nat) : Nat :=
  let neg := decide (src.signBit ≤ code)
  let fr := code % 2 ^ src.w
  if dst.size ≤ 4 then 0
  else if dst.size = 8 then dst.signed neg 0x7F
  else
    let fr' := if src.w ≤ dst.w then fr * 2 ^ (dst.w - src.w) else fr / 2 ^ (src.w - dst.w)
    dst.quiet (dst.signed neg (dst.inf.getD 0 + fr'))

/-- RoundToFormat of a value read from a code of another format, NaNs under R220 and flags under R221 (R279, R281). -/
def convert (src dst : Fmt) (mode : RMode) (sat ftz : Bool) (code : Nat) : Nat × FFlags :=
  match src.value code with
  | .nan s c => (nanConvert src dst c, flagIf (s || dst.size == 4) flagNV)
  | v => dst.roundVal mode sat ftz v

/-- Formats of the conversion entries: 0 FP32, 1 FP16, 2 BF16 (R278). -/
def ftofFmt : Nat → Fmt
  | 0 => fp32
  | 1 => fp16
  | _ => bf16

/-- Convert an FP32 code to a narrow element: 0 E4M3, 1 E5M2, 2 M8, 3 E2M1 (R280, R281). -/
def toNarrow (fmt : Nat) (mode : RMode) (sat : Bool) (code : Nat) : Nat × FFlags :=
  match fmt with
  | 0 => convert fp32 e4m3 mode sat false code
  | 1 => convert fp32 e5m2 mode sat false code
  | 2 => toM8 sat (fp32.value code)
  | _ => convert fp32 e2m1 mode true false code

/-- `funpk` of an element: 0 E4M3, 1 E5M2, 2 M8, 3 E2M1, 4 FP16, 5 BF16 (R283). -/
def funpkVal (fmt : Nat) (code : Nat) : Nat × FFlags :=
  match fmt with
  | 0 => ((convert e4m3 fp32 .rn false false code).1, 0)
  | 1 => ((convert e5m2 fp32 .rn false false code).1, flagIf (code == 0x7D || code == 0xFD) flagNV)
  | 2 =>
    if code = 0x80 then (fp32.canon, 0)
    else if code = 0 then (0, 0)
    else fp32.round .rn false false (decide (128 ≤ code)) (m8Scaled (code % 128)) 64000000 0
  | 3 => ((convert e2m1 fp32 .rn false false code).1, 0)
  | 4 => ((convert fp16 fp32 .rn false false code).1, 0)
  | _ => ((convert bf16 fp32 .rn false false code).1, 0)

/-! ### Reciprocals, roots and transcendentals (R272, R273) -/

/-- The whole square root, from bit k down. -/
def isqrtFrom (n : Nat) : Nat → Nat → Nat
  | 0, r => if (r + 1) * (r + 1) ≤ n then r + 1 else r
  | k + 1, r =>
    let t := r + 2 ^ (k + 1)
    isqrtFrom n k (if t * t ≤ n then t else r)

/-- The whole square root. -/
def isqrt (n : Nat) : Nat := isqrtFrom n (Nat.log2 n / 2 + 1) 0

/-- A value known to lie strictly between r and r + 1 units of 2^e, or at r when exact, as a fraction of twice the
units: enough for any rounding of fewer bits. -/
def sticky (r : Nat) (exact : Bool) : Nat := 2 * r + (if exact then 0 else 1)

/-- √(m·2^e) as a sticky whole number and its exponent. -/
def sqrtSticky (m : Nat) (e : Int) : Nat × Int :=
  let (m, e) := if e % 2 = 0 then (m, e) else (2 * m, e - 1)
  let n := m * 2 ^ 64
  let r := isqrt n
  (sticky r (r * r == n), e / 2 - 32 - 1)

/-- 1/√(m·2^e) as a sticky whole number and its exponent. -/
def rsqrtSticky (m : Nat) (e : Int) : Nat × Int :=
  let (m, e) := if e % 2 = 0 then (m, e) else (2 * m, e - 1)
  let n := 2 ^ 128 / m
  let r := isqrt n
  (sticky r (r * r * m == 2 ^ 128), -(e / 2) - 64 - 1)

/-- 1/a, correctly rounded (R272, R273). -/
def frcpVal (mode : RMode) (ftz : Bool) (a : Nat) : Nat × FFlags :=
  match fp32.value (fp32.flush ftz a) with
  | .nan s c => (fp32.quiet c, flagIf s flagNV)
  | .inf neg => (fp32.signed neg 0, 0)
  | .fin neg m e =>
    if m = 0 then (fp32.signed neg 0x7F800000, flagDZ) else fp32.round mode false ftz neg 1 m (-e)

/-- √a, correctly rounded (R272, R273). -/
def fsqrtVal (mode : RMode) (ftz : Bool) (a : Nat) : Nat × FFlags :=
  let a := fp32.flush ftz a
  match fp32.value a with
  | .nan s c => (fp32.quiet c, flagIf s flagNV)
  | .inf neg => if neg then (fp32.canon, flagNV) else (a, 0)
  | .fin neg m e =>
    if m = 0 then (a, 0)
    else if neg then (fp32.canon, flagNV)
    else
      let (r, x) := sqrtSticky m e
      fp32.round mode false ftz false r 1 x

/-- 1/√a: one of the two values that bracket the exact result (R272, R273). -/
def frsqVal (mod : BitVec 9) (ftz : Bool) (src : Word) (a : Nat) : Nat × FFlags :=
  match fp32.value (fp32.flush ftz a) with
  | .nan s c => (fp32.quiet c, flagIf s flagNV)
  | .inf neg => if neg then (fp32.canon, flagNV) else (0, 0)
  | .fin neg m e =>
    if m = 0 then (fp32.signed neg 0x7F800000, flagDZ)
    else if neg then (fp32.canon, flagNV)
    else
      let (r, x) := rsqrtSticky m e
      fp32.round (if Config.frsqUp src mod then .ru else .rz) false ftz false r 1 x

/-- The free value `v` when it lies within `slack` units of 2^e of every value from `lo` to `hi`, which enclose the exact result, and
otherwise `mid`, a value between them, rounded to nearest: a free value keeps the bound the spec sets (R272). -/
def bounded (v : Word) (mid lo hi : Int) (e : Int) (slack : Nat) : Nat :=
  let near := if mid = 0 then 0 else (fp32.round .rn false false (decide (mid < 0)) mid.natAbs 1 e).1
  match fp32.value v.toNat with
  | .fin a m x =>
    let within (b : Int) : Bool :=
      let (d, y) := addExact (signedInt a m) x (-b) e
      let (p, q) := scaled d.natAbs 1 (y - e)
      decide (p ≤ slack * q)
    if within lo && within hi then v.toNat else near
  | _ => near

/-- 2^128·2^(f/2^112) for a fraction f of 112 bits, from the bit k down: `root` is 2^128·2^(2^−j) for the next bit. It is at most
2^17 too low. -/
def exp2Frac (f : Nat) : Nat → Nat → Nat → Nat
  | 0, _, acc => acc
  | k + 1, root, acc =>
    let acc := if f.testBit k then acc * root / 2 ^ 128 else acc
    exp2Frac f k (isqrt (root * 2 ^ 128)) acc

/-- 2^a (R272, R273): exact for whole a from −149 to 127; +∞ with OF from 128 up; +0 at −150 and below; otherwise a
free value within 2 ulp, or within 2^−149 below −126. -/
def fex2Val (mod : BitVec 9) (ftz : Bool) (src : Word) (a : Nat) : Nat × FFlags :=
  match fp32.value (fp32.flush ftz a) with
  | .nan s c => (fp32.quiet c, flagIf s flagNV)
  | .inf neg => (if neg then 0 else 0x7F800000, 0)
  | .fin neg m e =>
    if m = 0 then (0x3F800000, 0)
    else
      let (n, d) := scaled m 1 e
      let whole := n / d
      let exact := n % d == 0
      if !neg && decide (128 ≤ whole) then (0x7F800000, flagOF ||| flagNX)
      else if neg && decide (150 ≤ whole) then (0, flagUF ||| flagNX)
      else if exact then fp32.round .rn false ftz false 1 1 (if neg then -(whole : Int) else whole)
      else
        let part := n * 2 ^ 112 / d % 2 ^ 112
        -- 2^a lies between 2^base and 2^(base + 1), and its fraction between f and f + 2 units of 2^−112
        let (base, f) := if neg then (-(whole : Int) - 1, 2 ^ 112 - 1 - part) else ((whole : Int), part)
        let k : Int := exp2Frac f 112 (isqrt (2 ^ 257)) (2 ^ 128)
        let hi : Int := min (k + 2 ^ 18) (2 ^ 129)
        if base < -126 then
          if ftz then (0, flagUF ||| flagNX)
          else (bounded (Config.fex2 src mod) k k hi (base - 128) (2 ^ (-21 - base).toNat), flagUF ||| flagNX)
        else (bounded (Config.fex2 src mod) k k hi (base - 128) (2 ^ 106), flagNX)

/-- k bits of the fraction of log2 of x/2^160, x in [2^160, 2^161), by repeated squaring, rounded down. -/
def log2Frac : Nat → Nat → Nat → Nat
  | 0, _, acc => acc
  | k + 1, x, acc =>
    let y := x * x / 2 ^ 160
    if 2 ^ 161 ≤ y then log2Frac k (y / 2) (2 * acc + 1) else log2Frac k y (2 * acc)

/-- log2 a (R272, R273): exact at powers of two; otherwise a free value within 2^−22 for a in [0.5, 2] and within
2 ulp elsewhere. -/
def flg2Val (mod : BitVec 9) (ftz : Bool) (src : Word) (a : Nat) : Nat × FFlags :=
  match fp32.value (fp32.flush ftz a) with
  | .nan s c => (fp32.quiet c, flagIf s flagNV)
  | .inf neg => if neg then (fp32.canon, flagNV) else (0x7F800000, 0)
  | .fin neg m e =>
    if m = 0 then (0xFF800000, flagDZ)
    else if neg then (fp32.canon, flagNV)
    else
      let l := Nat.log2 m
      let ex : Int := (l : Int) + e
      if m = 2 ^ l then itofVal .rn ex
      else
        let f := log2Frac 112 (m * 2 ^ 160 / 2 ^ l) 0
        -- the logarithm, in units of 2^−112, is between v and v + 2
        let v : Int := ex * 2 ^ 112 + f
        let slack := if ex == 0 || ex == -1 then 2 ^ 90 else 2 ^ ((ratioLog v.natAbs (2 ^ 112)).toNat + 90)
        (bounded (Config.flg2 src mod) v v (v + 2) (-112) slack, flagNX)

/-- π·2^512, rounded down. -/
def piScaled : Nat :=
  0x3243F6A8885A308D313198A2E03707344A4093822299F31D0082EFA98EC4E6C89452821E638D01377BE5466CF34E90C6CC0AC29B7C97C50DD3F84D5B5B5470917

/-- Terms of the sine (from r) or cosine (from 1) series of r = x/2^128, alternating: `t` the last term, `i` its
order. -/
def trigSeries (x : Nat) : Nat → Nat → Nat → Int → Int
  | 0, _, _, acc => acc
  | k + 1, t, i, acc =>
    let t' := t * x / 2 ^ 128 * x / 2 ^ 128 / ((i + 1) * (i + 2))
    trigSeries x k t' (i + 2) (if k % 2 = 0 then acc + t' else acc - t')

/-- 2^128 times the sine (or cosine) of n/d, reduced by an exact multiple of 2π (R272), to within 2^8. -/
def trig (cosine : Bool) (n d : Nat) : Int :=
  let x := n * 2 ^ 512 / d
  let half := piScaled / 2
  let quad := x / half
  let r := x % half / 2 ^ 384
  let sin := trigSeries r 22 r 1 r
  let cos := trigSeries r 22 (2 ^ 128) 0 (2 ^ 128)
  match (quad + if cosine then 1 else 0) % 4 with
  | 0 => sin
  | 1 => cos
  | 2 => -sin
  | _ => -cos

/-- sin a or cos a (R272, R273): a free value within 2^−21. -/
def trigVal (cosine : Bool) (free : Word → BitVec 9 → Word) (mod : BitVec 9) (ftz : Bool) (src : Word) (a : Nat) :
    Nat × FFlags :=
  let a := fp32.flush ftz a
  match fp32.value a with
  | .nan s c => (fp32.quiet c, flagIf s flagNV)
  | .inf _ => (fp32.canon, flagNV)
  | .fin neg m e =>
    if m = 0 then (if cosine then 0x3F800000 else a, 0)
    else
      let (n, d) := scaled m 1 e
      let v := trig cosine n d
      let v := if neg && !cosine then -v else v
      let tiny := !cosine && decide (a % 2 ^ 31 ≤ 0x00800000)
      if tiny && ftz then (fp32.signed neg 0, flagUF ||| flagNX)
      else (bounded (free src mod) v (v - 2 ^ 8) (v + 2 ^ 8) (-128) (2 ^ 107),
            if tiny then flagUF ||| flagNX else flagNX)

end Sys2Proof.Machine
end

