-- ==== Sys2Proof/Machine/Alu.lean ====
section
/-! DEFINITION. Integer and bitwise instructions (09 R247 to R260), extended and base, over one shared procedure that
computes a result and its form, raises flags, traps, and writes. -/

namespace Sys2Proof.Machine

/-! ### A computation (R234, R238, R240) -/

/-- What an instruction, or a slot of a pair, computes: the results, whether it is performed once for the context
(R234), and the flags an item's computation raises. -/
structure Calc where
  outs : List Out
  once : Bool
  fl : Item → FFlags

/-- A destination that is a q register makes the computation one of the whole context (R234). -/
def Dst.isQ : Dst → Bool
  | .q _ => true
  | _ => false

/-- An enabled exception of an item's computation (R240). -/
def Issue.enabled (i : Issue) (fl : FFlags) : Bool := fl &&& i.ctx.fctl != 0

/-- FPTrap (R240): a computation performed once faults the context; otherwise the items that trap are cut out and the
others perform the instruction. -/
def State.trapped (s : State) (i : Issue) (cs : List Calc) : Option Act :=
  let onceBad := cs.any fun c => c.once && match i.first with
    | some t => i.enabled (c.fl t)
    | none => false
  let bad := i.aff.filter fun t => cs.any fun c => !c.once && i.enabled (c.fl t)
  if onceBad then some (.set (s.faultCtx i.ctx.id 0x11 i.pc 0 false))
  else if bad.isEmpty then none
  else if i.ctx.kind == CtxKind.span then some .cut
  else some (.set (s.faultItems i.ctx.id 0x11 (bad.map Item.c) i.pc 0 false))

/-- The flags that the computations OR into s_fflags (R238). -/
def Issue.raised (i : Issue) (cs : List Calc) : FFlags :=
  cs.foldl (fun acc c => acc ||| (if c.once then (match i.first with
    | some t => c.fl t
    | none => 0) else i.aff.foldl (fun f t => f ||| c.fl t) 0)) 0

/-- Perform computations: trap, or write the results and raise the flags. -/
def State.perform (s : State) (i : Issue) (m : Meta) (cs : List Calc) : Act :=
  match s.trapped i cs with
  | some a => a
  | none =>
    match s.writeOuts i m (cs.flatMap Calc.outs) with
    | .advance t => .advance (t.modCtx i.ctx.id fun x => { x with fflags := x.fflags ||| i.raised cs })
    | a => a

/-- The same for a predicate result (R266). -/
def State.performP (s : State) (i : Issue) (m : Meta) (o : OutP) (fl : Item → FFlags) : Act :=
  let cs : List Calc := [{ outs := [], once := false, fl := fl }]
  match s.trapped i cs with
  | some a => a
  | none =>
    match s.writePred i m o with
    | .advance t => .advance (t.modCtx i.ctx.id fun x => { x with fflags := x.fflags ||| i.raised cs })
    | a => a

/-! ### Result forms (R152) -/

/-- The base and strides of a U or A form. -/
def XForm.parts : XForm → Option (Word × Word × Word × Word)
  | .u v => some (v, 0, 0, 0)
  | .a b sx sy sz => some (b, sx, sy, sz)
  | .m _ => none

/-- A form made component by component. -/
def XForm.zip (f : Word → Word → Word) (a b : XForm) : Option XForm :=
  match a.parts, b.parts with
  | some (p, px, py, pz), some (q, qx, qy, qz) => some (XForm.norm (.a (f p q) (f px qx) (f py qy) (f pz qz)))
  | _, _ => none

/-- A form times a word. -/
def XForm.times (a : XForm) (k : Word) : Option XForm :=
  match a.parts with
  | some (p, px, py, pz) => some (XForm.norm (.a (p * k) (px * k) (py * k) (pz * k)))
  | none => none

/-- The product of two forms of which one is U. -/
def XForm.product (a b : XForm) : Option XForm :=
  match a, b with
  | f, .u k => f.times k
  | .u k, f => f.times k
  | _, _ => none

/-- U when both are U. -/
def bothU (f : Word → Word → Word) (a b : XForm) : Option XForm :=
  match a, b with
  | .u x, .u y => some (.u (f x y))
  | _, _ => none

/-- U when it is U. -/
def oneU (f : Word → Word) (a : XForm) : Option XForm :=
  match a with
  | .u x => some (.u (f x))
  | _ => none

/-- U when all three are U. -/
def threeU (f : Word → Word → Word → Word) (a b c : XForm) : Option XForm :=
  match a, b, c with
  | .u x, .u y, .u z => some (.u (f x y z))
  | _, _, _ => none

/-! ### The integer operations (R248, R250, R252, R254, R258) -/

/-- A clamp to the signed range (R248). -/
def clampW (v : Int) : Word := .ofInt 32 (max (-2 ^ 31) (min (2 ^ 31 - 1) v))

def iaddW (sat : Bool) (x y : Word) : Word := if sat then clampW (x.toInt + y.toInt) else x + y
def isubW (sat : Bool) (x y : Word) : Word := if sat then clampW (x.toInt - y.toInt) else x - y
def imulW (x y : Word) : Word := x * y
def imulhW (uns : Bool) (x y : Word) : Word :=
  if uns then .ofNat 32 (x.toNat * y.toNat / 2 ^ 32) else .ofInt 32 (x.toInt * y.toInt / 2 ^ 32)
/-- The lesser is the left operand. -/
def ltW (uns : Bool) (x y : Word) : Bool := if uns then decide (x.toNat < y.toNat) else decide (x.toInt < y.toInt)
def iminW (uns : Bool) (x y : Word) : Word := if ltW uns y x then y else x
def imaxW (uns : Bool) (x y : Word) : Word := if ltW uns x y then y else x
def andnW (x y : Word) : Word := x &&& ~~~y
def shlW (x y : Word) : Word := if y.toNat < 32 then x <<< y.toNat else 0
def shrW (x y : Word) : Word := if y.toNat < 32 then x >>> y.toNat else 0
def sarW (x y : Word) : Word := x.sshiftRight (min y.toNat 31)
def rolW (x y : Word) : Word := x.rotateLeft (y.toNat % 32)
def iabsW (sat : Bool) (x : Word) : Word := if sat then clampW x.toInt.natAbs else .ofInt 32 x.toInt.natAbs
def inegW (sat : Bool) (x : Word) : Word := if sat then clampW (-x.toInt) else -x
/-- The number of 1 bits among the lowest n. -/
def countOnes (x : Nat) : Nat → Nat
  | 0 => 0
  | n + 1 => countOnes x n + (if x.testBit n then 1 else 0)
def popcW (x : Word) : Word := .ofNat 32 (countOnes x.toNat 32)
def clzW (x : Word) : Word := if x = 0 then 32 else .ofNat 32 (31 - Nat.log2 x.toNat)
def brevW (x : Word) : Word := x.reverse
def leaW (sh : Nat) (x y : Word) : Word := (x <<< sh) + y
def imadW (x y z : Word) : Word := x * y + z

/-- The length of a field at a position (R254). -/
def fieldLen (b : Word) : Nat :=
  let pos := b.toNat % 256
  if pos < 32 then min (b.toNat / 256 % 256) (32 - pos) else 0

def bfeW (sx : Bool) (x b : Word) : Word :=
  let n := fieldLen b
  let f := x.toNat / 2 ^ (b.toNat % 256) % 2 ^ n
  if sx && decide (0 < n) && f.testBit (n - 1) then .ofInt 32 ((f : Int) - 2 ^ n) else .ofNat 32 f

def bfiW (x b c : Word) : Word :=
  let n := fieldLen b
  let pos := b.toNat % 256
  let m : Word := if n = 0 then 0 else .ofNat 32 ((2 ^ n - 1) * 2 ^ pos)
  (c &&& ~~~m) ||| ((if pos < 32 then x <<< pos else 0) &&& m)

/-- Byte j of a word. -/
def byteOf (w : Word) (j : Nat) : Nat := w.toNat / 2 ^ (8 * j) % 256

def bpermW (x y c : Word) : Word :=
  let pick (j : Nat) : Nat :=
    let sel := byteOf c j
    let k := sel % 8
    let e := if k < 4 then byteOf x k else byteOf y (k - 4)
    match sel / 8 % 4 with
    | 0 => e
    | 1 => 0
    | 2 => if 128 ≤ e then 255 else 0
    | _ => 255
  .ofNat 32 (pick 0 + 256 * pick 1 + 65536 * pick 2 + 16777216 * pick 3)

/-- A byte read signed or unsigned. -/
def byteInt (signed : Bool) (b : Nat) : Int := if signed && decide (128 ≤ b) then (b : Int) - 256 else b

def idp4W (sa sb : Bool) (x y z : Word) : Word :=
  let p (j : Nat) : Int := byteInt sa (byteOf x j) * byteInt sb (byteOf y j)
  .ofInt 32 (z.toNat + p 0 + p 1 + p 2 + p 3)

/-- The two halves of a 64-bit value. -/
def loW (v : DWord) : Word := v.truncate 32
def hiW (v : DWord) : Word := (v >>> 32).truncate 32
/-- A 64-bit value from its halves. -/
def joinW (hi lo : Word) : DWord := hi ++ lo

def imad64D (signed : Bool) (x y : Word) (z : DWord) : DWord :=
  .ofInt 64 ((if signed then x.toInt * y.toInt else (x.toNat * y.toNat : Int)) + z.toNat)

/-! ### Procedures for one, two and three sources -/

/-- The computation of a one-source integer instruction. -/
def State.calc1 (s : State) (i : Issue) (d : Dst) (a : Src) (f : Word → Word) : Calc :=
  let r := i.launch.rcd
  let fa := s.src32 i.ctx r a
  { outs := [{ dst := d, form := oneU f fa, val := fun t => f (fa.at r i.ctx.cohort t.c) }], once := d.isQ,
    fl := fun _ => 0 }

/-- The computation of a two-source integer instruction; `form` gives the U or A form of R152. -/
def State.calc2 (s : State) (i : Issue) (d : Dst) (a b : Src) (form : XForm → XForm → Option XForm)
    (f : Word → Word → Word) : Calc :=
  let r := i.launch.rcd
  let fa := s.src32 i.ctx r a
  let fb := s.src32 i.ctx r b
  { outs := [{ dst := d, form := form fa fb, val := fun t => f (fa.at r i.ctx.cohort t.c) (fb.at r i.ctx.cohort t.c) }],
    once := d.isQ, fl := fun _ => 0 }

/-- The computation of a three-source integer instruction. -/
def State.calc3 (s : State) (i : Issue) (d : Dst) (a b c : Src) (form : XForm → XForm → XForm → Option XForm)
    (f : Word → Word → Word → Word) : Calc :=
  let r := i.launch.rcd
  let fa := s.src32 i.ctx r a
  let fb := s.src32 i.ctx r b
  let fc := s.src32 i.ctx r c
  let v (t : Item) : Word := f (fa.at r i.ctx.cohort t.c) (fb.at r i.ctx.cohort t.c) (fc.at r i.ctx.cohort t.c)
  { outs := [{ dst := d, form := form fa fb fc, val := v }], once := d.isQ, fl := fun _ => 0 }

/-- The D and A operands of a base word, in the span slot of a pair or elsewhere (R42). -/
def slotDst (span : Bool) (n : Nat) : Dst := if span then .q n else .x n

end Sys2Proof.Machine

namespace Sys2Proof

open Sys2Proof.Machine

/-- A one-source extended instruction. -/
def Ext.run1 (e : Ext) (f : Word → Word) (s : State) : Host.Outcome State Fault Refusal :=
  let m := e.info 1 1 0 0
  s.issueInstr m fun s i => s.perform i m [s.calc1 i (dstOf e.d) (e.src e.a) f]

/-- A two-source extended instruction. -/
def Ext.run2 (e : Ext) (form : XForm → XForm → Option XForm) (f : Word → Word → Word) (s : State) :
    Host.Outcome State Fault Refusal :=
  let m := e.info 1 1 1 0
  s.issueInstr m fun s i => s.perform i m [s.calc2 i (dstOf e.d) (e.src e.a) (e.src e.b) form f]

/-- A three-source extended instruction. -/
def Ext.run3 (e : Ext) (form : XForm → XForm → XForm → Option XForm) (f : Word → Word → Word → Word) (s : State) :
    Host.Outcome State Fault Refusal :=
  let m := e.info 1 1 1 1
  s.issueInstr m fun s i => s.perform i m [s.calc3 i (dstOf e.d) (e.src e.a) (e.src e.b) (e.src e.c) form f]

/-- A two-source base word (R29, R245). -/
def BaseOps.run2 (w : BaseOps) (form : XForm → XForm → Option XForm) (f : Word → Word → Word) (s : State) :
    Host.Outcome State Fault Refusal :=
  let m := w.info false
  s.issueInstr m fun s i => s.perform i m [s.calc2 i (.x w.d.toNat) (regSrc false w.a.toNat) w.srcB form f]

/-- A two-source base word with a literal (R31, R245). -/
def BaseLit.run2 (w : BaseLit) (form : XForm → XForm → Option XForm) (f : Word → Word → Word) (s : State) :
    Host.Outcome State Fault Refusal :=
  let m := w.info false
  s.issueInstr m fun s i => s.perform i m [s.calc2 i (.x w.d.toNat) (regSrc false w.a.toNat) (litSrc w.lit) form f]

/-- A one-source base word (R30, R245). -/
def Base1.run1 (w : Base1) (f : Word → Word) (s : State) : Host.Outcome State Fault Refusal :=
  let m := w.info
  s.issueInstr m fun s i => s.perform i m [s.calc1 i (.x w.d.toNat) w.src f]

/-- A one-source base word with a literal (R30, R31, R245). -/
def Base1Lit.run1 (w : Base1Lit) (f : Word → Word) (s : State) : Host.Outcome State Fault Refusal :=
  let m := w.info
  s.issueInstr m fun s i => s.perform i m [s.calc1 i (.x w.d.toNat) (litSrc w.lit) f]

end Sys2Proof

namespace Sys2Proof.Machine

/-! ### Forms of the members of R152 -/

/-- `iadd` and `isub` without SAT keep affine forms (R152, R247). -/
def formSum (sat : Bool) (f : Word → Word → Word) (a b : XForm) : Option XForm :=
  if sat then bothU f a b else a.zip f b
/-- `imul` of a U value (R152). -/
def formMul (a b : XForm) : Option XForm := a.product b
/-- `shl` by a U count (R152). -/
def formShl (a b : XForm) : Option XForm :=
  match b with
  | .u n => if n.toNat < 32 then a.times (.ofNat 32 (2 ^ n.toNat)) else (a.parts.map fun _ => .u 0)
  | _ => none
/-- `lea` (R152). -/
def formLea (sh : Nat) (a b : XForm) : Option XForm := a.zip (leaW sh) b
/-- `imad` (R152). -/
def formMad (a b c : XForm) : Option XForm := (a.product b).bind fun p => p.zip (· + ·) c

/-! ### The instructions -/

/-- R248. -/
def execIadd (e : Ext) (s : State) : Host.Outcome State Fault Refusal :=
  e.run2 (formSum (e.modBit 0) (iaddW (e.modBit 0))) (iaddW (e.modBit 0)) s
/-- R248. -/
def execIsub (e : Ext) (s : State) : Host.Outcome State Fault Refusal :=
  e.run2 (formSum (e.modBit 0) (isubW (e.modBit 0))) (isubW (e.modBit 0)) s
/-- R248. -/
def execImul (e : Ext) (s : State) : Host.Outcome State Fault Refusal := e.run2 formMul imulW s
/-- R248. -/
def execImulh (e : Ext) (s : State) : Host.Outcome State Fault Refusal :=
  e.run2 (bothU (imulhW (e.modBit 0))) (imulhW (e.modBit 0)) s
/-- R248. -/
def execImin (e : Ext) (s : State) : Host.Outcome State Fault Refusal :=
  e.run2 (bothU (iminW (e.modBit 0))) (iminW (e.modBit 0)) s
/-- R248. -/
def execImax (e : Ext) (s : State) : Host.Outcome State Fault Refusal :=
  e.run2 (bothU (imaxW (e.modBit 0))) (imaxW (e.modBit 0)) s
/-- R248. -/
def execAnd (e : Ext) (s : State) : Host.Outcome State Fault Refusal := e.run2 (bothU (· &&& ·)) (· &&& ·) s
/-- R248. -/
def execOr (e : Ext) (s : State) : Host.Outcome State Fault Refusal := e.run2 (bothU (· ||| ·)) (· ||| ·) s
/-- R248. -/
def execXor (e : Ext) (s : State) : Host.Outcome State Fault Refusal := e.run2 (bothU (· ^^^ ·)) (· ^^^ ·) s
/-- R248. -/
def execAndn (e : Ext) (s : State) : Host.Outcome State Fault Refusal := e.run2 (bothU andnW) andnW s
/-- R248. -/
def execShl (e : Ext) (s : State) : Host.Outcome State Fault Refusal := e.run2 formShl shlW s
/-- R248. -/
def execShr (e : Ext) (s : State) : Host.Outcome State Fault Refusal := e.run2 (bothU shrW) shrW s
/-- R248. -/
def execSar (e : Ext) (s : State) : Host.Outcome State Fault Refusal := e.run2 (bothU sarW) sarW s
/-- R248. -/
def execRol (e : Ext) (s : State) : Host.Outcome State Fault Refusal := e.run2 (bothU rolW) rolW s
/-- R250. -/
def execIabs (e : Ext) (s : State) : Host.Outcome State Fault Refusal := e.run1 (iabsW (e.modBit 0)) s
/-- R250. -/
def execIneg (e : Ext) (s : State) : Host.Outcome State Fault Refusal := e.run1 (inegW (e.modBit 0)) s
/-- R250. -/
def execNot (e : Ext) (s : State) : Host.Outcome State Fault Refusal := e.run1 (~~~ ·) s
/-- R250. -/
def execPopc (e : Ext) (s : State) : Host.Outcome State Fault Refusal := e.run1 popcW s
/-- R250. -/
def execClz (e : Ext) (s : State) : Host.Outcome State Fault Refusal := e.run1 clzW s
/-- R250. -/
def execBrev (e : Ext) (s : State) : Host.Outcome State Fault Refusal := e.run1 brevW s
/-- R252. -/
def execImad (e : Ext) (s : State) : Host.Outcome State Fault Refusal := e.run3 formMad imadW s
/-- R252. -/
def execLea (e : Ext) (s : State) : Host.Outcome State Fault Refusal :=
  e.run2 (formLea (e.modBits 0 5)) (leaW (e.modBits 0 5)) s
/-- R254. -/
def execBfe (e : Ext) (s : State) : Host.Outcome State Fault Refusal :=
  e.run2 (bothU (bfeW (e.modBit 0))) (bfeW (e.modBit 0)) s
/-- R254. -/
def execBfi (e : Ext) (s : State) : Host.Outcome State Fault Refusal := e.run3 (threeU bfiW) bfiW s
/-- R254. -/
def execBperm (e : Ext) (s : State) : Host.Outcome State Fault Refusal := e.run3 (threeU bpermW) bpermW s
/-- R258. -/
def execIdp4 (e : Ext) (s : State) : Host.Outcome State Fault Refusal :=
  e.run3 (threeU (idp4W (e.modBit 0) (e.modBit 1))) (idp4W (e.modBit 0) (e.modBit 1)) s

/-- The value of a 64-bit source operand for an item. -/
def State.val64 (s : State) (i : Issue) (a : Src) (sx : Bool) (t : Item) : DWord :=
  let r := i.launch.rcd
  joinW ((s.srcHi i.ctx r a sx).at r i.ctx.cohort t.c) ((s.src32 i.ctx r a).at r i.ctx.cohort t.c)

/-- Both halves of a 64-bit source operand are U. -/
def State.wideU (s : State) (i : Issue) (a : Src) (sx : Bool) : Bool :=
  match s.src32 i.ctx i.launch.rcd a, s.srcHi i.ctx i.launch.rcd a sx with
  | .u _, .u _ => true
  | _, _ => false

/-- A 32-bit source operand is U. -/
def State.narrowU (s : State) (i : Issue) (a : Src) : Bool :=
  match s.src32 i.ctx i.launch.rcd a with
  | .u _ => true
  | _ => false

/-- A 64-bit result, each half U when `uniform`. -/
def outs64 (i : Issue) (d : BitVec 8) (uniform : Bool) (v : Item → DWord) : List Out :=
  let form (h : DWord → Word) : Option XForm := if uniform then i.first.map fun t => .u (h (v t)) else none
  [{ dst := dstOf d, form := form loW, val := fun t => loW (v t) },
   { dst := dstHi d, form := form hiW, val := fun t => hiW (v t) }]

/-- R260. -/
def execIadd64 (e : Ext) (s : State) : Host.Outcome State Fault Refusal :=
  let m := e.info 2 2 2 0
  s.issueInstr m fun s i =>
    let v (t : Item) : DWord :=
      let x := s.val64 i (e.src e.a) true t
      let y := s.val64 i (e.src e.b) true t
      if e.modBit 0 then x - y else x + y
    let u := s.wideU i (e.src e.a) true && s.wideU i (e.src e.b) true
    s.perform i m [{ outs := outs64 i e.d u v, once := (dstOf e.d).isQ, fl := fun _ => 0 }]

/-- R260. -/
def execImad64 (e : Ext) (s : State) : Host.Outcome State Fault Refusal :=
  let m := e.info 2 1 1 2
  s.issueInstr m fun s i =>
    let r := i.launch.rcd
    let at32 (a : Src) (t : Item) : Word := (s.src32 i.ctx r a).at r i.ctx.cohort t.c
    let v (t : Item) : DWord := imad64D (e.modBit 0) (at32 (e.src e.a) t) (at32 (e.src e.b) t) (s.val64 i (e.src e.c) true t)
    let u := s.narrowU i (e.src e.a) && s.narrowU i (e.src e.b) && s.wideU i (e.src e.c) true
    s.perform i m [{ outs := outs64 i e.d u v, once := (dstOf e.d).isQ, fl := fun _ => 0 }]

/-! ### `icmp` (R256) and form E (R151) -/

/-- The coordinates of the items of a context. -/
def Issue.coords (i : Issue) : List (Nat × Nat × Nat) := i.ctx.items.map fun t => coord i.launch.rcd i.ctx.cohort t.c

/-- The E form of a comparison of an A register with a U value, when R151 grants one: of the register it keeps the stride in the one
dimension that counts. -/
def Issue.eForm (i : Issue) (cmp : Nat) (uns : Bool) (a b : XForm) : Option PForm :=
  let ps := i.coords
  let pick (base sx sy sz thr : Word) (swap : Bool) : Option PForm :=
    let only (k : Nat) (w : Word) (j : Nat) : Word := if j = k then w else 0
    let at' (k : Nat) (p : Nat × Nat × Nat) : Nat := if k = 0 then p.1 else if k = 1 then p.2.1 else p.2.2
    let wide := ([(0, sx), (1, sy), (2, sz)] : List (Nat × Word)).filter fun d => match ps with
      | [] => false
      | p :: rest => d.2 != 0 && rest.any fun q => at' d.1 q != at' d.1 p
    let lo : Int := if uns then 0 else -2 ^ 31
    let hi : Int := if uns then 2 ^ 32 - 1 else 2 ^ 31 - 1
    match wide, ps with
    | [(k, w)], p :: _ =>
      let b0 := affineAt base sx sy sz p
      let v0 : Int := if uns then b0.toNat else b0.toInt
      let ok := ps.all fun q =>
        let v := v0 + w.toInt * ((at' k q : Int) - at' k p)
        decide (lo ≤ v) && decide (v ≤ hi)
      if ok then some (.e { base := b0 - w * .ofNat 32 (at' k p), sx := only k w 0, sy := only k w 1, sz := only k w 2, thr := thr,
                            cmp := cmp, uns := uns, swap := swap, neg := false }) else none
    | _, _ => none
  if i.ctx.kind != CtxKind.span || decide (cmp < 2) then none
  else match a, b with
    | .a base sx sy sz, .u t => pick base sx sy sz t false
    | .u t, .a base sx sy sz => pick base sx sy sz t true
    | _, _ => none

/-- R256. -/
def execIcmp (e : Ext) (s : State) : Host.Outcome State Fault Refusal :=
  let m := e.info 0 1 1 0
  let cmp := e.modBits 0 3
  let uns := e.modBit 3
  s.issueInstr m fun s i =>
    let r := i.launch.rcd
    let fa := s.src32 i.ctx r (e.src e.a)
    let fb := s.src32 i.ctx r (e.src e.b)
    let form := match fa, fb with
      | .u x, .u y => some (PForm.u (cmpHolds cmp uns x y))
      | x, y => i.eForm cmp uns x y
    s.writePred i m { dst := dstPred e.d, form := form,
                      val := fun t => cmpHolds cmp uns (fa.at r i.ctx.cohort t.c) (fb.at r i.ctx.cohort t.c) }

/-! ### Base words (R33, R245) -/

/-- The word function and result form of a two-source integer base major; none for the floating-point majors. -/
def intOp : Op2 → Option ((XForm → XForm → Option XForm) × (Word → Word → Word))
  | .iadd => some (formSum false (iaddW false), iaddW false)
  | .isub => some (formSum false (isubW false), isubW false)
  | .imul => some (formMul, imulW)
  | .imulh => some (bothU (imulhW false), imulhW false)
  | .imin => some (bothU (iminW false), iminW false)
  | .imax => some (bothU (imaxW false), imaxW false)
  | .and => some (bothU (· &&& ·), (· &&& ·))
  | .or => some (bothU (· ||| ·), (· ||| ·))
  | .xor => some (bothU (· ^^^ ·), (· ^^^ ·))
  | .andn => some (bothU andnW, andnW)
  | .shl => some (formShl, shlW)
  | .shr => some (bothU shrW, shrW)
  | .sar => some (bothU sarW, sarW)
  | .rol => some (bothU rolW, rolW)
  | .lea1 => some (formLea 1, leaW 1)
  | .lea2 => some (formLea 2, leaW 2)
  | .lea3 => some (formLea 3, leaW 3)
  | .fadd => none
  | .fmul => none
  | .ffmaDm => none
  | .ffmaAcc => none
  | .fmin => none
  | .fmax => none
  | .padd16 => none
  | .pmul16 => none
  | .pfma16Acc => none

/-- R248, base form. -/
def execIaddBase (w : BaseOps) (s : State) : Host.Outcome State Fault Refusal := w.run2 (formSum false (iaddW false)) (iaddW false) s
/-- R248, base form with a literal. -/
def execIaddBaseLit (w : BaseLit) (s : State) : Host.Outcome State Fault Refusal := w.run2 (formSum false (iaddW false)) (iaddW false) s
/-- R248, base form. -/
def execIsubBase (w : BaseOps) (s : State) : Host.Outcome State Fault Refusal := w.run2 (formSum false (isubW false)) (isubW false) s
/-- R248, base form with a literal. -/
def execIsubBaseLit (w : BaseLit) (s : State) : Host.Outcome State Fault Refusal := w.run2 (formSum false (isubW false)) (isubW false) s
/-- R248, base form. -/
def execImulBase (w : BaseOps) (s : State) : Host.Outcome State Fault Refusal := w.run2 formMul imulW s
/-- R248, base form with a literal. -/
def execImulBaseLit (w : BaseLit) (s : State) : Host.Outcome State Fault Refusal := w.run2 formMul imulW s
/-- R248, base form. -/
def execImulhBase (w : BaseOps) (s : State) : Host.Outcome State Fault Refusal := w.run2 (bothU (imulhW false)) (imulhW false) s
/-- R248, base form with a literal. -/
def execImulhBaseLit (w : BaseLit) (s : State) : Host.Outcome State Fault Refusal := w.run2 (bothU (imulhW false)) (imulhW false) s
/-- R248, base form. -/
def execIminBase (w : BaseOps) (s : State) : Host.Outcome State Fault Refusal := w.run2 (bothU (iminW false)) (iminW false) s
/-- R248, base form with a literal. -/
def execIminBaseLit (w : BaseLit) (s : State) : Host.Outcome State Fault Refusal := w.run2 (bothU (iminW false)) (iminW false) s
/-- R248, base form. -/
def execImaxBase (w : BaseOps) (s : State) : Host.Outcome State Fault Refusal := w.run2 (bothU (imaxW false)) (imaxW false) s
/-- R248, base form with a literal. -/
def execImaxBaseLit (w : BaseLit) (s : State) : Host.Outcome State Fault Refusal := w.run2 (bothU (imaxW false)) (imaxW false) s
/-- R248, base form. -/
def execAndBase (w : BaseOps) (s : State) : Host.Outcome State Fault Refusal := w.run2 (bothU (· &&& ·)) (· &&& ·) s
/-- R248, base form with a literal. -/
def execAndBaseLit (w : BaseLit) (s : State) : Host.Outcome State Fault Refusal := w.run2 (bothU (· &&& ·)) (· &&& ·) s
/-- R248, base form. -/
def execOrBase (w : BaseOps) (s : State) : Host.Outcome State Fault Refusal := w.run2 (bothU (· ||| ·)) (· ||| ·) s
/-- R248, base form with a literal. -/
def execOrBaseLit (w : BaseLit) (s : State) : Host.Outcome State Fault Refusal := w.run2 (bothU (· ||| ·)) (· ||| ·) s
/-- R248, base form. -/
def execXorBase (w : BaseOps) (s : State) : Host.Outcome State Fault Refusal := w.run2 (bothU (· ^^^ ·)) (· ^^^ ·) s
/-- R248, base form with a literal. -/
def execXorBaseLit (w : BaseLit) (s : State) : Host.Outcome State Fault Refusal := w.run2 (bothU (· ^^^ ·)) (· ^^^ ·) s
/-- R248, base form. -/
def execAndnBase (w : BaseOps) (s : State) : Host.Outcome State Fault Refusal := w.run2 (bothU andnW) andnW s
/-- R248, base form with a literal. -/
def execAndnBaseLit (w : BaseLit) (s : State) : Host.Outcome State Fault Refusal := w.run2 (bothU andnW) andnW s
/-- R248, base form. -/
def execShlBase (w : BaseOps) (s : State) : Host.Outcome State Fault Refusal := w.run2 formShl shlW s
/-- R248, base form with a literal. -/
def execShlBaseLit (w : BaseLit) (s : State) : Host.Outcome State Fault Refusal := w.run2 formShl shlW s
/-- R248, base form. -/
def execShrBase (w : BaseOps) (s : State) : Host.Outcome State Fault Refusal := w.run2 (bothU shrW) shrW s
/-- R248, base form with a literal. -/
def execShrBaseLit (w : BaseLit) (s : State) : Host.Outcome State Fault Refusal := w.run2 (bothU shrW) shrW s
/-- R248, base form. -/
def execSarBase (w : BaseOps) (s : State) : Host.Outcome State Fault Refusal := w.run2 (bothU sarW) sarW s
/-- R248, base form with a literal. -/
def execSarBaseLit (w : BaseLit) (s : State) : Host.Outcome State Fault Refusal := w.run2 (bothU sarW) sarW s
/-- R248, base form. -/
def execRolBase (w : BaseOps) (s : State) : Host.Outcome State Fault Refusal := w.run2 (bothU rolW) rolW s
/-- R248, base form with a literal. -/
def execRolBaseLit (w : BaseLit) (s : State) : Host.Outcome State Fault Refusal := w.run2 (bothU rolW) rolW s
/-- R252, base form. -/
def execLea1Base (w : BaseOps) (s : State) : Host.Outcome State Fault Refusal := w.run2 (formLea 1) (leaW 1) s
/-- R252, base form with a literal. -/
def execLea1BaseLit (w : BaseLit) (s : State) : Host.Outcome State Fault Refusal := w.run2 (formLea 1) (leaW 1) s
/-- R252, base form. -/
def execLea2Base (w : BaseOps) (s : State) : Host.Outcome State Fault Refusal := w.run2 (formLea 2) (leaW 2) s
/-- R252, base form with a literal. -/
def execLea2BaseLit (w : BaseLit) (s : State) : Host.Outcome State Fault Refusal := w.run2 (formLea 2) (leaW 2) s
/-- R252, base form. -/
def execLea3Base (w : BaseOps) (s : State) : Host.Outcome State Fault Refusal := w.run2 (formLea 3) (leaW 3) s
/-- R252, base form with a literal. -/
def execLea3BaseLit (w : BaseLit) (s : State) : Host.Outcome State Fault Refusal := w.run2 (formLea 3) (leaW 3) s
/-- R250, base form. -/
def execPopcBase (w : Base1) (s : State) : Host.Outcome State Fault Refusal := w.run1 popcW s
/-- R250, base form with a literal. -/
def execPopcBaseLit (w : Base1Lit) (s : State) : Host.Outcome State Fault Refusal := w.run1 popcW s
/-- R250, base form. -/
def execClzBase (w : Base1) (s : State) : Host.Outcome State Fault Refusal := w.run1 clzW s
/-- R250, base form with a literal. -/
def execClzBaseLit (w : Base1Lit) (s : State) : Host.Outcome State Fault Refusal := w.run1 clzW s
/-- R250, base form. -/
def execBrevBase (w : Base1) (s : State) : Host.Outcome State Fault Refusal := w.run1 brevW s
/-- R250, base form with a literal. -/
def execBrevBaseLit (w : Base1Lit) (s : State) : Host.Outcome State Fault Refusal := w.run1 brevW s
/-- R250, base form. -/
def execNotBase (w : Base1) (s : State) : Host.Outcome State Fault Refusal := w.run1 (~~~ ·) s
/-- R250, base form with a literal. -/
def execNotBaseLit (w : Base1Lit) (s : State) : Host.Outcome State Fault Refusal := w.run1 (~~~ ·) s

end Sys2Proof.Machine
end

