-- ==== Sys2Proof/Machine/L2.lean ====
section
/-! DEFINITION. What lies at a physical byte, and the L2 banks: placement, encodings, replacement and partitions
(04 R86 to R99), poison marks (03 R83, R84), and the marks of written pages (16 R449, R457). Local bytes lie in
`State.mem` whether or not their line is resident; a dirty host line keeps its bytes in its L2 line. -/

namespace Sys2Proof.Machine

/-! ### Page sets, registers of PF0 -/

/-- A page belongs to the set. -/
def PageSet.has (p : PageSet) (n : Nat) : Bool := xor p.all (p.except.contains n)
/-- Add a page. -/
def PageSet.add (p : PageSet) (n : Nat) : PageSet :=
  if p.all then { p with except := p.except.filter (· != n) } else { p with except := insertNat n p.except }
/-- Remove a page. -/
def PageSet.drop (p : PageSet) (n : Nat) : PageSet :=
  if p.all then { p with except := insertNat n p.except } else { p with except := p.except.filter (· != n) }
/-- Every page. -/
def PageSet.every : PageSet := { all := true, except := [] }

/-- The offset of a register of slice s's block in PF0 (R436, R448, R455). -/
def sliceReg (slice off : Nat) : Nat := 0x4000 + 0x40 * slice + off

/-! ### Bytes and sectors -/

/-- The sector of a physical byte (R83). -/
def sectorOf (k : Phys) : Nat := k / 32

/-- Store one byte at its home. -/
def State.putByte (s : State) (k : Phys) (v : Byte) : State :=
  if k.isLocal then { s with mem := s.mem.write k v }
  else if k.isHost then { s with host := s.host.write (k - physHost) v }
  else s

/-- Mark a local page written, for migration and for checkpoints, as far as they track (R449, R457). -/
def State.markPage (s : State) (k : Phys) : State :=
  if k.isLocal then
    let lead := s.leadOf (k / 2 ^ 36)
    let page := s.localOffset k / 65536
    let track := (s.reg 0 (sliceReg lead 0x10)).toNat.testBit 29
    let ck := (s.reg 0 (sliceReg lead 0x24)).toNat.testBit 31
    if track || ck then
      s.setSlice lead fun v => { v with dirty := if track then v.dirty.add page else v.dirty,
                                        ckDirty := if ck then v.ckDirty.add page else v.ckDirty }
    else s
  else s

/-- Sectors whose every byte is among some cells. -/
def wholeSectors (cells : List (Nat × Byte)) : List Nat :=
  let secs := (cells.map fun c => sectorOf c.1).foldl (fun acc n => insertNat n acc) []
  secs.filter fun n => (List.range 32).all fun j => cells.any fun c => c.1 == 32 * n + j

/-- While a launch of a slice group is resident or saved, the earlier contents of the sectors that are written in its stacks
are kept: its fetches may still return them (R57). -/
def State.keepOld (s : State) (cells : List (Nat × Byte)) : State :=
  let users (n : Nat) : List Nat :=
    let lead := s.leadOf (32 * n / 2 ^ 36)
    (s.launches.filter fun l => s.leadOf l.slice == lead).map Launch.num
      ++ match (s.slice lead).folio with
        | some f => f.launches.map Launch.num
        | none => []
  let note (acc : List OldSector) (n : Nat) : List OldSector :=
    let who := users n
    if who.isEmpty then acc
    else
      let e : OldSector := { sector := n, bytes := s.mem.readList (32 * n) 32, users := who }
      e :: acc.filter fun o => !(o.sector == e.sector && o.bytes == e.bytes && o.users.all who.contains)
  { s with oldCode := ((cells.map fun c => sectorOf c.1).foldl (fun acc n => insertNat n acc) []).foldl note s.oldCode }

/-- A launch that has completed fetches nothing any more; contents that no launch may fetch are dropped (R57). -/
def State.dropOld (s : State) : State :=
  if s.oldCode.isEmpty then s
  else
    let saved := s.slices.flatMap fun v => match v.folio with
      | some f => f.launches.map Launch.num
      | none => []
    let stays (n : Nat) : Bool := (s.launch? n).isSome || saved.contains n
    { s with oldCode := (s.oldCode.map fun e => { e with users := e.users.filter stays }).filter fun e => !e.users.isEmpty }

/-- Store bytes at their homes: a whole sector loses its poison mark (R84), written pages are marked (R449). -/
def State.storeCells (s : State) (cells : List (Nat × Byte)) : State :=
  let s1 := cells.foldl (fun t c => t.putByte c.1 c.2) (s.keepOld (cells.filter fun c => Phys.isLocal c.1))
  let whole := if s.poison.isEmpty && s.ecc.isEmpty then [] else wholeSectors cells
  let s2 := { s1 with poison := s1.poison.filter (fun n => !whole.contains n), ecc := s1.ecc.filter fun e => !whole.contains e.1 }
  cells.foldl (fun t c => t.markPage c.1) s2

/-- Note a poison mark on a sector at its home (R83). -/
def State.notePoison (s : State) (sector : Nat) : State := { s with poison := insertNat sector s.poison }

/-! ### Lines of L2 (R86 to R91) -/

/-- The line of a physical byte. -/
def lineOf (k : Phys) : Nat := k / 128
/-- The line number n of R88. -/
def lineNumber (line : Nat) : Nat :=
  if lineLocal line then line % 2 ^ 29 else if lineHost line then line % 2 ^ 41 else line % 2 ^ 43
/-- The slice in whose banks a line may lie (R88): for a local line the one whose stack holds it, else that of the core or engine
that makes the access. -/
def cacheSlice (slice line : Nat) : Nat := if lineLocal line then line * 128 / 2 ^ 36 else slice

/-- The bank and set of a line (R88). -/
def State.bankSet (s : State) (slice line : Nat) : Nat × Nat :=
  let n := lineNumber line
  let h := n ^^^ (n >>> 13)
  let ctl := s.vreg slice 0x630
  if ctl.toNat.testBit 31 then (fieldOfWord ctl 0 7, h % 64) else (h % 80, h / 80 % 64)

/-- A resident line (R97: whatever its owner). -/
def State.l2Line? (s : State) (slice line : Nat) : Option L2Line :=
  s.l2.find? fun l => l.slice == cacheSlice slice line && l.line == line

/-- The bank that holds a host line dirty; CXL.cache lets one do so (R100). -/
def State.hostOwner? (s : State) (line : Nat) : Option L2Line := s.l2.find? fun l => l.line == line && l.dirty

/-- The resident line that answers an access of a slice to a line (R95, R100). -/
def State.servingLine? (s : State) (slice line : Nat) : Option L2Line :=
  if lineHost line then s.hostOwner? line <|> s.l2Line? slice line else s.l2Line? slice line

/-- A sector's home carries a poison mark, or an uncorrectable error that a read will find (R83). -/
def State.homeMarked (s : State) (sector : Nat) : Bool := s.poison.contains sector || s.ecc.contains (sector, true)

/-- A sector is bad for an access of a slice (R83, R84, R105): its mark is kept with the line in a bank that answers, and at its home
where none does. -/
def State.marked (s : State) (slice sector : Nat) : Bool :=
  match s.servingLine? slice (sector / 4) with
  | some l => l.bad.contains (sector % 4) || s.l2err.contains ((l.slice, sector), true)
  | none => s.homeMarked sector

/-- Some sector of a range is bad for an access of a slice, which for local bytes is that of their stack. -/
def State.poisoned (s : State) (k : Phys) (len : Nat) (slice : Nat := k / 2 ^ 36) : Bool :=
  (List.range ((k + len - 1) / 32 - k / 32 + 1)).any fun j => s.marked slice (k / 32 + j)

/-- The sectors of this package's memory that are bad. -/
def State.badSectors (s : State) : List Nat :=
  let inLines := (s.l2.filter fun l => lineLocal l.line).flatMap fun l => l.bad.map fun j => 4 * l.line + j
  (s.poison ++ (s.ecc.filter Prod.snd).map Prod.fst ++ inLines ++ (s.l2err.filter Prod.snd).map fun e => e.1.2).filter fun n =>
    decide (n < 2 ^ 35) && s.marked (n / 2 ^ 31) n

/-- The byte a bank of the slice, or the home, gives for a byte (R95, R100). -/
def State.homeByte (s : State) (slice : Nat) (k : Phys) : Byte :=
  if k.isLocal then s.mem.read k
  else if k.isHost then
    match s.hostOwner? (lineOf k) with
    | some l => l.bytes.getD (k % 128) 0
    | none => s.host.read (k - physHost)
  else
    match s.l2Line? slice (lineOf k) with
    | some l => l.bytes.getD (k % 128) 0
    | none => 0

/-- The 128 bytes of a line. -/
def State.lineBytes (s : State) (slice line : Nat) : List Byte := (List.range 128).map fun j => s.homeByte slice (line * 128 + j)

/-- Elements of w bytes of a line (R90). -/
def elems (w : Nat) (bs : List Byte) : List Nat := (List.range (128 / w)).map fun i => leNat ((bs.drop (w * i)).take w)

/-- Every element differs from the base by a signed value of d bytes (R90). -/
def deltaFits (w d : Nat) (bs : List Byte) : Bool :=
  let es := elems w bs
  let base := es.headD 0
  es.all fun e =>
    let v := (e + 2 ^ (8 * w) - base) % 2 ^ (8 * w)
    decide (v < 2 ^ (8 * d - 1)) || decide (2 ^ (8 * w) - 2 ^ (8 * d - 1) ≤ v)

/-- The first encoding that holds (R90, R91); a line with a poisoned sector is RAW. -/
def encodingOf (poisoned : Bool) (bs : List Byte) : Nat :=
  if poisoned then 7
  else if bs.all (· == 0) then 0
  else if (elems 8 bs).all (· == (elems 8 bs).headD 0) then 1
  else if deltaFits 8 1 bs then 2
  else if deltaFits 4 1 bs then 3
  else if deltaFits 8 2 bs then 4
  else if deltaFits 4 2 bs then 5
  else if deltaFits 8 4 bs then 6
  else 7

/-- The 64-byte halves an encoding takes (R90): none for a tag alone. -/
def halvesOf (enc : Nat) : Nat := if enc < 2 then 0 else if enc < 7 then 1 else 2

/-- The fill mask of a partition (R97). -/
def State.fillMask (s : State) (slice pid : Nat) : Nat := fieldOfWord (s.vreg slice (0x600 + 4 * (pid % 8))) 0 16

/-- The lines of a way. -/
def wayLines (ls : List L2Line) (way : Nat) : List L2Line := ls.filter fun l => l.way == way

/-- The place R94 gives a fill without eviction, among the lines of the set. -/
def placeFor (ls : List L2Line) (mask halves : Nat) : Option Nat :=
  let ways := (List.range 16).filter fun w => mask.testBit w
  let empty := ways.find? fun w => (wayLines ls w).isEmpty
  let one (ok : L2Line → Bool) : Option Nat := ways.find? fun w => match wayLines ls w with
    | [l] => ok l
    | _ => false
  match halves with
  | 2 => empty <|> one fun l => halvesOf l.enc == 0
  | 1 => (one fun l => decide (halvesOf l.enc < 2)) <|> empty
  | _ => (one fun _ => true) <|> empty

/-- The sectors of a line. -/
def lineSectors (line : Nat) : List Nat := (List.range 4).map fun j => 4 * line + j

/-- Remove a line from its bank (R95). A dirty one is read, its uncorrectable errors found (R105), and written to its stack or to
the host, its poison marks with it (R84); a clean one leaves nothing behind. -/
def State.dropLine (s : State) (l : L2Line) : State :=
  let mine (e : (Nat × Nat) × Bool) : Bool := e.1.1 == l.slice && e.1.2 / 4 == l.line
  let errs := (s.l2err.filter fun e => mine e && e.2).map fun e => e.1.2 % 4
  let s := { s with l2 := s.l2.filter (fun m => !(m.slice == l.slice && m.line == l.line)), l2err := s.l2err.filter fun e => !mine e }
  if !l.dirty then s
  else
    let s := if errs.isEmpty then s else s.count l.slice 0x444 errs.length
    let marks := (unionNat errs l.bad).map fun j => 4 * l.line + j
    let s := { s with poison := unionNat marks (s.poison.filter fun n => n / 4 != l.line) }
    if lineLocal l.line then { s with ecc := s.ecc.filter fun e => e.1 / 4 != l.line }
    else { s with host := s.host.writeList (l.line * 128 - physHost) l.bytes }

/-- Place a line as a fill, evicting the least recently used lines of the mask until it fits (R94). -/
def State.fillLine (s : State) (l : L2Line) (mask : Nat) : Nat → State
  | 0 => s
  | fuel + 1 =>
    let ls := s.l2.filter fun m => m.slice == l.slice && m.bank == l.bank && m.set == l.set
    match placeFor ls mask (halvesOf l.enc) with
    | some w => { s with l2 := { l with way := w } :: s.l2 }
    | none =>
      match argMin L2Line.used (ls.filter fun m => mask.testBit m.way) with
      | some v => (s.dropLine v).fillLine l mask fuel
      | none => s

/-- The way holds the grown line in place (R93). -/
def growsInPlace (ls : List L2Line) (l : L2Line) (mask halves : Nat) : Bool :=
  let others := (wayLines ls l.way).filter fun m => m.line != l.line
  let taken := (others.map fun m => halvesOf m.enc).sum
  mask.testBit l.way && decide (taken + halves ≤ 2) && (halves != 2 || others.all fun m => halvesOf m.enc == 0)

/-- A line that is resident takes another encoding (R93): in place where it shrinks or its way can hold it, else it is placed
again, or written back and dropped where its owner may fill no way. -/
def State.regrow (s : State) (l l' : L2Line) : State :=
  let rest := s.l2.filter fun m => !(m.slice == l.slice && m.line == l.line)
  let mask := s.fillMask l.slice l.owner
  if halvesOf l'.enc ≤ halvesOf l.enc then { s with l2 := l' :: rest }
  else
    let ls := rest.filter fun m => m.slice == l.slice && m.bank == l.bank && m.set == l.set
    if growsInPlace ls l mask (halvesOf l'.enc) then { s with l2 := l' :: rest }
    else if mask = 0 then ({ s with l2 := l' :: rest }).dropLine l'
    else ({ s with l2 := rest }).fillLine l' mask 64

/-- Put a poison mark on a sector where the slice's accesses find it: on the line that holds it, which becomes RAW (R91), else at
its home. -/
def State.setPoison (s : State) (slice sector : Nat) : State :=
  match s.l2Line? slice (sector / 4) with
  | some l => s.regrow l { l with enc := 7, bad := insertNat (sector % 4) l.bad }
  | none => s.notePoison sector

/-- The base die reads a sector and handles the error it finds (R83): a single-bit error is corrected and written back, any
other marks the sector. -/
def State.checkSector (s : State) (sector : Nat) : State :=
  match s.ecc.find? fun e => e.1 == sector with
  | none => s
  | some e =>
    let slice := sector * 32 / 2 ^ 36
    let s : State := { s with ecc := s.ecc.filter fun d => d.1 != sector }
    if e.2 then ((s.notePoison sector).count slice 0x444 1).interrupt slice 4 0 else s.count slice 0x440 1

/-- A bank reads the sectors of a line it holds and handles the errors it finds (R105). -/
def State.checkBank (s : State) (slice line : Nat) : State :=
  if s.l2err.isEmpty then s
  else (lineSectors line).foldl (fun t n =>
    match t.l2err.find? fun e => e.1 == (slice, n) with
    | none => t
    | some e =>
      let t : State := { t with l2err := t.l2err.filter fun d => d.1 != (slice, n) }
      if e.2 then (t.setPoison slice n).count slice 0x444 1 else t) s

/-- An access reads a line: its bank checks it where it holds it (R105), and the stack where it does not (R83). -/
def State.checkLine (s : State) (slice line : Nat) : State :=
  match s.l2Line? slice line with
  | some l => s.checkBank l.slice line
  | none => if s.ecc.isEmpty then s else (lineSectors line).foldl (fun t n => t.checkSector n) s

/-- CXL.cache (R100): before a bank reads a host line, another that holds it dirty gives its data back to the host; before it
writes one, no other holds it. -/
def State.claimHost (s : State) (sl line : Nat) (write : Bool) : State :=
  if !lineHost line then s
  else
    (s.l2.filter fun l => l.line == line && l.slice != sl).foldl (fun t l =>
      if write then t.dropLine l
      else if l.dirty then
        let t := t.dropLine l
        { t with l2 := { l with dirty := false } :: t.l2 }
      else t) s

/-- A slice drops its banks' copy of a line, dirty data going home first. -/
def State.uncache (s : State) (slice line : Nat) : State :=
  (s.l2.filter fun l => l.slice == cacheSlice slice line && l.line == line).foldl State.dropLine s

/-- An access to a line of a bank (R91 to R98): a hit makes it most recent and, when it was written, encodes it again;
a miss fills it for the partition unless its mask is zero. `bytes` are a host or peer line's bytes after the access,
`dirty` says that a host line must be kept, `ev` that the line is the first to be replaced (R315), `whole` are the sectors written
whole, which lose their marks, and `mark` those written with marked data (R84). -/
def State.touchL2 (s : State) (slice pid line : Nat) (write : Bool) (bytes : List Byte) (dirty : Bool) (ev : Bool := false)
    (whole mark : List Nat := []) : State :=
  let sl := cacheSlice slice line
  let s := (s.claimHost sl line write).checkLine slice line
  let cur := if lineLocal line then s.lineBytes slice line else bytes
  let held := if lineLocal line then [] else bytes
  let after (bad : List Nat) : List Nat := unionNat mark (bad.filter fun j => !whole.contains j)
  let (stamp, s) := s.fresh
  let used := if ev then 0 else stamp
  match s.l2Line? slice line with
  | some l =>
    let bad := if write then after l.bad else l.bad
    s.regrow l { l with used := used, enc := if write then encodingOf (!bad.isEmpty) cur else l.enc,
                        bytes := if write then held else l.bytes, bad := bad,
                        dirty := l.dirty || (write && (lineLocal line || dirty)) }
  | none =>
    let mask := s.fillMask sl pid
    let (bank, set) := s.bankSet sl line
    let bad := after ((List.range 4).filter fun j => s.homeMarked (4 * line + j))
    let l : L2Line :=
      { slice := sl, bank := bank, set := set, way := 0, line := line, enc := encodingOf (!bad.isEmpty) cur, owner := pid % 8,
        dirty := write && (lineLocal line || dirty), used := used, bytes := held, bad := bad }
    if mask = 0 then s.dropLine l else s.fillLine l mask 64

/-- The lines some cells lie in. -/
def linesOf (cells : List (Nat × Byte)) : List Nat := (cells.map fun c => lineOf c.1).foldl (fun acc n => insertNat n acc) []

/-- The bytes of a host or peer line after some are written. -/
def State.lineAfter (s : State) (slice line : Nat) (cells : List (Nat × Byte)) : List Byte :=
  let old := s.lineBytes slice line
  (List.range 128).map fun j => match cells.reverse.find? fun c => c.1 == line * 128 + j with
    | some c => c.2
    | none => old.getD j 0

/-- Perform a write at its home, as one write of the total order of its lines (R102, R344): through the banks of the
slice (R91, R93), host lines under CXL.cache (R95, R100); to a device page without them (R72). `marks` are the sectors whose data
carries a poison mark (R84). -/
def State.performWrite (s : State) (slice pid : Nat) (cells : List (Nat × Byte)) (device : Bool := false) (ev : Bool := false)
    (marks : List Nat := []) : State :=
  let lines := linesOf cells
  let s := if device then lines.foldl (fun t line => (t.claimHost slice line true).uncache slice line) s else s
  let s := lines.foldl (fun t line => t.checkLine slice line) s
  let s := s.storeCells (cells.filter fun c => Phys.isLocal c.1 || (device && Phys.isHost c.1))
  if device then marks.foldl State.notePoison s
  else
    lines.foldl (fun t line =>
      let here := cells.filter fun c => lineOf c.1 == line
      let whole := (wholeSectors here).map (· % 4)
      let mark := (marks.filter fun n => n / 4 == line).map (· % 4)
      if lineLocal line then t.touchL2 slice pid line true [] false ev whole mark
      else if lineHost line then t.touchL2 slice pid line true (t.lineAfter slice line here) true ev whole mark
      else t) s

/-- A read performed at its home fills the bank (R94, R98); a peer's line hits where the bank holds it, and one of a device page
is cached nowhere (R72). -/
def State.readL2 (s : State) (slice pid : Nat) (k : Phys) (device : Bool := false) (ev : Bool := false) : State :=
  let line := lineOf k
  if device then (s.uncache slice line).checkLine slice line
  else if k.isPeer then
    match s.l2Line? slice line with
    | some l => s.touchL2 slice pid line false l.bytes false ev
    | none => s
  else s.touchL2 slice pid line false (s.lineBytes slice line) false ev

/-- The partition of accesses that belong to no context (R96). -/
def State.sysPid (s : State) (slice : Nat) : Nat := fieldOfWord (s.vreg slice 0x620) 0 3

/-! ### Local offsets -/

/-- Bytes at a local offset of a slice (R66). -/
def State.readLocal (s : State) (slice off n : Nat) : List Byte :=
  (List.range n).map fun j => s.mem.read (s.localPhys slice (off + j))

/-- Some byte of a local range carries a poison mark. -/
def State.localPoisoned (s : State) (slice off n : Nat) : Bool :=
  (List.range n).any fun j => s.poisoned (s.localPhys slice (off + j)) 1

/-- A local range is pull-pending (R453), and at which page. -/
def State.pullPage (s : State) (slice off n : Nat) : Option Nat :=
  let v := s.slice (s.leader slice)
  [off / 65536, (off + n - 1) / 65536].find? v.pull.has

/-! ### Holders of a line (R101, R102) -/

/-- The directory entry of a line (R101). -/
def State.dirEntry (s : State) (line : Nat) : Option DirEntry := s.dir.find? fun d => d.line == line

/-- A write that nobody waits for comes to its homes (R102): it is performed at once at a line that no peer holds, and otherwise queues
there. -/
def State.sendHome (s : State) (slice pid : Nat) (cells : List (Nat × Byte)) : State :=
  (linesOf cells).foldl (fun t line =>
    let here := cells.filter fun c => lineOf c.1 == line
    if (t.dirEntry line).isSome then
      let (id, t) := t.fresh
      let w : HomeWrite :=
        { id := id, slice := cacheSlice slice line, line := line, pid := pid, cells := here, ack := none, sent := false,
          device := false, ev := false, peer := false }
      { t with homeWrites := t.homeWrites ++ [w] }
    else t.performWrite slice pid here) s

/-- Store bytes at a local offset of a slice, for the device itself. -/
def State.writeLocal (s : State) (slice off : Nat) (bs : List Byte) : State :=
  s.sendHome slice (s.sysPid slice) ((List.range bs.length).map fun j => (s.localPhys slice (off + j), bs.getD j 0))

/-- Lines whose peer holders must be invalidated before the device writes them (R102): an empty write of each is sent
first; none when the write may be performed. -/
def State.clearHolders (s : State) (slice : Nat) (lines : List Nat) : Option State :=
  let held := lines.filter fun n => (s.dirEntry n).isSome
  if held.isEmpty then none
  else
    some (held.foldl (fun t n =>
      if t.homeWrites.any fun w => w.line == n && w.sent then t
      else
        let (id, t) := t.fresh
        let w : HomeWrite :=
          { id := id, slice := cacheSlice slice n, line := n, pid := t.sysPid slice, cells := [], ack := none, sent := true,
            device := false, ev := false, peer := false }
        { t with homeWrites := w :: t.homeWrites }) s)

/-- The holders of the lines of a local range are still to be invalidated before the device itself writes it (R102): the state in which
that has been asked for; none when the write may be performed. -/
def State.holdersOf (s : State) (slice off n : Nat) : Option State :=
  s.clearHolders slice (linesOf ((List.range n).map fun j => (s.localPhys slice (off + j), 0)))

end Sys2Proof.Machine
end

