-- ==== Sys2Proof/Machine/Translate.lean ====
section
/-! DEFINITION. Address translation (03): TLB lookups, the classes of SPA, shadow windows (05 R130, R131), the paths of
host and peer accesses (17 R462 to R466, R471), page walks, page faults, replay and invalidation. -/

namespace Sys2Proof.Machine

/-! ### Paths to the host and to peers (R462 to R466, R471, R474) -/

/-- What a path does with an access now; `full` says that it waits at its sender, for its slice's allowance (R466) or for a gated
crossing (R14), and the last two what the read of its route meets (R71, R453, R465). -/
inductive Path where
  | up | parked | down | full | refused | poisoned
  | pull (page : Nat)
  deriving DecidableEq, Repr

/-- An edge group's record. -/
def State.edge (s : State) (n : Nat) : EdgeSt := s.edges.getD n EdgeSt.reset

/-- The group carries host class (R462). -/
def EdgeSt.hostPath (e : EdgeSt) : Bool := e.state == 0 && e.mode == 1 && e.cxluse == 0

/-- Host class has a live path (R462). -/
def State.hostUp (s : State) : Bool := s.portH || s.edges.any EdgeSt.hostPath

/-- The live host paths (R462): Port H, which is no edge group, then the groups, ascending. -/
def State.hostPaths (s : State) : List (Option Nat) :=
  (if s.portH then [none] else []) ++ ((List.range 16).filter fun n => (s.edge n).hostPath).map some

/-- Something that a group parks is parked (R471). -/
def State.parkedClass (s : State) (bit : Nat) : Bool := s.edges.any fun e => e.parks.testBit bit

/-- The logical plane of a peer line (R463). -/
def State.plane (s : State) (spa : Nat) : Nat :=
  match fieldOfWord (s.reg 0 0x2100) 0 2 with
  | 0 => 0
  | 1 => spa / 2 ^ 13 % 2
  | 2 => spa / 2 ^ 13 % 4
  | _ => spa / 2 ^ 13 % 8

/-- An access to the host or to a peer that has been parked since a time has been parked for 40 ms: a group still parks it, and one switch
alone, which unparks within 39 ms, is no reason (R470, R471). -/
def State.parkedOut (s : State) (k : Phys) (since : Nat) : Bool :=
  let bit := if k.isHost then 8 else s.plane k
  decide (since + millis 40 ≤ s.clock) && s.edges.any fun e => e.parks.testBit bit && decide (since + millis 1 ≤ e.began)

/-- The groups that carry a plane, ascending (R463). -/
def State.planeGroups (s : State) (p : Nat) : List Nat :=
  (List.range 16).filter fun n => (s.reg 0 (0x2110 + 4 * p)).toNat.testBit n

/-- The group a peer line travels on (R463). -/
def State.peerGroup (s : State) (spa : Nat) : Option Nat :=
  let gs := s.planeGroups (s.plane spa)
  gs[spa / 2 ^ 16 % 256 % gs.length]?

/-- An entry of the route catalogue lets the access leave (R464). -/
def routeOk (e : Nat) : Bool :=
  let nhop := e / 2 ^ 60 % 8
  e.testBit 63 && decide (1 ≤ nhop) && decide (nhop ≤ 6)
    && (List.range 6).all fun h => decide (h < nhop) || e / 2 ^ (8 * h) % 256 == 0

/-- The bytes a request to an atomic service unit works on. -/
def AsuReq.size (r : AsuReq) : Nat :=
  match r.kind with
  | .atomic _ _ w64 _ _ => if w64 then 8 else 4
  | .cas128 _ => 16
  | .sigs _ => 16
  | .sigw _ _ _ => 16
  | _ => 64

/-- The edge group that an access to a byte of the host or of a peer travels on (R462, R463). -/
def State.groupOf (s : State) (k : Phys) : Option Nat :=
  if k.isPeer then s.peerGroup k
  else if k.isHost then
    let ps := s.hostPaths
    (ps[k % 2 ^ 48 / 4096 % ps.length]?).join
  else none

/-- Bytes of a slice's requests and write data in flight on a group (R466). -/
def State.inFlight (s : State) (slice group : Nat) : Nat :=
  (s.ops.map fun o => match o.kind with
    | .load parts _ _ _ _ => if s.leader (sliceOf o.core) == s.leader slice && o.parkedAt.isNone then
        (parts.map fun p => if s.groupOf p.1 == some group then p.2 else 0).sum else 0
    | _ => 0).sum
  + (s.homeWrites.map fun h => if s.leader h.slice == s.leader slice then
      (h.cells.filter fun c => s.groupOf c.1 == some group).length else 0).sum
  + (s.asu.map fun r => if !r.waiting && s.leader (sliceOf r.core) == s.leader slice && s.groupOf r.key == some group then
      r.size else 0).sum

/-- A group has room in a slice's send allowance for that many bytes more (R466); 0 for an access that is in flight already. -/
def State.allows? (s : State) (slice group len : Nat) : Bool :=
  let kib := fieldOfWord (s.reg 0 (0x2200 + 4 * (16 * group + s.leader slice))) 0 20
  len == 0 || decide (s.inFlight slice group + len ≤ kib * 1024)

/-- The accesses of one instruction, each key with its bytes, together exceed an allowance of which something is in flight (R466); alone
they leave together (DESIGN CHOICE, log entry 108). -/
def State.crowded (s : State) (slice : Nat) (ps : List (Phys × Nat)) : Bool :=
  (unionNat (ps.filterMap fun p => s.groupOf p.1) []).any fun g =>
    s.inFlight slice g != 0 && !s.allows? slice g ((ps.filter fun p => s.groupOf p.1 == some g).map Prod.snd).sum

/-- An access of a slice waits for a gated crossing on its way to a local byte (R14). -/
def State.gatedTo (s : State) (slice : Nat) (k : Phys) : Bool := !s.crossOpen (slice / 4) (k / 2 ^ 36 / 4)

/-- The field in which an access to the host or to a peer leaves the package: that of its edge group, or field 0 for Port H (R13, R461). -/
def portField : Option Nat → Nat
  | some g => g / 4
  | none => 0

/-- An access that leaves by a port: it waits while a crossing on its way is gated (R14) or its group's allowance is full (R466). -/
def State.leaveBy (s : State) (slice : Nat) (group : Option Nat) (len : Nat) : Path :=
  if !s.crossOpen (slice / 4) (portField group) then .full
  else match group with
    | some g => if s.allows? slice g len then .up else .full
    | none => .up

/-- The local offset of the route catalogue's entry for a peer line (R464). -/
def State.routeOff (s : State) (slice : Nat) (k : Phys) : Nat :=
  fieldOfWord (s.vreg slice 0x1100) 0 28 * 4096 + 8 * (4 * (k / 2 ^ 40 % 1024) + s.plane k % 4)

/-- The path of an access of `len` bytes to a physical byte now, for a core or engine of a slice: one to another field waits at its
sender while a crossing on its way is gated (R14). A peer's route is read as a page table is (R465). -/
def State.path (s : State) (slice : Nat) (k : Phys) (len : Nat) : Path :=
  if k.isLocal then (if s.gatedTo slice k then .full else .up)
  else if k.isHost then
    if s.parkedClass 8 then .parked
    else if !s.hostUp then .down
    else s.leaveBy slice (s.groupOf k) len
  else
    let off := s.routeOff slice k
    match s.pullPage slice off 8 with
    | some p => .pull p
    | none =>
      if s.localPoisoned slice off 8 then .poisoned
      else if !routeOk (leNat (s.readLocal slice off 8)) then .refused
      else if s.parkedClass (s.plane k) then .parked
      else match s.peerGroup k with
        | none => .down
        | some g => s.leaveBy slice (some g) len

/-- The read of a peer access's route passes through the slice's banks under L2B_SYSPID (R71, R96, R465). -/
def State.readRoute (s : State) (slice : Nat) (k : Phys) : State :=
  let off := s.routeOff slice k
  if k.isPeer && decide (off < s.localSize slice) then s.readL2 slice (s.sysPid slice) (s.localPhys slice off) else s

/-! ### SPA classes (R64, R65) -/

/-- The physical byte of an SPA for a slice; none where R64 or R65 is broken. -/
def State.physOf (s : State) (slice spa : Nat) : Option Phys :=
  let cls := spa / 2 ^ 48
  if cls = 0 then (if spa < s.localSize slice then some (s.localPhys slice spa) else none)
  else if cls = 1 then some (s.hostPhys slice spa)
  else if 4 ≤ cls ∧ cls < 8 then
    let id := s.reg 0 0x2104
    if id.toNat.testBit 31 && fieldOfWord id 0 10 != spa / 2 ^ 40 % 1024 then some spa else none
  else none

/-! ### Shadow windows (R130, R131) -/

/-- The enabled window of an address space that holds a page; of several, the lowest-numbered (DESIGN CHOICE, log entry 82). -/
def State.window? (s : State) (slice asid page : Nat) : Option Nat :=
  (List.range 16).find? fun n =>
    let ctl := s.vreg slice (0x804 + 16 * n)
    let base := (s.vreg slice (0x800 + 16 * n)).toNat
    ctl.toNat.testBit 31 && fieldOfWord ctl 16 8 == asid && decide (base ≤ page)
      && decide (page < base + fieldOfWord ctl 0 16)

/-- The SPA of a virtual address through a leaf; none where R130 is broken, or in a window whose registers were written against R132:
the fault that R9 asks for, contained in the slice, is taken by the accesses to it (DESIGN CHOICE, log entry 91). -/
def State.spaOf (s : State) (slice asid : Nat) (leaf : Leaf) (va : Nat) (shadow : Bool) : Option Nat :=
  let page := va / 65536
  match s.window? slice asid page with
  | none => if leaf.shw then none else some (leaf.spa + (page - leaf.page) * 65536 + va % 65536)
  | some n =>
    if leaf.pages != 1 || (leaf.spa / 65536) % 2 == 1 || !leaf.shw || (s.slice (s.leader slice)).badWin.contains n then none
    else
      let phase := (s.vreg slice (0x804 + 16 * n)).toNat.testBit 30
      some (leaf.spa + (if xor phase shadow then 65536 else 0) + va % 65536)

/-! ### Lookups (R68, R73, R74) -/

/-- What a translation gives: a physical byte and its leaf, a miss that needs a walk, a page that must be pulled
(R453), or a fault. -/
inductive Look where
  | ok (k : Phys) (leaf : Leaf)
  | miss
  | pull (page : Nat)
  | bad (cause : Nat)
  deriving DecidableEq, Repr

/-- A leaf permits an access (R73). -/
def Leaf.permits (l : Leaf) (a : Access) : Bool :=
  match a with
  | .load => l.r
  | .copyRead => l.r
  | .store => l.w
  | .copyWrite => l.w
  | .atomic => l.r && l.w
  | .fetch => l.x

/-- A TLB entry holds a page of an address space. -/
def TlbEntry.covers (e : TlbEntry) (place slice asid page : Nat) : Bool :=
  e.core == place && e.slice == slice && e.asid == asid && decide (e.leaf.page ≤ page) && decide (page < e.leaf.page + e.leaf.pages)

/-- What a core's TLB holds for a page. -/
def State.tlbLeaf (s : State) (core slice asid page : Nat) : Option Leaf :=
  (s.tlb.find? fun e => e.covers core slice asid page).map TlbEntry.leaf

/-- What the TLB of a core's cluster holds for a page. -/
def State.clusterLeaf (s : State) (core slice asid page : Nat) : Option Leaf :=
  (s.ctlb.find? fun e => e.covers (clusterOf core) slice asid page).map TlbEntry.leaf

/-- Add to a list that has room for `size` entries of a kind; where it is full, any one of them leaves. -/
def State.addSized {α : Type} [BEq α] (s : State) (size : Nat) (kind : α → Bool) (e : α) (l : List α) : List α × State :=
  let mine := l.filter kind
  if mine.length < size then (e :: l, s)
  else
    let (out, s) := s.choose mine
    (e :: l.filter (fun o => !(some o == out)), s)

/-- A core's TLB takes an entry: it has 256 (R74). -/
def State.fillTlb (s : State) (e : TlbEntry) (page : Nat) : State :=
  let (l, s) := s.addSized 256 (fun o => o.core == e.core) e (s.tlb.filter fun o => !o.covers e.core e.slice e.asid page)
  { s with tlb := l }

/-- A cluster's TLB takes an entry: it has 4,096 (R74). -/
def State.fillCluster (s : State) (e : TlbEntry) (page : Nat) : State :=
  let e := { e with core := clusterOf e.core }
  let (l, s) := s.addSized 4096 (fun o => o.core == e.core) e (s.ctlb.filter fun o => !o.covers e.core e.slice e.asid page)
  { s with ctlb := l }

/-- The leaves that walks have given a context's instruction, or a copy, without caching them (R81). -/
def State.lentTo (s : State) (ctx copy : Option Nat) : List Leaf :=
  (s.lent.filter fun e => e.ctx == ctx && e.copy == copy).map Lent.leaf

/-- Translate one byte address for an access on a core (R68, R73, R74). `shadow` names the shadow backing, `lent` the results
of walks that it alone may use (R81). -/
def State.look (s : State) (core slice asid : Nat) (va : Nat) (a : Access) (shadow : Bool) (lent : List Leaf := []) : Look :=
  let lead := s.leader slice
  let given := lent.find? fun l => decide (l.page ≤ va / 65536) && decide (va / 65536 < l.page + l.pages)
  if 2 ^ 48 ≤ va then .bad 0x05
  else match given <|> s.tlbLeaf core lead asid (va / 65536) with
    | none => .miss
    | some leaf =>
      if !leaf.permits a then .miss
      else match s.spaOf slice asid leaf va shadow with
        | none => .bad 0x05
        | some spa =>
          match s.physOf slice spa with
          | none => .bad 0x05
          | some k =>
            if a == .fetch && !k.isLocal then .bad 0x05
            else if k.isLocal then
              match s.pullPage slice spa 1 with
              | some p => .pull p
              | none => .ok k leaf
            else .ok k leaf

/-! ### Page walks (R68 to R71) -/

/-- How a walk ends. -/
inductive WalkEnd where
  | leaf (l : Leaf)
  | absent
  | malformed
  | poisoned
  | pull (page : Nat)
  deriving DecidableEq, Repr

/-- A page-table entry is malformed at a level (R70, R71). -/
def State.badEntry (s : State) (slice level e : Nat) : Bool :=
  let tab := e.testBit 1
  let addr := e / 2 ^ 12 % 2 ^ 40
  let below := if level = 2 then 18 else if level = 3 then 9 else 4
  e / 2 ^ 52 != 0 || e / 2 ^ 9 % 8 != 0 || e.testBit 7
    || (!tab && level == 1) || (tab && level == 4)
    || (tab && e / 4 % 128 != 0)
    || (tab && (decide (2 ^ 36 ≤ addr) || decide (s.localSize slice ≤ addr * 4096)))
    || (!tab && addr % 2 ^ below != 0)
    || e / 32 % 4 == 3 || (e.testBit 3 && !e.testBit 2)

/-- An ASID-table entry with V = 1 is malformed (R69). -/
def State.badRoot (s : State) (slice e : Nat) : Bool :=
  e / 2 ^ 40 != 0 || e / 2 % 2 ^ 11 != 0 || decide (s.localSize slice ≤ e / 4096 % 2 ^ 28 * 4096)

/-- A read of a walk: the level (0 for the ASID table), the span of virtual pages the entry covers, the local offset, the entry,
and whether it came out of the walk service's cache (R74). -/
structure WalkRead where
  level : Nat
  span : Nat
  off : Nat
  entry : Nat
  cached : Bool
  deriving DecidableEq, Repr

/-- The bits of a virtual address above the span that an entry of a level covers (R68). -/
def levelShift (level : Nat) : Nat := if level = 0 then 48 else if level = 4 then 16 else 48 - 9 * level

/-- Read an entry for a walk, out of a cache or at its local offset: the entry, or how the walk ends and the read that found it so (R71,
R453). -/
def State.readEntry (s : State) (slice va : Nat) (cache : Nat → Nat → Option Nat) (level off : Nat) : Except (WalkEnd × List WalkRead) WalkRead :=
  let span := va / 2 ^ levelShift level
  match cache level span with
  | some e => .ok { level := level, span := span, off := off, entry := e, cached := true }
  | none =>
    match s.pullPage slice off 8 with
    | some p => .error (.pull p, [])
    | none =>
      if s.localPoisoned slice off 8 then .error (.poisoned, [{ level := level, span := span, off := off, entry := 0, cached := false }])
      else .ok { level := level, span := span, off := off, entry := leNat (s.readLocal slice off 8), cached := false }

/-- Walk from a level's table; `left` counts the levels below. It gives the end and what was read. -/
def State.walkFrom (s : State) (slice va : Nat) (cache : Nat → Nat → Option Nat) : Nat → Nat → WalkEnd × List WalkRead
  | 0, _ => (.malformed, [])
  | left + 1, table =>
    let level := 4 - left
    let idx := va / 2 ^ levelShift level % (if level = 4 then 32 else 512)
    match s.readEntry slice va cache level (table + 8 * idx) with
    | .error e => e
    | .ok r =>
      let e := r.entry
      if !e.testBit 0 then (.absent, [r])
      else if s.badEntry slice level e then (.malformed, [r])
      else
        let addr := e / 2 ^ 12 % 2 ^ 40 * 4096
        if e.testBit 1 then
          let rest := s.walkFrom slice va cache left addr
          (rest.1, r :: rest.2)
        else
          let pages := if level = 2 then 2 ^ 14 else if level = 3 then 32 else 1
          (.leaf { page := va / 65536 / pages * pages, pages := pages, spa := addr, r := e.testBit 2,
                   w := e.testBit 3, x := e.testBit 4, mt := e / 32 % 4, shw := e.testBit 8 }, [r])

/-- The walk of an address space's page through a cache (R69 to R71): an ASID entry with V = 0 or malformed faults like a
malformed entry. -/
def State.walkBy (s : State) (slice asid page : Nat) (cache : Nat → Nat → Option Nat) : WalkEnd × List WalkRead :=
  let va := page * 65536
  match s.readEntry slice va cache 0 (fieldOfWord (s.vreg slice 0x400) 0 28 * 4096 + 8 * asid) with
  | .error e => e
  | .ok r =>
    let e := r.entry
    if !e.testBit 0 || s.badRoot slice e then (.malformed, [r])
    else
      let rest := s.walkFrom slice va cache 4 (e / 4096 % 2 ^ 28 * 4096)
      (rest.1, r :: rest.2)

/-- The walk of a page by the tables as they are. -/
def State.walk (s : State) (slice asid page : Nat) : WalkEnd := (s.walkBy slice asid page fun _ _ => none).1

/-- What a field's walk service holds of an address space's tables (R74). -/
def State.cachedEntry (s : State) (field slice asid level span : Nat) : Option Nat :=
  (s.wcache.find? fun e => e.field == field && e.slice == slice && e.asid == asid && e.level == level && e.span == span).map
    WalkEntry.entry

/-- The walk of a page by a field's walk service. -/
def State.walkIn (s : State) (field slice asid page : Nat) : WalkEnd × List WalkRead :=
  s.walkBy slice asid page (s.cachedEntry field slice asid)

/-- The reads of a walk pass through the slice's L2 banks under L2B_SYSPID (R71, R96). -/
def State.walkReads (s : State) (slice : Nat) (rs : List WalkRead) : State :=
  (rs.filter fun r => !r.cached && decide (r.off < s.localSize slice)).foldl
    (fun t r => t.readL2 slice (t.sysPid slice) (t.localPhys slice r.off)) s

/-- The walk service's cache of 256 entries takes the table entries a walk has read; one that is not valid or is malformed, and
a leaf, it does not take (R74). -/
def State.cacheReads (s : State) (field slice asid : Nat) (rs : List WalkRead) : State :=
  let sound (r : WalkRead) : Bool :=
    if r.level = 0 then !s.badRoot slice r.entry else r.entry.testBit 1 && !s.badEntry slice r.level r.entry
  (rs.filter fun r => !r.cached && r.entry.testBit 0 && sound r).foldl
    (fun t r =>
      let e : WalkEntry := { field := field, slice := slice, asid := asid, level := r.level, span := r.span, entry := r.entry }
      let (l, t) := t.addSized 256 (fun o => o.field == field) e t.wcache
      { t with wcache := l }) s

/-! ### Waiting on a walk or a page -/

/-- Add a waiter to the miss of a page at its field's walk service, making one where there is none (R75): the misses of a core, and
of a cluster, for one page are one request. -/
def State.joinWalk (s : State) (slice asid page : Nat) (w : Waiter) : Nat × State :=
  let lead := s.leader slice
  let f := fieldOf w.core
  match s.walks.find? fun k => k.field == f && k.slice == lead && k.asid == asid && k.page == page with
  | some k => (k.id, { s with walks := updWhere (fun j => j.id == k.id) (fun j => { j with waiters := j.waiters ++ [w] }) s.walks })
  | none =>
    let (id, s) := s.fresh
    (id, { s with walks := s.walks ++ [{ id := id, field := f, slice := lead, asid := asid, page := page, waiters := [w],
                                         started := false, fresh := true }] })

/-- The requests that cores send their cluster TLBs for a walk, and those that clusters send the walk service (R75): one each. -/
def Walk.coreRequests (k : Walk) : List Nat := unionNat (k.waiters.map Waiter.core) []
def Walk.clusterRequests (k : Walk) : List Nat := unionNat (k.coreRequests.map clusterOf) []

/-- The misses that hold an entry of their field's merge table: a slice holds at most 256 and the table 1,024, and another miss waits at
its cluster TLB until one frees (R76). -/
def State.merged (s : State) (field : Nat) : List Walk :=
  (s.walks.filter fun k => k.field == field).foldl (fun acc k =>
    if acc.length < 1024 && (acc.filter fun j => j.slice == k.slice).length < 256 then acc ++ [k] else acc) []

/-- The miss that a free walker of a field takes next: the 64 walkers go round the slices that have entries waiting, and within a
slice take them in the order they were allocated (R76). -/
def State.nextWalk (s : State) (field : Nat) : Option Walk :=
  let mine := s.walks.filter fun k => k.field == field
  if 64 ≤ (mine.filter Walk.started).length then none
  else
    let turn := (s.fields.getD field FieldSt.reset).turn
    argMin (fun k => (k.slice + 16 - turn) % 16) ((s.merged field).filter fun k => !k.started)

/-- Who waits, of a context's items: for their walk, their page fault or their pulled page. -/
def Ctx.waiter (x : Ctx) (cs : List Nat) (a : Access) (va : Nat) (pc : DWord) (whole : Bool) (vas : List (Nat × Nat) := []) : Waiter :=
  { ctx := some x.id, copy := none, items := cs, whole := whole, core := x.core, launch := x.launch, cohort := x.cohort,
    access := a, va := .ofNat 64 va, pc := pc, vas := vas }

/-- The address at which an item of a waiter waits (R418). -/
def Waiter.vaOf (w : Waiter) (c : Nat) : DWord := .ofNat 64 (lookupD w.vas c w.va.toNat)

/-- Make the issuing group wait for a page that some of its items need (R74, R75, R77): where its cluster's TLB holds the page the
core takes the entry and the group issues again, else it waits for a walk. -/
def State.waitWalk (s : State) (x : Ctx) (grp cs : List Nat) (l : Launch) (va : Nat) (a : Access) (pc : DWord) (whole : Bool)
    (vas : List (Nat × Nat) := []) : State :=
  let lead := s.leader l.slice
  let miss : State :=
    let (id, s) := s.joinWalk l.slice l.asid (va / 65536) (x.waiter cs a va pc whole vas)
    s.modCtx x.id fun y => y.mapItems grp.contains fun t => { t with wait := .walk id }
  match s.clusterLeaf x.core lead l.asid (va / 65536) with
  | some leaf =>
    if leaf.permits a then s.fillTlb { core := x.core, slice := lead, asid := l.asid, leaf := leaf } (va / 65536) else miss
  | none => miss

/-- Add a waiter to a pending fault of a page and kind (R78), or make a new one. -/
def State.joinFault (s : State) (slice asid page kind : Nat) (a : Access) (launch : Nat) (w : Waiter) : Nat × State :=
  let lead := s.leader slice
  match s.pfaults.find? fun p => p.slice == lead && p.asid == asid && p.page == page && p.kind == kind with
  | some p =>
    (p.id, { s with pfaults := updWhere (fun q => q.id == p.id) (fun q => { q with waiters := q.waiters ++ [w] }) s.pfaults })
  | none =>
    let (id, s) := s.fresh
    (id, { s with pfaults := s.pfaults ++ [{ id := id, slice := lead, asid := asid, page := page, kind := kind,
                                              access := a, launch := launch, waiters := [w], seq := none }] })

/-- A waiter takes a fault instead (R71, R77): its items, its whole context, or its copy, which keeps a status that has been decided
(R141). -/
def State.waiterFault (s : State) (w : Waiter) (cause : Nat) : State :=
  match w.copy, w.ctx with
  | some c, _ => { s with copies := updWhere (fun k => k.id == c) (fun k => { k with fault := none, force := k.force <|> some (if cause = 0x04 then 3 else if cause = 0x0D then 7 else 4) }) s.copies }
  | none, some id =>
    match s.ctx? id with
    | none => s
    | some x =>
      if w.whole then s.faultCtx id cause w.pc w.va false
      else s.faultEach id cause (w.items.filter x.cs.contains) w.pc w.vaOf false
  | none, none => s

/-- What the device itself could not reach fails for a cause (R386, R387, R390, R502): `items` names it, 0 a launch token, 1 a
constant image, 2 the report of the chain that follows, 3 the token of the copy that follows, 4 the header of a launch's kernel object,
5 the token of the scale-out descriptor of the slice and index that follow, 7 the token a launch waits for. -/
def State.deviceFault (s : State) (w : Waiter) (cause : Nat) : State :=
  match w.items with
  | [0] => s.setLaunch w.launch fun l => { l with noToken := true }
  | [1] => { s with consts := updWhere (fun k => k.core == w.core && k.launch == w.launch) (fun k => { k with failed := some cause }) s.consts }
  | [3, c] => { s with copies := updWhere (fun k => k.id == c) (fun k => { k with noTok := true }) s.copies }
  | [5, n, i] => { s with descs := updWhere (fun d => d.slice == n && d.index == i) (fun d => { d with noTok := true }) s.descs }
  | [2, c] => { s with chains := updWhere (fun k => k.id == c) (fun k => { k with noReport := true }) s.chains }
  | [4] => s.setLaunch w.launch fun l => { l with hdrFail := true }
  | [7] => s.setLaunch w.launch fun l => { l with dep := if l.dep == DepState.waiting then .failed else l.dep }
  | _ => s

/-- The items of a context that waited on something go on, but for some (R75). -/
def State.wake (s : State) (ids : List Nat) : State :=
  { s with ctxs := s.ctxs.map fun x => { x with items := x.items.map fun i => match i.wait with
      | .walk n => if ids.contains n then { i with wait := .none, since := s.clock } else i
      | _ => i } }

/-- Some items of a strand wait on a pending fault, cut out as solos (R77, R188). -/
def State.holdItems (s : State) (id : Nat) (cs : List Nat) (fid : Nat) : State :=
  let s := s.modCtx id fun y => y.mapItems cs.contains fun i => { i with wait := .pageFault fid, since := s.clock }
  cs.foldl (fun t c => t.cutSolo id c) s

/-- A waiter waits on a pending fault (R77): its items are cut out as solos, a span having materialised (R320), or the
whole context or the copy waits, unless the copy has been cancelled (R141). -/
def State.holdWaiter (s : State) (w : Waiter) (fid : Nat) : State :=
  match w.copy, w.ctx with
  | some c, _ => { s with copies := updWhere (fun k => k.id == c) (fun k => { k with fault := if k.force.isSome then none else some fid }) s.copies }
  | none, some id =>
    if w.whole then s.modCtx id fun x => { x with held := some fid }
    else
      match s.ctx? id with
      | none => s
      | some x =>
        let s := s.needStrands id
        (s.partsOf x w.items).foldl (fun t q => t.holdItems q.1 q.2 fid) s
  | none, none => s

/-- The KIND of a leaf that does not permit an access (R78). -/
def Leaf.faultKind (l : Leaf) (a : Access) : Nat := if a == .fetch then 2 else if !l.r && a != .store && a != .copyWrite then 3 else 1

/-- One waiter of a walk takes its result (R71, R74, R77); where the result may not be cached it is lent to that access alone (R81). -/
def State.endWait (s : State) (k : Walk) (e : WalkEnd) (w : Waiter) : State :=
  match e with
  | .malformed => s.waiterFault w 0x05
  | .poisoned => s.waiterFault w 0x0A
  | .pull _ => s
  | .absent =>
    let (id, s) := s.joinFault k.slice k.asid k.page 0 w.access w.launch w
    s.holdWaiter w id
  | .leaf l =>
    if l.permits w.access then
      if k.fresh then
        let e : TlbEntry := { core := w.core, slice := k.slice, asid := k.asid, leaf := l }
        (s.fillTlb e k.page).fillCluster e k.page
      else { s with lent := { ctx := w.ctx, copy := w.copy, pc := w.pc, slice := k.slice, leaf := l } :: s.lent }
    else
      let (id, s) := s.joinFault k.slice k.asid k.page (l.faultKind w.access) w.access w.launch w
      s.holdWaiter w id

/-- R75, R76: a walker takes the next miss. -/
def execTlbMissWalk (walk : Nat) (s : State) : Host.Outcome State Fault Refusal :=
  match s.walks.find? fun k => k.id == walk with
  | none => .next s
  | some k =>
    if (s.nextWalk k.field).map Walk.id == some walk then
      .next { s with
        walks := updWhere (fun j => j.id == walk) (fun j => { j with started := true }) s.walks,
        fields := s.fields.modify k.field fun f => { f with turn := (k.slice + 1) % 16 } }
    else .next s

/-- Ask for a page that must be pulled, unless it has been asked for (R453). -/
def State.askPull (s : State) (slice page : Nat) : State :=
  s.setSlice (s.leader slice) fun v => if v.asked page then v else { v with pulling := v.pulling ++ [(page, s.clock)] }

/-- The walks a leaf satisfies (R75). -/
def State.coveredBy (s : State) (k : Walk) (e : WalkEnd) : List Walk :=
  match e with
  | .leaf l => s.walks.filter fun j => j.id == k.id || (j.field == k.field && j.slice == k.slice && j.asid == k.asid && decide (l.page ≤ j.page) && decide (j.page < l.page + l.pages))
  | _ => [k]

/-- R71, R74, R75, R77: a walk ends for every access waiting on it. A walk that needs a pull-pending page asks for it
and goes on waiting (R453). -/
def execWalkComplete (walk : Nat) (s : State) : Host.Outcome State Fault Refusal :=
  match s.walks.find? fun k => k.id == walk && k.started with
  | none => .next s
  | some k =>
    let found := s.walkIn k.field k.slice k.asid k.page
    -- a read across a gated crossing waits at its walker (R14)
    if found.2.any fun r => !r.cached && s.gatedTo (4 * k.field) (s.localPhys k.slice r.off) then .next s
    else match found.1 with
    | .pull p =>
      .next (s.askPull k.slice p)
    | e =>
      let s := s.walkReads k.slice found.2
      let s := if k.fresh then s.cacheReads k.field k.slice k.asid found.2 else s
      let done := s.coveredBy k e
      let ids := done.map Walk.id
      let s : State := { s with walks := s.walks.filter fun j => !ids.contains j.id }
      let s := s.wake ids
      let s : State := { s with invals := s.invals.map fun v => { v with walks := v.walks.filter fun j => !ids.contains j } }
      -- a walk whose result may not be cached gives none of those it satisfies an entry either (R81)
      .next (done.foldl (fun t j => j.waiters.foldl (fun t w => t.endWait { j with fresh := j.fresh && k.fresh } e w) t) s)

/-! ### Page-fault records and their end (R78, R79) -/

/-- The items and contexts that wait on a pending fault (R78). -/
def State.waitingOn (s : State) (p : PFault) : Nat :=
  (s.ctxs.map fun x => (if x.held == some p.id then 1 else 0) + (x.items.filter fun i => i.wait == .pageFault p.id).length).sum

/-- Something waits on a pending fault: items, contexts, a copy, or the device itself. -/
def State.wanted (s : State) (p : PFault) : Bool :=
  s.waitingOn p != 0 || (s.copies.any fun c => c.fault == some p.id) || p.waiters.any fun w => w.ctx.isNone && w.copy.isNone

/-- A pending-fault entry is kept while something waits on it (R78); an access that waits for a pulled page has no such entry. -/
def State.settleFaultEntries (s : State) : State :=
  if s.pfaults.isEmpty then s else { s with pfaults := s.pfaults.filter fun p => p.kind == 4 || s.wanted p }

/-- The record of a pending fault on which `waiting` items and contexts wait (R78). -/
def PFault.record (p : PFault) (waiting seq : Nat) : List Byte :=
  let access := match p.access with
    | .load => 0
    | .store => 1
    | .atomic => 2
    | .fetch => 3
    | .copyRead => 4
    | .copyWrite => 5
  leBytes 4 p.page ++ leBytes 1 p.asid ++ leBytes 1 p.kind ++ leBytes 1 access ++ [0] ++ leBytes 2 seq
    ++ leBytes 2 (min waiting 65535) ++ leBytes 4 p.launch

/-- The first pending fault of a slice without a record. -/
def State.unrecorded (s : State) (slice : Nat) : Option PFault :=
  s.pfaults.find? fun p => p.slice == slice && p.seq.isNone && p.kind != 4 && s.wanted p

/-- The page-fault ring has room, and fewer than 256 entries are pending (R78). -/
def State.pfRoom (s : State) (slice : Nat) : Bool :=
  ((s.vreg slice 0x424).toNat + 1) % 256 != (s.vreg slice 0x428).toNat % 256
    && decide ((s.pfaults.filter fun p => p.slice == slice && p.seq.isSome).length < 256)

/-- R78: the next pending fault of a slice is recorded under the next sequence number, once no peer holds the record's line (R102). -/
def execPageFaultRecord (slice seq : Nat) (s : State) : Host.Outcome State Fault Refusal :=
  let lead := s.leader slice
  match s.unrecorded lead with
  | none => .next s
  | some p =>
    if !s.pfRoom lead || seq != (s.slice lead).pfSeq then .next s
    else
      let head := (s.vreg lead 0x424).toNat % 256
      let at' := fieldOfWord (s.vreg lead 0x420) 0 28 * 4096 + 16 * head
      match s.holdersOf lead at' 16 with
      | some t => .next t
      | none =>
        let s := s.writeLocal lead at' (p.record (s.waitingOn p) seq)
        let s := s.setVreg lead 0x424 (.ofNat 32 ((head + 1) % 256))
        let s := s.setSlice lead fun v => { v with pfSeq := (v.pfSeq + 1) % 65536 }
        let s := { s with pfaults := updWhere (fun q => q.id == p.id) (fun q => { q with seq := some seq }) s.pfaults }
        .next (s.interrupt lead 0 seq)

/-- A waiter of a pending fault re-executes its region and walks again (R79); a copy translates again (R127). -/
def State.replayWaiter (s : State) (fid : Nat) (w : Waiter) : State :=
  match w.copy with
  | some c => { s with copies := updWhere (fun k => k.id == c) (fun k => { k with fault := none }) s.copies }
  | none =>
    if w.whole then
      match w.ctx with
      | none => s
      | some id =>
        match s.ctx? id with
        | some x => if x.held == some fid then s.resumeItems x x.cs false true else s
        | none => s
    else
      { s with ctxs := s.ctxs.map fun x =>
          let mine := x.items.filter fun i => i.wait == .pageFault fid
          match mine with
          | [] => x
          | i :: _ =>
            let y := { x with region := i.entry.region, fflags := i.entry.fflags }
            { y with items := y.items.map fun t => if t.wait == .pageFault fid then t.rollback else t } }

/-- R79, replay. -/
def execFwsReplay (slice seq : Nat) (s : State) : Host.Outcome State Fault Refusal :=
  match s.pfaults.find? fun p => s.serves slice && p.slice == slice && p.seq == some seq with
  | none => .next s
  | some p =>
    let s := { s with pfaults := s.pfaults.filter fun q => q.id != p.id }
    .next (p.waiters.foldl (fun t w => t.replayWaiter p.id w) s)

/-- A waiter of a pending fault takes a fault that is not replayed (R79, R453): its items wherever they now stand, one record for
those of one strand (R418), its whole context, or its copy. -/
def State.failWaiter (s : State) (fid cause : Nat) (w : Waiter) : State :=
  match w.copy with
  | some _ => s.waiterFault w cause
  | none =>
    if w.ctx.isNone then s.deviceFault w cause
    else if w.whole then
      match w.ctx with
      | none => s
      | some id =>
        match s.ctx? id with
        | some x => if x.held == some fid then s.faultCtx id cause w.pc w.va false else s
        | none => s
    else
      let mine := (s.ctxs.filter fun x => x.launch == w.launch && x.cohort == w.cohort).flatMap fun x =>
        (x.items.filter fun i => i.wait == .pageFault fid && w.items.contains i.c).map Item.c
      (blocksOf mine).foldl (fun t j =>
        let cs := mine.filter fun c => c / 64 == j
        t.faultCut w.launch w.cohort cause cs w.pc (w.vaOf ((argMin id cs).getD 0))) s

/-- R79, fail: every waiter takes PageFault. -/
def execFwsFail (slice seq : Nat) (s : State) : Host.Outcome State Fault Refusal :=
  match s.pfaults.find? fun p => s.serves slice && p.slice == slice && p.seq == some seq with
  | none => .next s
  | some p =>
    let s := { s with pfaults := s.pfaults.filter fun q => q.id != p.id }
    .next (p.waiters.foldl (fun t w => t.failWaiter p.id 0x04 w) s)

/-! ### Invalidation (R81) -/

/-- An operation that reaches memory through a translation. -/
def Op.memory (o : Op) : Bool :=
  match o.kind with
  | .load _ _ _ _ _ => true
  | .atomic _ _ _ _ => true
  | .ack _ => true
  | _ => false

/-- What FWS_INVCMD holds after an accepted GO (R85). -/
def invCmd (kind asid : Nat) : Word := .ofNat 32 (kind % 4 * 2 ^ 16 + asid % 256)

/-- Start an invalidation: store the command's fields, drop the entries it matches, and note what it waits for (R81, R85). A write
while BUSY, and one to the VF of a slice that does not lead its group (R67, R436), is discarded. -/
def State.invalidate (s : State) (slice kind asid : Nat) (hit : TlbEntry → Bool) (tab : WalkEntry → Bool) : State :=
  let stat := s.vreg slice 0x414
  if !s.serves slice || stat.toNat.testBit 0 then s
  else
    let flight := (s.walks.filter fun k => k.slice == slice && k.started).map Walk.id
    let ours (core : Nat) : Bool := s.leader (sliceOf core) == slice
    let v : Inval :=
      { slice := slice, walks := flight, ops := (s.ops.filter fun o => ours o.core && o.memory).map Op.id,
        asu := (s.asu.filter fun r => ours r.core && !r.waiting).map AsuReq.id, mark := s.nextId }
    let s : State := { s with
      tlb := s.tlb.filter (fun e => !(e.slice == slice && hit e)),
      ctlb := s.ctlb.filter (fun e => !(e.slice == slice && hit e)),
      wcache := s.wcache.filter (fun e => !(e.slice == slice && tab e)),
      walks := updWhere (fun k => flight.contains k.id) (fun (k : Walk) => { k with fresh := false }) s.walks,
      invals := s.invals ++ [v] }
    (s.setVreg slice 0x410 (invCmd kind asid)).setVreg slice 0x414 (setField stat 0 1 1)

/-- R81, KIND 00: the page at VAHI:VALO, and the table entries on its way. -/
def execFwsInvalidatePage (slice asid : Nat) (s : State) : Host.Outcome State Fault Refusal :=
  let page := fieldOfWord (s.vreg slice 0x408) 16 16 + fieldOfWord (s.vreg slice 0x40C) 0 16 * 65536
  .next (s.invalidate slice 0 asid
    (fun e => e.asid == asid && decide (e.leaf.page ≤ page) && decide (page < e.leaf.page + e.leaf.pages))
    (fun e => e.asid == asid && e.span == page * 65536 / 2 ^ levelShift e.level))

/-- R81, KIND 01. -/
def execFwsInvalidateAsid (slice asid : Nat) (s : State) : Host.Outcome State Fault Refusal :=
  .next (s.invalidate slice 1 asid (fun e => e.asid == asid) (fun e => e.asid == asid))

/-- R81, KIND 10. -/
def execFwsInvalidateSlice (cmd : SliceInval) (s : State) : Host.Outcome State Fault Refusal :=
  .next (s.invalidate cmd.slice 2 cmd.asid (fun _ => true) (fun _ => true))

/-- The results lent to accesses that have since been made are spent, and the invalidations of their slice wait for those accesses
too (R81). -/
def State.settleLent (s : State) : State :=
  if s.lent.isEmpty then s
  else
    let live (e : Lent) : Bool := match e.ctx, e.copy with
      | some id, _ => s.ctxs.any fun x => x.id == id && x.items.any fun i => i.pc == e.pc
      | none, some id => s.copies.any fun c => c.id == id
      | none, none => false
    let spent := s.lent.filter fun e => !live e
    let more (v : Inval) : Inval :=
      if spent.any fun e => e.slice == v.slice then
        let ours (core : Nat) : Bool := s.leader (sliceOf core) == v.slice
        { v with ops := (s.ops.filter fun o => ours o.core && o.memory).map Op.id,
                 asu := (s.asu.filter fun r => ours r.core && !r.waiting).map AsuReq.id, mark := s.nextId }
      else v
    { s with lent := s.lent.filter live, invals := s.invals.map more }

/-- What an invalidation waits for is over (R81): its walks and the accesses that take their results, its accesses, and the stores
that were dirty in L1, which have been written back and acknowledged. -/
def State.invalDone (s : State) (v : Inval) : Bool :=
  !(s.walks.any fun k => v.walks.contains k.id) && !(s.lent.any fun e => e.slice == v.slice)
    && !(s.ops.any fun o => v.ops.contains o.id || (o.kind.isAck && s.leader (sliceOf o.core) == v.slice && decide (o.born < v.mark)))
    && !(s.asu.any fun r => v.asu.contains r.id && !r.waiting)
    && !(s.l1.any fun l => !l.dirty.isEmpty && s.leader (sliceOf l.core) == v.slice && decide (l.order < v.mark))

/-- R81: DONE sets and BUSY clears. -/
def execInvalidationDone (slice : Nat) (s : State) : Host.Outcome State Fault Refusal :=
  let lead := s.leader slice
  match s.invals.find? fun v => v.slice == lead with
  | none => .next s
  | some v =>
    if s.invalDone v then
      let s : State := { s with invals := s.invals.filter fun w => w.slice != lead }
      .next (s.setVreg lead 0x414 2)
    else .next s

end Sys2Proof.Machine
end

