-- ==== Sys2Proof/Machine/Cache.lean ====
section
/-! DEFINITION. The L1 data cache, writes that leave a core, their homes and acknowledgements, the order between fields,
release and acquire (04 R100 to R104, 12 R343 to R353). -/

namespace Sys2Proof.Machine

/-! ### L1 (R345) -/

/-- A core's L1 line. -/
def State.l1Line? (s : State) (core line : Nat) : Option L1Line := s.l1.find? fun l => l.core == core && l.line == line

/-- The clean bytes of a line may still be hit: a clean line leaves 65,536 cluster clocks after its fill (R345). -/
def State.l1Fresh (s : State) (l : L1Line) : Bool := decide (s.clock < l.filled + s.fieldClocks (fieldOf l.core) 65536)

/-- The byte an access of a core finds in its L1; a clean byte only when `clean` (R345, R348). -/
def State.l1Byte (s : State) (core : Nat) (k : Phys) (clean : Bool) : Option Byte :=
  match s.l1Line? core (lineOf k) with
  | none => none
  | some l =>
    match l.bytes.find? fun b => b.1 == k % 128 with
    | none => none
    | some b => if l.dirty.contains (k % 128) || (clean && s.l1Fresh l) then some b.2 else none

/-- Replace, add or remove a core's L1 line; a line without bytes is not kept. -/
def State.setL1 (s : State) (l : L1Line) : State :=
  let rest := s.l1.filter fun m => !(m.core == l.core && m.line == l.line)
  { s with l1 := if l.bytes.isEmpty then rest else l :: rest }

/-- The set of a line in an L1 of 256 KiB in eight ways (R16): its number modulo 256 (DESIGN CHOICE, log entry 100). -/
def l1Set (line : Nat) : Nat := line % 256

/-- The lines of a core's L1 that share a set with a line and are not it. -/
def State.l1Mates (s : State) (core line : Nat) : List L1Line :=
  s.l1.filter fun l => l.core == core && l.line != line && l1Set l.line == l1Set line

/-- The line that leaves when a core's L1 takes another line into its set (R16): the least recently used of eight (DESIGN CHOICE, log
entry 100). -/
def State.l1Victim (s : State) (core line : Nat) : Option L1Line :=
  let mates := s.l1Mates core line
  if mates.length < 8 || (s.l1Line? core line).isSome then none else argMin L1Line.used mates

/-- The line that leaves the dirty-line FIFO of 512 entries when another enters it: its head (R16, R345). -/
def State.fifoHead (s : State) (core : Nat) : Option L1Line :=
  let mine := s.l1.filter fun l => l.core == core && !l.dirty.isEmpty
  if mine.length < 512 then none else argMin L1Line.order mine

/-- A line of a core's L1, or an empty one in its place. -/
def State.l1LineD (s : State) (core line stamp : Nat) : L1Line :=
  (s.l1Line? core line).getD { core := core, line := line, bytes := [], dirty := [], filled := s.clock, order := stamp, used := stamp, issuer := [] }

/-- A store of an item into L1: the bytes become dirty; a line that first becomes dirty enters the dirty-line FIFO
(R345); `ev` makes the line the first to be replaced, here and in L2 (R315). -/
def State.l1Store (s : State) (core : Nat) (owner : Nat × Nat × Nat) (ev : Bool) (cells : List (Nat × Byte)) : State :=
  (linesOf cells).foldl (fun t line =>
    let mine := (cells.filter fun c => lineOf c.1 == line).map fun c => (c.1 % 128, c.2)
    let (stamp, t) := t.fresh
    let l := t.l1LineD core line stamp
    let bytes := mine.foldl (fun acc b => b :: acc.filter fun o => o.1 != b.1) l.bytes
    t.setL1 { l with bytes := bytes, dirty := unionNat l.dirty (mine.map Prod.fst),
                     order := if l.dirty.isEmpty then stamp else l.order, used := if ev then 0 else stamp,
                     issuer := if l.issuer.contains owner then l.issuer else owner :: l.issuer, ev := ev }) s

/-- A load fills a line with what its home gave (R345); dirty bytes stay. A clean line leaves its set for it; where all eight are dirty
nothing is filled (DESIGN CHOICE, log entry 100). -/
def State.l1Fill (s : State) (core line : Nat) (ev : Bool) (bytes : List (Nat × Byte)) : State :=
  let (stamp, s) := s.fresh
  let fill (s : State) : State :=
    let l := s.l1LineD core line stamp
    let keep := l.bytes.filter fun b => l.dirty.contains b.1
    let new := bytes.filter fun b => !l.dirty.contains b.1
    s.setL1 { l with bytes := keep ++ new, filled := s.clock, used := if ev then 0 else stamp }
  match s.l1Victim core line with
  | none => fill s
  | some _ =>
    match argMin L1Line.used ((s.l1Mates core line).filter fun l => l.dirty.isEmpty) with
    | some v => fill (s.setL1 { v with bytes := [] })
    | none => s

/-- A line that a load hits is the most recently used of its set (R16). -/
def State.l1Use (s : State) (core line : Nat) (ev : Bool) : State :=
  match s.l1Line? core line with
  | none => s
  | some l =>
    let (stamp, s) := s.fresh
    s.setL1 { l with used := if ev then 0 else stamp }

/-- Drop every clean byte of a core's L1, or of some lines of it (R348). -/
def State.dropClean (s : State) (core : Nat) (which : Nat → Bool) : State :=
  let ls := s.l1.map fun l => if l.core == core && which l.line then { l with bytes := l.bytes.filter fun b => l.dirty.contains b.1 } else l
  { s with l1 := ls.filter fun l => !l.bytes.isEmpty }

/-- Drop every clean line of a core's L1; dirty lines stay as they are (R331). -/
def State.dropCleanLines (s : State) (core : Nat) : State :=
  { s with l1 := s.l1.filter fun l => !(l.core == core && l.dirty.isEmpty) }

/-! ### Writes that leave a core (R347) -/

/-- The partition of a launch's accesses (R96). -/
def State.pidOf (s : State) (launch slice : Nat) : Nat :=
  match s.launch? launch with
  | some l => l.pid
  | none => s.sysPid slice

/-- The field of a core and of a local byte. -/
def homeField (k : Phys) : Nat := k / 2 ^ 36 / 4

/-- Add an acknowledgement that the items of each context wait for (R347): one operation for each launch and cohort. `born` is the place
of a line that was dirty among the core's writes, where one is written back. -/
def State.owe (s : State) (issue core : Nat) (owners : List (Nat × Nat × Nat)) (home : Home) (pc va : DWord) (parked : Bool)
    (born : Option Nat := none) : State :=
  let keys := owners.foldl (fun acc o => if acc.contains (o.1, o.2.1) then acc else acc ++ [(o.1, o.2.1)]) []
  keys.foldl (fun t (key : Nat × Nat) =>
    let (id, t) := t.fresh
    let items := (owners.filter fun o => o.1 == key.1 && o.2.1 == key.2).map fun o => o.2.2
    { t with ops := t.ops ++ [{ id := id, issue := issue, core := core, launch := key.1, cohort := key.2, items := items,
                                flag := none, dst := [], kind := .ack home, va := va, pc := pc, back := none, fl := 0,
                                parkedAt := if parked then some t.clock else none, cross := [], nofill := [],
                                ev := false, born := born.getD id }] }) s

/-- b is a or later, within a window of 2^19 (R352). -/
def seqGe (b a : Nat) : Bool := decide ((b + 2 ^ 20 - a) % 2 ^ 20 < 2 ^ 19)
/-- The later of two entries (R351, R352). -/
def maxSeq (a b : Nat) : Nat := if seqGe b a then b else a

/-- The sequence numbers of what has left one field for another and has not been applied. -/
def State.crossing (s : State) (src dst : Nat) : List Nat :=
  (s.xwrites.filter fun w => w.src == src && w.dst == dst).map XWrite.seq
    ++ (s.asu.filter fun r => !r.stamp.isEmpty && fieldOf r.core == src && homeField r.key == dst).map AsuReq.seq

/-- A field may send `n` more writes to a field: both have come up with what lies between them (R14), and the last one's sequence number
is less than 2^19 ahead of the oldest write the field has sent, to any field, that has not been applied (R352). -/
def State.mayCross (s : State) (src dst : Nat) (n : Nat := 1) : Bool :=
  let next := ((s.fields.getD src FieldSt.reset).vc.getD src 0 + n) % 2 ^ 20
  s.crossOpen src dst
    && ((List.range 4).flatMap (s.crossing src)).all fun q => decide ((next + 2 ^ 20 - q) % 2 ^ 20 < 2 ^ 19)

/-- A field stamps a write to another (R351): its sequence number and the stamp. -/
def State.stampTo (s : State) (f g : Nat) : Nat × List Nat × State :=
  let me := s.fields.getD f FieldSt.reset
  let seq := (me.vc.getD f 0 + 1) % 2 ^ 20
  let vc := me.vc.set f seq
  (seq, vc, { s with fields := s.fields.set f { me with vc := vc, sent := me.sent.set g s.clock } })

/-- A field merges a clock it receives (R351). -/
def State.mergeClock (s : State) (f : Nat) (vc : List Nat) : State :=
  let me := s.fields.getD f FieldSt.reset
  { s with fields := s.fields.set f { me with vc := List.zipWith maxSeq me.vc vc } }

/-- A field has received from another a write or a beacon of a sequence number or a later one (R351). What has crossed is received in
order, whether or not it has been applied. -/
def State.received (s : State) (src dst seq : Nat) : Bool :=
  seqGe ((s.fields.getD dst FieldSt.reset).seen.getD src 0) seq || (s.crossing src dst).any fun q => seqGe q seq

/-- What was sent under a stamp may be applied (R351): everything the sender sent earlier has been, the home has
heard from the other fields as far as the stamp says, and what these sent up to there has been applied. -/
def State.mayApply (s : State) (src dst seq : Nat) (stamp : List Nat) : Bool :=
  ((s.crossing src dst).all fun q => seqGe q seq)
    && (List.range 4).all fun h => h == src || h == dst
      || (s.received h dst (stamp.getD h 0) && (s.crossing h dst).all fun q => q != stamp.getD h 0 && seqGe q (stamp.getD h 0))

/-- The home's field takes what was sent under a stamp (R351). -/
def State.takeStamp (s : State) (src dst seq : Nat) (stamp : List Nat) : State :=
  let s := s.mergeClock dst stamp
  let g := s.fields.getD dst FieldSt.reset
  { s with fields := s.fields.set dst { g with seen := g.seen.set src (maxSeq (g.seen.getD src 0) seq) } }

/-- A slice gives up its own copy of a peer line before it writes it (R100), and installs none of the answers under way, which may
be older. -/
def State.giveUpPeer (s : State) (slice line : Nat) : State :=
  let mine (o : Op) : Bool := sliceOf o.core == slice && match o.kind with
    | .load parts _ _ _ _ => parts.any fun p => lineOf p.1 == line
    | _ => false
  let own := s.l2.filter fun l => l.slice == slice && l.line == line
  own.foldl State.dropLine { s with ops := updWhere mine (fun (o : Op) => { o with nofill := insertNat line o.nofill }) s.ops }

/-- A write of bytes of one line leaves a core for its home, which will acknowledge it (R100, R347, R351). -/
def State.leaveCore (s : State) (core pid : Nat) (owners : List (Nat × Nat × Nat)) (line : Nat) (cells : List (Nat × Byte))
    (pc va : DWord) (device : Bool) (ev : Bool) (born : Option Nat := none) : State :=
  let slice := sliceOf core
  let k := line * 128
  let (issue, s) := s.fresh
  let (id, s) := s.fresh
  let parked := s.path slice k cells.length == .parked
  let s := s.owe issue core owners (homeOf k) pc va parked born
  let f := fieldOf core
  if lineLocal line ∧ homeField k ≠ f then
    let g := homeField k
    let (seq, stamp, s) := s.stampTo f g
    let x : XWrite :=
      { id := id, pid := pid, src := f, dst := g, seq := seq, stamp := stamp, cells := cells, ack := some issue, device := device, ev := ev }
    { s with xwrites := s.xwrites ++ [x] }
  else
    let s : State := if linePeer line then s.giveUpPeer slice line else s
    let hw : HomeWrite :=
      { id := id, slice := cacheSlice slice line, line := line, pid := pid, cells := cells, ack := some issue, sent := linePeer line,
        device := device, ev := ev, peer := false }
    { s with homeWrites := s.homeWrites ++ [hw] }

/-- The core's loads that wait for a response to a line do not see what the core has since written back older (R344). -/
def State.noteOwn (s : State) (core line : Nat) (bytes : List (Nat × Byte)) : State :=
  let cover (c : Cross) : Cross := if c.line == line then { c with own := bytes ++ c.own } else c
  { s with ops := updWhere (fun o => o.core == core) (fun (o : Op) => { o with cross := o.cross.map cover }) s.ops }

/-- Write a dirty line of a core back (R345): its dirty bytes leave, and the line stays clean unless it is dropped. -/
def State.writeBack (s : State) (core line : Nat) (drop : Bool) : State :=
  match s.l1Line? core line with
  | none => s
  | some l =>
    let s := if drop then s.setL1 { l with bytes := [], dirty := [] } else s.setL1 { l with dirty := [], issuer := [] }
    if l.dirty.isEmpty then s
    else
      let out := l.bytes.filter fun b => l.dirty.contains b.1
      let pid := match l.issuer with
        | o :: _ => s.pidOf o.1 (sliceOf core)
        | [] => s.sysPid (sliceOf core)
      (s.noteOwn core line out).leaveCore core pid l.issuer line (out.map fun b => (line * 128 + b.1, b.2)) 0 (.ofNat 64 (line * 128)) false
        l.ev (some l.order)

/-- A dirty line may be written back now, with up to `n` writes: at the head of the FIFO or evicted, when its home's path lets it leave (R345,
R352). -/
def State.mayWriteBack (s : State) (l : L1Line) (n : Nat := 1) : Bool :=
  let k := l.line * 128
  !l.dirty.isEmpty && s.path (sliceOf l.core) k 128 != .full
    && (!lineLocal l.line || homeField k == fieldOf l.core || s.mayCross (fieldOf l.core) (homeField k) n)

/-- The line that must leave a core's L1 before it can take a store to a line (R16): the least recently used line of a full set, or
the head of a full dirty-line FIFO. None where there is room. -/
def State.l1Blocker (s : State) (core line : Nat) : Option L1Line :=
  match s.l1Victim core line with
  | some v => some v
  | none =>
    match s.l1Line? core line with
    | some l => if l.dirty.isEmpty then s.fifoHead core else none
    | none => s.fifoHead core

/-- Each of some lines can be given room in a core's L1 now: what would have to leave is clean, or may be written back. -/
def State.l1CanRoom (s : State) (core : Nat) (lines : List Nat) : Bool :=
  lines.all fun line => match s.l1Blocker core line with
    | some v => v.dirty.isEmpty || s.mayWriteBack v lines.length
    | none => true

/-- What is in the way of a store to a line leaves a core's L1, a dirty line written back (R16). -/
def State.l1Room (s : State) (core line : Nat) : State :=
  let once (t : State) : State := match t.l1Blocker core line with
    | some v => t.writeBack core v.line true
    | none => t
  once (once s)

/-- R345. The model lets any dirty line be evicted at any time. -/
def execL1WriteBack (core line : Nat) (s : State) : Host.Outcome State Fault Refusal :=
  match s.l1Line? core line with
  | none => .next s
  | some l => .next (if s.mayWriteBack l then s.writeBack core line false else s)

/-- R345: a clean line is dropped. The model lets a clean line leave earlier, as an eviction does. -/
def execL1CleanLineExpiry (core line : Nat) (s : State) : Host.Outcome State Fault Refusal :=
  match s.l1Line? core line with
  | none => .next s
  | some l => .next (if l.dirty.isEmpty then s.setL1 { l with bytes := [] } else s)

/-! ### Homes (R102 to R104) -/

/-- The operation is the acknowledgement of an issue. -/
def Op.acks (o : Op) (issue : Nat) : Bool :=
  o.issue == issue && match o.kind with
    | .ack _ => true
    | _ => false

/-- The acknowledgements of an issue start back. -/
def State.answer (s : State) (issue : Option Nat) : State :=
  match issue with
  | none => s
  | some n =>
    let ops := updWhere (fun o => o.acks n) (fun (o : Op) => { o with back := some [] }) s.ops
    { s with ops := ops }

/-- The lines of other fields among some pieces that are not of device type (R72, R353). -/
def crossLines (core : Nat) (parts : List (Nat × Nat)) (device : List Nat) : List Nat :=
  ((parts.filter fun p => Phys.isLocal p.1 && homeField p.1 != fieldOf core).map fun p => lineOf p.1).foldl
    (fun acc n => if device.contains n then acc else insertNat n acc) []

/-- A load's part in the crossing read merge of a line. -/
def Op.crossAt (o : Op) (line : Nat) : Option Cross := o.cross.find? fun c => c.line == line

/-- The response of the crossing loads of a field to a line that have one root is taken at its home now (R353); no later load joins
a response of that field taken earlier, nor this one when `last` (R344). -/
def State.sample (s : State) (field line root : Nat) (last : Bool) : State :=
  let bytes := s.lineBytes (line * 128 / 2 ^ 36) line
  let take (c : Cross) : Cross :=
    if c.line != line then c
    else if c.root == root && c.bytes.isNone then { c with bytes := some bytes, shut := last, taken := s.nextId }
    else if c.bytes.isSome then { c with shut := true }
    else c
  { s with ops := updWhere (fun o => fieldOf o.core == field) (fun (o : Op) => { o with cross := o.cross.map take }) s.ops }

/-- A write of a core to one of some lines has left it and has not been performed (R321). -/
def State.writePending (s : State) (core : Nat) (lines : List Nat) : Bool :=
  let mine (ack : Option Nat) : Bool := match ack with
    | none => false
    | some n => s.ops.any fun o => o.acks n && o.core == core
  (s.homeWrites.any fun w => lines.contains w.line && mine w.ack)
    || s.xwrites.any fun w => (w.cells.any fun c => lines.contains (lineOf c.1)) && mine w.ack

/-- The field a write came from, while its acknowledgement is outstanding. -/
def State.srcField (s : State) (issue : Option Nat) : Option Nat :=
  match issue with
  | none => none
  | some n => (s.ops.find? fun o => o.acks n).map fun o => fieldOf o.core

/-- A field has sent a write to a line in another field, numbered from `lo` up to `hi`, that has not been performed. What crosses
between two fields does so in order (R351), so a load of the field behind it does not overtake it. -/
def State.crossBehind (s : State) (field line lo hi : Nat) : Bool :=
  let within (n : Nat) : Bool := decide (lo ≤ n) && decide (n < hi)
  (s.xwrites.any fun w => w.src == field && within w.id && w.cells.any fun c => lineOf c.1 == line)
    || (s.homeWrites.any fun w => within w.id && w.line == line && s.srcField w.ack == some field)
    || s.asu.any fun r => !r.stamp.isEmpty && !r.waiting && fieldOf r.core == field && within r.id && lineOf r.key == line

/-- Before a write is performed at lines that loads of other fields read, the response of each may or may not have been taken
(R353), but not of one behind a write of its own field (R344, R351); after a write of its own field, a load whose response was taken
earlier is joined no more (R344). -/
def State.sampleCross (s : State) (src : Option Nat) (lines : List Nat) : State :=
  s.ops.foldl (fun t o =>
    o.cross.foldl (fun t c =>
      let f := fieldOf o.core
      let own := src == some f
      match (t.ops.find? fun p => p.id == o.id).bind fun p => p.crossAt c.line with
      | none => t
      | some c =>
        if !lines.contains c.line then t
        else match c.bytes with
          | some _ =>
            if own then
              let shut (d : Cross) : Cross := if d.line == c.line && d.bytes.isSome then { d with shut := true } else d
              { t with ops := updWhere (fun p => p.id == o.id) (fun (p : Op) => { p with cross := p.cross.map shut }) t.ops }
            else t
          | none =>
            if c.root != o.id || t.crossBehind f c.line 0 o.id then t
            else
              let (now, t) := t.choose [false, true]
              if now == some true then t.sample f c.line o.id own else t) t) s

/-- The last answer given to the outside. -/
def State.reply (s : State) (r : Resp) : State := { s with resp := some r }

/-- The home performs a write and acknowledges it; a peer that waits for it is answered (R347). The sectors of bytes that came with the
link's poison indication are written with marks (R84). -/
def State.performHome (s : State) (w : HomeWrite) : State :=
  let s : State := { s with homeWrites := s.homeWrites.filter fun v => v.id != w.id }
  let s := s.sampleCross (s.srcField w.ack) (linesOf w.cells)
  let marks := if w.bad then (w.cells.map fun c => sectorOf c.1).foldl (fun acc n => insertNat n acc) [] else []
  let s := (s.performWrite w.slice w.pid w.cells w.device w.ev marks).answer w.ack
  if w.peer then s.reply .ok else s

/-- A write is the first of those waiting at the home of its line (R102). -/
def State.firstAtHome (s : State) (w : HomeWrite) : Bool :=
  match s.homeWrites.find? fun v => v.line == w.line && v.slice == w.slice with
  | some v => v.id == w.id
  | none => false

/-- Stores of a slice that are dropped are counted (R323, R335). -/
def State.dropStores (s : State) (slice n : Nat) : State := s.count slice 0x448 n

/-- R102: the home takes a write. With a directory entry it first sends the invalidations; a host line needs a live
path, and without one the store is dropped (R323, R474). -/
def execHomeWrite (write : Nat) (s : State) : Host.Outcome State Fault Refusal :=
  match s.homeWrites.find? fun w => w.id == write && !w.sent with
  | none => .next s
  | some w =>
    let k := w.line * 128
    if !s.firstAtHome w then .next s
    else if lineLocal w.line then
      match s.dirEntry w.line with
      | some _ => .next { s with homeWrites := updWhere (fun v => v.id == w.id) (fun v => { v with sent := true }) s.homeWrites }
      | none => .next (s.performHome w)
    else
      match s.path w.slice k 0 with
      | .up => .next (s.performHome w)
      | .down =>
        let s : State := { s with homeWrites := s.homeWrites.filter fun v => v.id != w.id }
        .next ((s.dropStores w.slice 1).answer w.ack)
      | _ => .next s

/-- The peer line by which holders know a local line, as far as its path goes (R64, R463): the address within the stack. -/
def holderSpa (line : Nat) : Nat := line * 128 % 2 ^ 36

/-- The way to a holder of a line is parked: its plane's for a peer, the host's for the host (R104). -/
def State.holdersParked (s : State) (line : Nat) : Bool :=
  match s.dirEntry line with
  | none => false
  | some d =>
    ((!d.holders.isEmpty || d.coarse.isSome) && s.parkedClass (s.plane (holderSpa line)))
      || (d.host && (s.parkedClass 8 || s.parkedClass 9))

/-- R102: every holder has acknowledged; the entry is freed, the write performed and the writer answered. A recall
(R104) performs no write. An invalidation to a holder whose link is parked waits (R104). -/
def execInvalidationAcksDone (write : Nat) (s : State) : Host.Outcome State Fault Refusal :=
  match s.homeWrites.find? fun w => w.id == write && w.sent && lineLocal w.line with
  | none => .next s
  | some w =>
    if s.holdersParked w.line then .next s
    else .next (({ s with dir := s.dir.filter fun d => d.line != w.line } : State).performHome w)

/-- R103: a holder drops an invalidated line of a peer and acknowledges; a fill of it that is under way will not be installed. -/
def execHolderInvalidation (slice line : Nat) (s : State) : Host.Outcome State Fault Refusal :=
  if linePeer line then .next ((s.giveUpPeer slice line).reply .ok) else .next s

/-- The accesses that an acknowledgement answers (R323, R335): the items' reductions of a request, else one write. -/
def State.ackWeight (s : State) (issue : Nat) : Nat :=
  match s.asu.find? fun r => r.issue == issue with
  | some r => r.items.length
  | none => 1

/-- R347: an acknowledgement arrives. One from the package needs the write to have been performed; one from a peer comes
from outside, and an error drops the write (R323). -/
def execWriteAcknowledgement (op : Nat) (ok : Bool) (s : State) : Host.Outcome State Fault Refusal :=
  match s.ops.find? fun o => o.id == op with
  | none => .next s
  | some o =>
    match o.kind with
    | .ack .peer =>
      let n := s.ackWeight o.issue
      -- what its core, and its slice, still hold of the lines may be older (R100, R334)
      let lines := ((s.asu.filter fun r => r.issue == o.issue).map fun r => lineOf r.key)
      let mine := (s.homeWrites.filter fun w => w.ack == some o.issue).map HomeWrite.line
      let s : State := { s with
        ops := s.ops.filter (fun p => p.id != op),
        homeWrites := s.homeWrites.filter (fun w => w.ack != some o.issue),
        asu := s.asu.filter fun r => r.issue != o.issue }
      let s := (lines ++ mine).foldl (fun t line => (t.giveUpPeer (sliceOf o.core) line).readRoute (sliceOf o.core) (line * 128))
        (s.dropClean o.core lines.contains)
      .next (if ok then s else s.dropStores (sliceOf o.core) n)
    | .ack (.field g) =>
      if o.back.isSome && ok then
        let s : State := { s with ops := s.ops.filter fun p => p.id != op }
        .next (if g = fieldOf o.core then s else s.mergeClock (fieldOf o.core) (s.fields.getD g FieldSt.reset).vc)
      else .next s
    | .ack .host =>
      if o.back.isSome && ok then .next { s with ops := s.ops.filter fun p => p.id != op } else .next s
    | _ => .next s

/-! ### Between fields (R351, R352) -/

/-- R351: the home's field applies a write and merges its stamp; the home then performs it under R102. -/
def execCrossFieldWriteApply (write : Nat) (s : State) : Host.Outcome State Fault Refusal :=
  match s.xwrites.find? fun w => w.id == write with
  | none => .next s
  | some w =>
    if !s.mayApply w.src w.dst w.seq w.stamp then .next s
    else
      let s : State := { s with xwrites := s.xwrites.filter fun v => v.id != w.id }
      let s := s.takeStamp w.src w.dst w.seq w.stamp
      match w.cells with
      | [] => .next s
      | c :: _ =>
        let line := lineOf c.1
        let hw : HomeWrite := { id := w.id, slice := cacheSlice 0 line, line := line, pid := w.pid, cells := w.cells, ack := w.ack, sent := false,
                                device := w.device, ev := w.ev, peer := false }
        if (s.dirEntry line).isNone && !(s.homeWrites.any fun v => v.line == line) then
          .next (s.performHome hw)
        else .next { s with homeWrites := s.homeWrites ++ [hw] }

/-- A beacon is due: no write for 16 cluster clocks, and news to carry (R352). It comes behind the writes that are under way. -/
def State.beaconDue (s : State) (src dst : Nat) : Bool :=
  let f := s.fields.getD src FieldSt.reset
  let g := s.fields.getD dst FieldSt.reset
  src != dst && s.crossOpen src dst && decide (f.sent.getD dst 0 + s.fieldClocks src 16 ≤ s.clock)
    && g.seen.getD src 0 != f.vc.getD src 0

/-- R352. -/
def execFieldBeacon (src dst : Nat) (s : State) : Host.Outcome State Fault Refusal :=
  if s.beaconDue src dst then
    let f := s.fields.getD src FieldSt.reset
    let g := s.fields.getD dst FieldSt.reset
    let s : State := { s with fields := s.fields.set dst { g with seen := g.seen.set src (f.vc.getD src 0) } }
    let f := s.fields.getD src FieldSt.reset
    .next { s with fields := s.fields.set src { f with sent := f.sent.set dst s.clock } }
  else .next s

/-! ### Release and acquire (R346, R348) -/

/-- Acknowledgements from a kind of home are outstanding for the core of a context (R347): those of the context's own writes, and
those of others' writes whose values its items may have read in the core's L1 (R349, edge 4). -/
def State.owed (s : State) (x : Ctx) (which : Home → Bool) : Bool :=
  s.ops.any fun o => o.core == x.core && match o.kind with
    | .ack h => which h
    | _ => false

/-- The homes whose acknowledgements a release at a scope waits for (R346). -/
def scopeHomes (scope field : Nat) (h : Home) : Bool :=
  match h with
  | .field f => if scope = 0 ∨ scope = 2 then false else decide (5 ≤ scope) || f == field
  | .host => scope == 6
  | .peer => scope == 6

/-- The conditions of a release at a scope hold for a context whose marker is `mark` (R346): lines dirty at the marker
have been written back, and the acknowledgements have arrived. -/
def State.released (s : State) (x : Ctx) (scope mark : Nat) : Bool :=
  let fifo := scope != 0 && scope != 2
    && s.l1.any fun l => l.core == x.core && !l.dirty.isEmpty && decide (l.order < mark)
  !fifo && !(s.owed x (scopeHomes scope (fieldOf x.core)))

/-- A release: when its conditions hold the act goes on, and otherwise the context waits at the instruction, its marker
placed in the FIFO (R346). Items that have joined its group since are not covered by the marker, and another is placed. -/
def State.releaseThen (s : State) (i : Issue) (scope : Nat) (go : State → Act) : Act :=
  let x := i.ctx
  let fresh : Act :=
    if s.released x scope s.nextId then go (s.modCtx x.id fun y => { y with rel := none })
    else
      let (mark, s) := s.fresh
      .set (s.modCtx x.id fun y => { y with rel := some { mark := mark, pc := i.pc, lines := [], items := i.grp.map Item.c } })
  match x.rel with
  | none => fresh
  | some r =>
    if r.pc != i.pc || i.grp.any fun t => !r.items.contains t.c then fresh
    else if s.released x scope r.mark then go (s.modCtx x.id fun y => { y with rel := none })
    else .stall

/-- The steps after an acquire's read (R348): at `.grp` and wider every clean byte of the core's L1 is dropped; at `.dev`
and `.sys` no later load of the context joins an earlier one, and no response that has been taken by then fills the core's L1. -/
def State.acquired (s : State) (ctx scope : Nat) : State :=
  match s.ctx? ctx with
  | none => s
  | some x =>
    let s := if scope = 0 ∨ scope = 2 then s else s.dropClean x.core fun _ => true
    if 5 ≤ scope then (s.modCtx ctx fun y => { y with acq := s.nextId }).setCore x.core fun c => { c with acq := s.nextId } else s

end Sys2Proof.Machine
end

