-- ==== Sys2Proof/Machine/Access.lean ====
section
/-! DEFINITION. Addresses of memory instructions and the checks of their accesses (11 R313 to R319), shelf addresses and
granules (05 R108 to R114), and waiting for pulled pages (16 R453). -/

namespace Sys2Proof.Machine

/-! ### Address operands (R313 to R317) -/

/-- What a memory instruction names: its space, width code, base and index operands, and word2. -/
structure MemForm where
  space : Nat
  w : Nat
  a64 : Bool
  scale : Nat
  base : Src
  index : Src
  off : Int
  scope : Nat
  ord : Nat
  hint : Nat

/-- Bytes of a width code (R317). -/
def widthBytes (w : Nat) : Nat :=
  match w with
  | 0 => 1
  | 1 => 1
  | 2 => 2
  | 3 => 2
  | 4 => 4
  | 5 => 8
  | _ => 16

/-- Registers of a width code (R317). -/
def widthRegs (w : Nat) : Nat := if w = 5 then 2 else if w = 6 then 4 else 1

/-- The effective address of an item (R314). -/
def State.ea (s : State) (i : Issue) (f : MemForm) (t : Item) : Nat :=
  let r := i.launch.rcd
  let word (x : XForm) : Nat := (x.at r i.ctx.cohort t.c).toNat
  let idx := word (s.src32 i.ctx r f.index)
  let lo := word (s.src32 i.ctx r f.base)
  if f.a64 then
    let hi := word (s.srcHi i.ctx r f.base false)
    (((hi * 2 ^ 32 + lo + idx * f.scale : Nat) : Int) + f.off).emod (2 ^ 64) |>.toNat
  else (((lo + idx * f.scale : Nat) : Int) + f.off).emod (2 ^ 32) |>.toNat

/-- The naturally aligned pieces of an access, greedily from the lowest address (R318). -/
def piecesFrom : Nat → Nat → Nat → List (Nat × Nat)
  | 0, _, _ => []
  | fuel + 1, va, n =>
    if n = 0 then []
    else
      let len := if va % 8 = 0 ∧ 8 ≤ n then 8 else if va % 4 = 0 ∧ 4 ≤ n then 4 else if va % 2 = 0 ∧ 2 ≤ n then 2 else 1
      (va, len) :: piecesFrom fuel (va + len) (n - len)

/-- The virtual address of a local offset (R316). -/
def localVa (r : LaunchRec) (cohort c off : Nat) : Nat :=
  r.lbase + off / 16 * 16 * (r.nx * r.ny * r.nz) + 16 * linear r cohort c + off % 16

/-! ### Checks of one item's access (R319) -/

/-- A piece of an access: its physical byte, its length and its memory type. -/
structure Piece where
  key : Phys
  len : Nat
  mt : Nat
  deriving DecidableEq, Repr

/-- What the checks of one item's access find. -/
inductive Chk where
  | ok (parts : List Piece)
  | fault (cause : Nat)
  | walk (va : Nat)
  | pull (page va : Nat)
  | full
  deriving DecidableEq, Repr

/-- Translate the pieces of an access (R319, check 5). Local space is cached as a normal page whatever its pages' types (R316). -/
def State.translate (s : State) (core slice asid space : Nat) (a : Access) (lent : List Leaf) : List (Nat × Nat) → Chk
  | [] => .ok []
  | (va, n) :: rest =>
    match s.look core slice asid va a false lent with
    | .miss => .walk va
    | .pull p => .pull p va
    | .bad c => .fault c
    | .ok k leaf =>
      match s.translate core slice asid space a lent rest with
      | .ok ps => .ok ({ key := k, len := n, mt := if space = 1 then 0 else leaf.mt } :: ps)
      | e => e

/-- Checks 6 and 7 of R319: what an atomic may not touch, and the links. Where no path to the host is up, a store or a reduction
(`drops`) is not stopped: it is dropped on its way (R474). -/
def State.checkLinks (s : State) (slice va : Nat) (drops : Bool) (bad : Piece → Bool) (ps : List Piece) : Chk :=
  if ps.any bad then .fault 0x05
  else
    let at? (p : Piece) : Path := s.path slice p.key p.len
    let paths := (ps.filter fun p => !(drops && Phys.isHost p.key && at? p == .down)).map at?
    let pulls := paths.filterMap fun p => match p with
      | .pull n => some n
      | _ => none
    if let n :: _ := pulls then .pull n va
    else if paths.contains .refused then .fault 0x05
    else if paths.contains .poisoned then .fault 0x0A
    else if paths.contains .down then .fault 0x0C
    else if paths.contains .full then .full
    else .ok ps

/-- The checks of R319 on a global or local access of an item. `aligned` asks for natural alignment (an atomic), `drops` says that
the access is a store or a reduction. -/
def State.checkAccess (s : State) (i : Issue) (space va n : Nat) (t : Item) (a : Access) (aligned : Nat) (drops : Bool)
    (bad : Piece → Bool) : Chk :=
  if (space == 0 && decide (2 ^ 48 ≤ va)) || (space == 1 && decide (i.launch.rcd.lsize < va + n)) then .fault 0x05
  else if va % aligned != 0 then .fault 0x03
  else
    let ps := piecesFrom n va n
    let vs := if space = 1 then ps.map fun p => (localVa i.launch.rcd i.ctx.cohort t.c p.1, p.2) else ps
    match s.translate i.ctx.core i.launch.slice i.launch.asid space a (s.lentTo (some i.ctx.id) none) vs with
    | .ok parts => s.checkLinks (sliceOf i.ctx.core) va drops bad parts
    | e => e

/-! ### What a group does with the checks of its items -/

/-- An item's access and what its checks found. -/
structure Checked where
  item : Item
  va : Nat
  chk : Chk

/-- The cause of a failed check. -/
def Chk.cause : Chk → Option Nat
  | .fault c => some c
  | _ => none

/-- Fault the items whose checks failed, one record for each cause (R418); the other items issue again. Of the items a record covers,
DETAIL names the address of the first, with its offset (DESIGN CHOICE, log entry 83). -/
def State.faultChecked (s : State) (i : Issue) (bad : List Checked) : State :=
  let causes := (bad.filterMap fun c => c.chk.cause).foldl (fun acc n => if acc.contains n then acc else acc ++ [n]) []
  causes.foldl (fun t cause =>
    let mine := bad.filter fun c => c.chk.cause == some cause
    let va := match mine with
      | c :: _ => c.va
      | [] => 0
    t.faultItems i.ctx.id cause (mine.map fun c => c.item.c) i.pc (.ofNat 64 va) false) s

/-- Wait for a pulled page (R453): the items that need it wait under a fault of kind 4, the rest of the group with them. -/
def State.waitPull (s : State) (i : Issue) (vas : List (Nat × Nat)) (page va : Nat) (a : Access) (whole : Bool) : State :=
  let x := i.ctx
  let cs := vas.map Prod.fst
  let (fid, s) := s.joinFault i.launch.slice i.launch.asid page 4 a x.launch (x.waiter cs a va i.pc whole vas)
  let s := s.askPull i.launch.slice page
  let grp := i.grp.map Item.c
  if whole then s.modCtx x.id fun y => { y with held := some fid }
  else s.modCtx x.id fun y => (y.mapItems grp.contains fun t => { t with wait := .walk fid }).mapItems cs.contains fun t => { t with wait := .pageFault fid }

/-- Act on the checks of a group's accesses (R319, R320): faults first (a span materialises; `uni` faults the context),
then walks, pulled pages and allowances to wait for, and then the instruction itself. -/
def State.afterChecks (s : State) (i : Issue) (uni : Bool) (a : Access) (cks : List Checked)
    (go : List (Checked × List Piece) → Act) : Act :=
  let bad := cks.filter fun c => c.chk.cause.isSome
  match bad with
  | b :: _ =>
    if uni then .set (s.faultCtx i.ctx.id (b.chk.cause.getD 0) i.pc (.ofNat 64 b.va) false)
    else if i.ctx.kind == CtxKind.span then .cut
    else .set (s.faultChecked i bad)
  | [] =>
    let walks := cks.filterMap fun c => match c.chk with
      | .walk va => some (va, c.item.c)
      | _ => none
    match walks with
    | (va, _) :: _ =>
      let mine := walks.filter fun w => w.1 / 65536 == va / 65536
      .set (s.waitWalk i.ctx (i.grp.map Item.c) (mine.map Prod.snd) i.launch va a i.pc uni (mine.map fun w => (w.2, w.1)))
    | [] =>
      let pulls := cks.filterMap fun c => match c.chk with
        | .pull p va => some (p, va, c.item.c)
        | _ => none
      match pulls with
      | (p, va, _) :: _ => .set (s.waitPull i ((pulls.filter fun w => w.1 == p).map fun w => (w.2.2, w.2.1)) p va a uni)
      | [] =>
        let parts := cks.flatMap fun c => match c.chk with
          | .ok ps => ps.map fun p => (p.key, p.len)
          | _ => []
        if (cks.any fun c => c.chk == .full) || s.crowded i.launch.slice parts then .stall
        else go (cks.filterMap fun c => match c.chk with
          | .ok ps => some (c, ps)
          | _ => none)

/-- A device page is touched by some part (R72). -/
def Piece.device (p : Piece) : Bool := p.mt == 2

/-- An item has an operation to memory outstanding (R72). -/
def State.busyItem (s : State) (x : Ctx) (c : Nat) : Bool :=
  (s.ops.any fun o => o.serves x && o.items.contains c && o.memory)
    || s.asu.any fun r => r.core == x.core && r.launch == x.launch && r.cohort == x.cohort && r.items.contains c

/-- An acquiring load or atomic of one of some items has not returned its value (R348). -/
def State.acquiring (s : State) (x : Ctx) (cs : List Nat) : Bool :=
  s.ops.any fun o => o.serves x && o.items.any cs.contains && match o.kind with
    | .load _ _ _ (some _) _ => true
    | .atomic _ _ (some _) _ => true
    | _ => false

/-- Some request of these items to a line has not been performed (R321). -/
def State.atomicPending (s : State) (x : Ctx) (cs : List Nat) (lines : List Nat) : Bool :=
  s.asu.any fun r => !r.waiting && r.core == x.core && r.launch == x.launch && r.cohort == x.cohort
    && r.items.any cs.contains && lines.contains (lineOf r.key)

/-- The lines of some parts. -/
def pieceLines (ps : List Piece) : List Nat := linesOf (ps.map fun p => (p.key, 0))

/-! ### Shelves (R108 to R114) -/

/-- Where a shelf byte lies. -/
structure ShelfAt where
  core : Nat
  space : Nat
  off : Nat
  deriving DecidableEq, Repr

/-- The key of a shelf byte in `State.shelf`. -/
def ShelfAt.key (a : ShelfAt) : Nat := (a.core * 4 + a.space) * 2 ^ 21 + a.off

/-- The granules a share holds in a shelf (1 W, 2 A, 3 C), in OFFSET order. -/
def Share.grans (h : Share) (space : Nat) : List Nat := if space = 1 then h.granW else if space = 2 then h.granA else h.granC
/-- Granules a cohort holds in a shelf of each core (R109). -/
def LaunchRec.granCount (r : LaunchRec) (space : Nat) : Nat := if space = 1 then r.shelfW else if space = 2 then r.shelfA else r.shelfC

/-- The core a shelf address names (R108); none for a reserved bit or code. -/
def shelfCore (core addr : Nat) : Option Nat :=
  let f := addr / 2 ^ 24 % 8
  if 2 ^ 27 ≤ addr ∨ addr / 2 ^ 21 % 8 ≠ 0 ∨ f = 7 then none
  else if f = 0 then some core else some (6 * clusterOf core + (f - 1))

/-- The share of a cohort on a core. -/
def State.share? (s : State) (launch cohort core : Nat) : Option Share :=
  match s.cohort? launch cohort with
  | none => none
  | some k => k.shares.find? fun h => h.core == core

/-- The first byte of a shelf extent (R108, R109); none where they are broken. The extent runs on from there within
one granule. -/
def State.shelfOf (s : State) (from_ launch cohort : Nat) (r : LaunchRec) (space addr n : Nat) : Option ShelfAt :=
  match shelfCore from_ addr with
  | none => none
  | some core =>
    match s.share? launch cohort core with
    | none => none
    | some h =>
      let off := addr % 2 ^ 21
      if off + n ≤ r.granCount space * 4096 then
        some { core := core, space := space, off := (h.grans space).getD (off / 4096) 0 * 4096 + off % 4096 }
      else none

/-- The first byte of a shelf extent that a context names. -/
def State.shelfAt (s : State) (x : Ctx) (r : LaunchRec) (space addr n : Nat) : Option ShelfAt :=
  s.shelfOf x.core x.launch x.cohort r space addr n

/-- A physical granule. -/
def State.gran (s : State) (core space num : Nat) : Gran :=
  (s.grans.find? fun g => g.core == core && g.space == space && g.num == num).getD
    { core := core, space := space, num := num, state := .empty, count := 0, holds := 0, rel := false }

/-- Change a physical granule; one that is EMPTY, unfilled and unheld is not listed. -/
def State.setGran (s : State) (core space num : Nat) (f : Gran → Gran) : State :=
  let g := f (s.gran core space num)
  let rest := s.grans.filter fun h => !(h.core == core && h.space == space && h.num == num)
  { s with grans := if g.state == GranState.empty && g.count == 0 && g.holds == 0 && !g.rel then rest else g :: rest }

/-- The granule of a shelf byte. -/
def State.granAt (s : State) (a : ShelfAt) : Gran := s.gran a.core a.space (a.off / 4096)

/-- A sector of a shelf carries a poison mark (R112). -/
def State.shelfBad (s : State) (a : ShelfAt) (n : Nat) : Bool :=
  s.shelfPoison.any fun m => decide (m.1 * 32 < a.key + n) && decide (a.key < m.1 * 32 + 32)

/-- Bytes of a shelf. -/
def State.shelfRead (s : State) (a : ShelfAt) (n : Nat) : List Byte := s.shelf.readList a.key n

/-- A strand's store into a shelf (R113); marks whose bytes have all been written by strands go (R112). -/
def State.shelfStore (s : State) (a : ShelfAt) (bs : List Byte) : State :=
  let keys := (List.range bs.length).map fun j => a.key + j
  let marks := (s.shelfPoison.map fun m => (m.1, unionNat m.2 ((keys.filter fun k => k / 32 == m.1).map (· % 32)))).filter
    fun m => m.2.length < 32
  let s := { s with shelf := s.shelf.writeList a.key bs, shelfPoison := marks }
  s.setGran a.core a.space (a.off / 4096) fun g => if g.state == GranState.empty then { g with state := .resident } else g

/-- Whole sectors written by a copy or a drain lose their marks; a failed sector gains one (R112, R126). -/
def State.shelfMark (s : State) (sector : Nat) (bad : Bool) : State :=
  let rest := s.shelfPoison.filter fun m => m.1 != sector
  { s with shelfPoison := if bad then (sector, []) :: rest else rest }

/-- The check of a strand's shelf access (R319, checks 2 to 4, and 8): the bytes, or a fault. -/
def State.checkShelf (s : State) (i : Issue) (space addr n : Nat) (store : Bool) : Except Nat ShelfAt :=
  if addr % n != 0 then .error 0x03
  else match s.shelfAt i.ctx i.launch.rcd (space - 1) addr n with
    | none => .error 0x05
    | some a =>
      if store then (if space = 2 then .error 0x07 else .ok a)
      else if (s.granAt a).state == GranState.empty then .error 0x07
      else if (s.granAt a).state == GranState.resident && s.shelfBad a n then .error 0x0A
      else .ok a

end Sys2Proof.Machine
end

