-- ==== Sys2Proof/Machine/Fp.lean ====
section
/-! DEFINITION. Floating-point, packed and conversion instructions (09 R261 to R283), extended, base and F20, and the
computation of each slot of a pair. -/

namespace Sys2Proof.Machine

/-- How an operand reads for the item at hand. -/
abbrev Reader := Src → Word

/-- A 32-bit floating-point computation: `eval` gives the result code and its flags from the operands (R234). A D coded zero is neither a
q register nor an x or predicate destination, and R234 does not say whether such an instruction is performed once: it is performed for
each affected item, whose flags and traps all count (DESIGN CHOICE, log entry 96). -/
def State.fcalc (s : State) (i : Issue) (d : Dst) (eval : Reader → Nat × FFlags) : Calc :=
  let r := i.launch.rcd
  let rd (t : Item) : Reader := fun a => (s.src32 i.ctx r a).at r i.ctx.cohort t.c
  { outs := [{ dst := d, val := fun t => .ofNat 32 (eval (rd t)).1 }], once := d.isQ, fl := fun t => (eval (rd t)).2 }

/-- A source modifier: ABS, then NEG, on the sign bit (R242). -/
def srcMod (neg abs : Bool) (w : Word) : Nat :=
  let v := if abs then w.toNat % 2 ^ 31 else w.toNat
  if neg then v ^^^ 2 ^ 31 else v

/-! ### The computations (R262 to R275) -/

/-- `fadd`, `fmul`: the modifiers at MOD bits 0 to 6 (R261). -/
def faddEval (mod : BitVec 9) (a b : Src) (rd : Reader) : Nat × FFlags :=
  let m := mod.toNat
  fp32.add (.ofBits (m % 4)) false (m.testBit 2) (srcMod (m.testBit 3) (m.testBit 4) (rd a))
    (srcMod (m.testBit 5) (m.testBit 6) (rd b))
def fmulEval (mod : BitVec 9) (a b : Src) (rd : Reader) : Nat × FFlags :=
  let m := mod.toNat
  fp32.mul (.ofBits (m % 4)) false (m.testBit 2) (srcMod (m.testBit 3) (m.testBit 4) (rd a))
    (srcMod (m.testBit 5) (m.testBit 6) (rd b))
/-- `ffma` (R261). -/
def ffmaEval (mod : BitVec 9) (a b c : Src) (rd : Reader) : Nat × FFlags :=
  let m := mod.toNat
  fp32.fma (.ofBits (m % 4)) false (m.testBit 2) (srcMod (m.testBit 3) (m.testBit 4) (rd a))
    (srcMod (m.testBit 5) (m.testBit 6) (rd b)) (srcMod (m.testBit 7) (m.testBit 8) (rd c))
/-- `fmin` and `fmax` (R263). -/
def fminMaxEval (isMax : Bool) (mod : BitVec 9) (a b : Src) (rd : Reader) : Nat × FFlags :=
  let m := mod.toNat
  fp32.minMax isMax (m.testBit 2) (srcMod (m.testBit 3) (m.testBit 4) (rd a))
    (srcMod (m.testBit 5) (m.testBit 6) (rd b))

/-- The value of one source under FTZ and its modifiers at bits 3 and 4 (R267, R271). -/
def oneMod (mod : BitVec 9) (w : Word) : Nat := srcMod (mod.toNat.testBit 3) (mod.toNat.testBit 4) w

/-- `frnd`, `frcp`, `fsqrt` (R267, R271). -/
def frndEval (mod : BitVec 9) (a : Src) (rd : Reader) : Nat × FFlags :=
  frndVal (.ofBits (mod.toNat % 4)) (mod.toNat.testBit 2) (oneMod mod (rd a))
def frcpEval (mod : BitVec 9) (a : Src) (rd : Reader) : Nat × FFlags :=
  frcpVal (.ofBits (mod.toNat % 4)) (mod.toNat.testBit 2) (oneMod mod (rd a))
def fsqrtEval (mod : BitVec 9) (a : Src) (rd : Reader) : Nat × FFlags :=
  fsqrtVal (.ofBits (mod.toNat % 4)) (mod.toNat.testBit 2) (oneMod mod (rd a))
def frsqEval (mod : BitVec 9) (a : Src) (rd : Reader) : Nat × FFlags :=
  frsqVal mod (mod.toNat.testBit 2) (rd a) (oneMod mod (rd a))
def fex2Eval (mod : BitVec 9) (a : Src) (rd : Reader) : Nat × FFlags :=
  fex2Val mod (mod.toNat.testBit 2) (rd a) (oneMod mod (rd a))
def flg2Eval (mod : BitVec 9) (a : Src) (rd : Reader) : Nat × FFlags :=
  flg2Val mod (mod.toNat.testBit 2) (rd a) (oneMod mod (rd a))
def fsinEval (mod : BitVec 9) (a : Src) (rd : Reader) : Nat × FFlags :=
  trigVal false Config.fsin mod (mod.toNat.testBit 2) (rd a) (oneMod mod (rd a))
def fcosEval (mod : BitVec 9) (a : Src) (rd : Reader) : Nat × FFlags :=
  trigVal true Config.fcos mod (mod.toNat.testBit 2) (rd a) (oneMod mod (rd a))

/-- Element h of a packed word, negated when `neg` (R215, R274). -/
def halfOf (neg : Bool) (h : Nat) (w : Word) : Nat :=
  let e := w.toNat / 2 ^ (16 * h) % 65536
  if neg then e ^^^ 0x8000 else e

/-- Both halves of a packed computation (R275). -/
def packedEval (op : Nat → Nat × FFlags) : Nat × FFlags :=
  let lo := op 0
  let hi := op 1
  (lo.1 + 65536 * hi.1, lo.2 ||| hi.2)

/-- The packed format of MOD bit 3 (R274). -/
def packedFmt (mod : BitVec 9) : Fmt := if mod.toNat.testBit 3 then bf16 else fp16

/-- `padd16` (R275). -/
def padd16Eval (mod : BitVec 9) (a b : Src) (rd : Reader) : Nat × FFlags :=
  let m := mod.toNat
  packedEval fun h => (packedFmt mod).add (.ofBits (m % 4)) (m.testBit 4) (m.testBit 2) (halfOf (m.testBit 5) h (rd a))
    (halfOf (m.testBit 6) h (rd b))
/-- `pmul16` (R275). -/
def pmul16Eval (mod : BitVec 9) (a b : Src) (rd : Reader) : Nat × FFlags :=
  let m := mod.toNat
  packedEval fun h => (packedFmt mod).mul (.ofBits (m % 4)) (m.testBit 4) (m.testBit 2) (halfOf (m.testBit 5) h (rd a))
    (halfOf (m.testBit 6) h (rd b))
/-- `pfma16` (R275). -/
def pfma16Eval (mod : BitVec 9) (a b c : Src) (rd : Reader) : Nat × FFlags :=
  let m := mod.toNat
  packedEval fun h => (packedFmt mod).fma (.ofBits (m % 4)) (m.testBit 4) (m.testBit 2) (halfOf (m.testBit 5) h (rd a))
    (halfOf (m.testBit 6) h (rd b)) (halfOf (m.testBit 7) h (rd c))
/-- `pmin16` and `pmax16` (R275). -/
def pminMax16Eval (isMax : Bool) (mod : BitVec 9) (a b : Src) (rd : Reader) : Nat × FFlags :=
  let m := mod.toNat
  packedEval fun h => (packedFmt mod).minMax isMax (m.testBit 2) (halfOf (m.testBit 5) h (rd a))
    (halfOf (m.testBit 6) h (rd b))

/-- `ftof` (R278, R279). -/
def ftofEval (mod : BitVec 9) (a : Src) (rd : Reader) : Nat × FFlags :=
  let m := mod.toNat
  let src := ftofFmt (m / 16 % 4)
  let dst := ftofFmt (m / 64 % 4)
  let code := if src.size = 32 then (rd a).toNat else halfOf false (if m.testBit 8 then 1 else 0) (rd a)
  convert src dst (.ofBits (m % 4)) (m.testBit 2) (m.testBit 3) (src.flush (m.testBit 3) code)

/-- The word with an element of `w` bits at position j replaced (R215). -/
def putElem (w j : Nat) (r v : Nat) : Nat := r - r / 2 ^ (w * j) % 2 ^ w * 2 ^ (w * j) + v * 2 ^ (w * j)

/-- `fpk8` (R280, R281). -/
def fpk8Eval (mod : BitVec 9) (a b c : Src) (rd : Reader) : Nat × FFlags :=
  let m := mod.toNat
  let conv (x : Src) := toNarrow (m / 2 % 4) (.ofBits (m / 16 % 4)) (m.testBit 3) (rd x).toNat
  let pos := m % 2
  (putElem 8 (2 * pos + 1) (putElem 8 (2 * pos) (rd c).toNat (conv a).1) (conv b).1, (conv a).2 ||| (conv b).2)

/-- `fpk4` (R280, R281). -/
def fpk4Eval (mod : BitVec 9) (a b c : Src) (rd : Reader) : Nat × FFlags :=
  let m := mod.toNat
  let conv (x : Src) := toNarrow 3 (.ofBits (m / 4 % 4)) true (rd x).toNat
  let pos := m % 4
  (putElem 4 (2 * pos + 1) (putElem 4 (2 * pos) (rd c).toNat (conv a).1) (conv b).1, (conv a).2 ||| (conv b).2)

/-- `funpk` (R282, R283). -/
def funpkEval (mod : BitVec 9) (a : Src) (rd : Reader) : Nat × FFlags :=
  let m := mod.toNat
  let fmt := m % 8
  let w := if fmt < 3 then 8 else if fmt = 3 then 4 else 16
  funpkVal fmt ((rd a).toNat / 2 ^ (w * (m / 8 % 8)) % 2 ^ w)

/-! ### Procedures -/

/-- An extended instruction with a 32-bit floating-point result. -/
def fpRun (e : Ext) (nb nc : Nat) (eval : Reader → Nat × FFlags) (s : State) : Host.Outcome State Fault Refusal :=
  let m := e.info 1 1 nb nc
  s.issueInstr m fun s i => s.perform i m [s.fcalc i (dstOf e.d) eval]

/-- A base word or F20 word with a floating-point result (R245). -/
def fpBase (m : Meta) (d : BitVec 7) (eval : Reader → Nat × FFlags) (s : State) : Host.Outcome State Fault Refusal :=
  s.issueInstr m fun s i => s.perform i m [s.fcalc i (.x d.toNat) eval]

/-! ### Extended instructions -/

/-- R262. -/
def execFadd (e : Ext) (s : State) : Host.Outcome State Fault Refusal := fpRun e 1 0 (faddEval e.mod (e.src e.a) (e.src e.b)) s
/-- R262. -/
def execFmul (e : Ext) (s : State) : Host.Outcome State Fault Refusal := fpRun e 1 0 (fmulEval e.mod (e.src e.a) (e.src e.b)) s
/-- R262. -/
def execFfma (e : Ext) (s : State) : Host.Outcome State Fault Refusal :=
  fpRun e 1 1 (ffmaEval e.mod (e.src e.a) (e.src e.b) (e.src e.c)) s
/-- R264. -/
def execFmin (e : Ext) (s : State) : Host.Outcome State Fault Refusal :=
  fpRun e 1 0 (fminMaxEval false e.mod (e.src e.a) (e.src e.b)) s
/-- R264. -/
def execFmax (e : Ext) (s : State) : Host.Outcome State Fault Refusal :=
  fpRun e 1 0 (fminMaxEval true e.mod (e.src e.a) (e.src e.b)) s

/-- R266. -/
def execFcmp (e : Ext) (s : State) : Host.Outcome State Fault Refusal :=
  let m := e.info 0 1 1 0
  s.issueInstr m fun s i =>
    let r := i.launch.rcd
    let v (t : Item) : Bool × FFlags :=
      let rd (a : BitVec 8) : Word := (s.src32 i.ctx r (e.src a)).at r i.ctx.cohort t.c
      fcmpHolds (e.modBits 0 4) (e.modBit 8) (srcMod (e.modBit 4) (e.modBit 5) (rd e.a))
        (srcMod (e.modBit 6) (e.modBit 7) (rd e.b))
    if i.ctx.kind == CtxKind.span then .cut
    else s.performP i m { dst := dstPred e.d, val := fun t => (v t).1 } (fun t => (v t).2)

/-- R268. -/
def execFrnd (e : Ext) (s : State) : Host.Outcome State Fault Refusal := fpRun e 0 0 (frndEval e.mod (e.src e.a)) s
/-- R272. -/
def execFrcp (e : Ext) (s : State) : Host.Outcome State Fault Refusal := fpRun e 0 0 (frcpEval e.mod (e.src e.a)) s
/-- R272. -/
def execFrsq (e : Ext) (s : State) : Host.Outcome State Fault Refusal := fpRun e 0 0 (frsqEval e.mod (e.src e.a)) s
/-- R272. -/
def execFsqrt (e : Ext) (s : State) : Host.Outcome State Fault Refusal := fpRun e 0 0 (fsqrtEval e.mod (e.src e.a)) s
/-- R272. -/
def execFex2 (e : Ext) (s : State) : Host.Outcome State Fault Refusal := fpRun e 0 0 (fex2Eval e.mod (e.src e.a)) s
/-- R272. -/
def execFlg2 (e : Ext) (s : State) : Host.Outcome State Fault Refusal := fpRun e 0 0 (flg2Eval e.mod (e.src e.a)) s
/-- R272. -/
def execFsin (e : Ext) (s : State) : Host.Outcome State Fault Refusal := fpRun e 0 0 (fsinEval e.mod (e.src e.a)) s
/-- R272. -/
def execFcos (e : Ext) (s : State) : Host.Outcome State Fault Refusal := fpRun e 0 0 (fcosEval e.mod (e.src e.a)) s
/-- R275. -/
def execPadd16 (e : Ext) (s : State) : Host.Outcome State Fault Refusal :=
  fpRun e 1 0 (padd16Eval e.mod (e.src e.a) (e.src e.b)) s
/-- R275. -/
def execPmul16 (e : Ext) (s : State) : Host.Outcome State Fault Refusal :=
  fpRun e 1 0 (pmul16Eval e.mod (e.src e.a) (e.src e.b)) s
/-- R275. -/
def execPfma16 (e : Ext) (s : State) : Host.Outcome State Fault Refusal :=
  fpRun e 1 1 (pfma16Eval e.mod (e.src e.a) (e.src e.b) (e.src e.c)) s
/-- R275. -/
def execPmin16 (e : Ext) (s : State) : Host.Outcome State Fault Refusal :=
  fpRun e 1 0 (pminMax16Eval false e.mod (e.src e.a) (e.src e.b)) s
/-- R275. -/
def execPmax16 (e : Ext) (s : State) : Host.Outcome State Fault Refusal :=
  fpRun e 1 0 (pminMax16Eval true e.mod (e.src e.a) (e.src e.b)) s
/-- R279. -/
def execFtof (e : Ext) (s : State) : Host.Outcome State Fault Refusal := fpRun e 0 0 (ftofEval e.mod (e.src e.a)) s
/-- R281. -/
def execFpk8 (e : Ext) (s : State) : Host.Outcome State Fault Refusal :=
  fpRun e 1 1 (fpk8Eval e.mod (e.src e.a) (e.src e.b) (e.src e.c)) s
/-- R281. -/
def execFpk4 (e : Ext) (s : State) : Host.Outcome State Fault Refusal :=
  fpRun e 1 1 (fpk4Eval e.mod (e.src e.a) (e.src e.b) (e.src e.c)) s
/-- R283. -/
def execFunpk (e : Ext) (s : State) : Host.Outcome State Fault Refusal := fpRun e 0 0 (funpkEval e.mod (e.src e.a)) s

/-- R277: `ftoi`, whose result is a pair under W64. -/
def execFtoi (e : Ext) (s : State) : Host.Outcome State Fault Refusal :=
  let w64 := e.modBit 4
  let m := e.info (if w64 then 2 else 1) 1 0 0
  s.issueInstr m fun s i =>
    let r := i.launch.rcd
    let v (t : Item) : Nat × FFlags :=
      ftoiVal (.ofBits (e.modBits 0 2)) (e.modBit 2) (e.modBit 3) (if w64 then 64 else 32)
        ((s.src32 i.ctx r (e.src e.a)).at r i.ctx.cohort t.c).toNat
    let lo : Out := { dst := dstOf e.d, val := fun t => .ofNat 32 (v t).1 }
    let hi : Out := { dst := dstHi e.d, val := fun t => .ofNat 32 ((v t).1 / 2 ^ 32) }
    s.perform i m [{ outs := if w64 then [lo, hi] else [lo], once := (dstOf e.d).isQ, fl := fun t => (v t).2 }]

/-- R277: `itof`, whose source is a pair under W64. -/
def execItof (e : Ext) (s : State) : Host.Outcome State Fault Refusal :=
  let w64 := e.modBit 4
  let m := e.info 1 (if w64 then 2 else 1) 0 0
  s.issueInstr m fun s i =>
    let r := i.launch.rcd
    let at32 (f : XForm) (t : Item) : Word := f.at r i.ctx.cohort t.c
    let lo := s.src32 i.ctx r (e.src e.a)
    let hi := if e.a == 0xF0 then .u (Config.immHigh e.imm) else s.srcHi i.ctx r (e.src e.a) false
    let n (t : Item) : Int :=
      let wide := joinW (at32 hi t) (at32 lo t)
      if w64 then (if e.modBit 2 then wide.toNat else wide.toInt)
      else if e.modBit 2 then (at32 lo t).toNat else (at32 lo t).toInt
    let v (t : Item) : Nat × FFlags := itofVal (.ofBits (e.modBits 0 2)) (n t)
    s.perform i m [{ outs := [{ dst := dstOf e.d, val := fun t => .ofNat 32 (v t).1 }], once := (dstOf e.d).isQ, fl := fun t => (v t).2 }]

/-! ### Base words and F20 words (R245, R269) -/

/-- The computation of a floating-point base major over its D, A and B operands; none for the integer majors. -/
def fpOp (op : Op2) (d a b : Src) : Option (Reader → Nat × FFlags) :=
  match op with
  | .fadd => some (faddEval 0 a b)
  | .fmul => some (fmulEval 0 a b)
  | .ffmaDm => some (ffmaEval 0 d a b)
  | .ffmaAcc => some (ffmaEval 0 a b d)
  | .fmin => some (fminMaxEval false 0 a b)
  | .fmax => some (fminMaxEval true 0 a b)
  | .padd16 => some (padd16Eval 0 a b)
  | .pmul16 => some (pmul16Eval 0 a b)
  | .pfma16Acc => some (pfma16Eval 0 a b d)
  | .iadd => none
  | .isub => none
  | .imul => none
  | .imulh => none
  | .imin => none
  | .imax => none
  | .and => none
  | .or => none
  | .xor => none
  | .andn => none
  | .shl => none
  | .shr => none
  | .sar => none
  | .rol => none
  | .lea1 => none
  | .lea2 => none
  | .lea3 => none

end Sys2Proof.Machine

namespace Sys2Proof

open Sys2Proof.Machine

/-- The D register is read as well. -/
def Op2.readsD : Op2 → Bool
  | .ffmaDm => true
  | .ffmaAcc => true
  | .pfma16Acc => true
  | _ => false

/-- A base word's D and A operands as sources, and the constant of an F20 word. -/
def BaseOps.srcD (w : BaseOps) : Src := regSrc false w.d.toNat
def BaseOps.srcA (w : BaseOps) : Src := regSrc false w.a.toNat
def BaseLit.srcD (w : BaseLit) : Src := regSrc false w.d.toNat
def BaseLit.srcA (w : BaseLit) : Src := regSrc false w.a.toNat
def BaseLit.srcB (w : BaseLit) : Src := litSrc w.lit
def F20Word.srcD (w : F20Word) : Src := regSrc false w.d.toNat
/-- The constant of an F20 word (R32). -/
def F20Word.value (w : F20Word) : Word := .ofNat 32 (w.imm.toNat * 4096)

end Sys2Proof

namespace Sys2Proof.Machine

/-- The computation of an F20 word that reads `d` (R270); `fmov.i` writes the pattern. -/
def f20Eval (op : OpF) (d : Src) (v : Word) : Reader → Nat × FFlags :=
  match op with
  | .fadd => faddEval 0 d (litSrc v)
  | .fmul => fmulEval 0 d (litSrc v)
  | .fmin => fminMaxEval false 0 d (litSrc v)
  | .fmax => fminMaxEval true 0 d (litSrc v)
  | .fmov => fun _ => (v.toNat, 0)

/-- R262, base form. -/
def execFaddBase (w : BaseOps) (s : State) : Host.Outcome State Fault Refusal :=
  fpBase (w.info false) w.d (faddEval 0 w.srcA w.srcB) s
/-- R262, base form with a literal. -/
def execFaddBaseLit (w : BaseLit) (s : State) : Host.Outcome State Fault Refusal :=
  fpBase (w.info false) w.d (faddEval 0 w.srcA w.srcB) s
/-- R262, base form. -/
def execFmulBase (w : BaseOps) (s : State) : Host.Outcome State Fault Refusal :=
  fpBase (w.info false) w.d (fmulEval 0 w.srcA w.srcB) s
/-- R262, base form with a literal. -/
def execFmulBaseLit (w : BaseLit) (s : State) : Host.Outcome State Fault Refusal :=
  fpBase (w.info false) w.d (fmulEval 0 w.srcA w.srcB) s
/-- R262, base form. -/
def execFfmaDmBase (w : BaseOps) (s : State) : Host.Outcome State Fault Refusal :=
  fpBase (w.info true) w.d (ffmaEval 0 w.srcD w.srcA w.srcB) s
/-- R262, base form with a literal. -/
def execFfmaDmBaseLit (w : BaseLit) (s : State) : Host.Outcome State Fault Refusal :=
  fpBase (w.info true) w.d (ffmaEval 0 w.srcD w.srcA w.srcB) s
/-- R262, base form. -/
def execFfmaAccBase (w : BaseOps) (s : State) : Host.Outcome State Fault Refusal :=
  fpBase (w.info true) w.d (ffmaEval 0 w.srcA w.srcB w.srcD) s
/-- R262, base form with a literal. -/
def execFfmaAccBaseLit (w : BaseLit) (s : State) : Host.Outcome State Fault Refusal :=
  fpBase (w.info true) w.d (ffmaEval 0 w.srcA w.srcB w.srcD) s
/-- R264, base form. -/
def execFminBase (w : BaseOps) (s : State) : Host.Outcome State Fault Refusal :=
  fpBase (w.info false) w.d (fminMaxEval false 0 w.srcA w.srcB) s
/-- R264, base form with a literal. -/
def execFminBaseLit (w : BaseLit) (s : State) : Host.Outcome State Fault Refusal :=
  fpBase (w.info false) w.d (fminMaxEval false 0 w.srcA w.srcB) s
/-- R264, base form. -/
def execFmaxBase (w : BaseOps) (s : State) : Host.Outcome State Fault Refusal :=
  fpBase (w.info false) w.d (fminMaxEval true 0 w.srcA w.srcB) s
/-- R264, base form with a literal. -/
def execFmaxBaseLit (w : BaseLit) (s : State) : Host.Outcome State Fault Refusal :=
  fpBase (w.info false) w.d (fminMaxEval true 0 w.srcA w.srcB) s
/-- R275, base form. -/
def execPadd16Base (w : BaseOps) (s : State) : Host.Outcome State Fault Refusal :=
  fpBase (w.info false) w.d (padd16Eval 0 w.srcA w.srcB) s
/-- R275, base form with a literal. -/
def execPadd16BaseLit (w : BaseLit) (s : State) : Host.Outcome State Fault Refusal :=
  fpBase (w.info false) w.d (padd16Eval 0 w.srcA w.srcB) s
/-- R275, base form. -/
def execPmul16Base (w : BaseOps) (s : State) : Host.Outcome State Fault Refusal :=
  fpBase (w.info false) w.d (pmul16Eval 0 w.srcA w.srcB) s
/-- R275, base form with a literal. -/
def execPmul16BaseLit (w : BaseLit) (s : State) : Host.Outcome State Fault Refusal :=
  fpBase (w.info false) w.d (pmul16Eval 0 w.srcA w.srcB) s
/-- R275, base form. -/
def execPfma16AccBase (w : BaseOps) (s : State) : Host.Outcome State Fault Refusal :=
  fpBase (w.info true) w.d (pfma16Eval 0 w.srcA w.srcB w.srcD) s
/-- R275, base form with a literal. -/
def execPfma16AccBaseLit (w : BaseLit) (s : State) : Host.Outcome State Fault Refusal :=
  fpBase (w.info true) w.d (pfma16Eval 0 w.srcA w.srcB w.srcD) s
/-- R270. -/
def execFaddI (w : F20Word) (s : State) : Host.Outcome State Fault Refusal :=
  fpBase w.info (w.d.setWidth 7) (f20Eval .fadd w.srcD w.value) s
/-- R270. -/
def execFmulI (w : F20Word) (s : State) : Host.Outcome State Fault Refusal :=
  fpBase w.info (w.d.setWidth 7) (f20Eval .fmul w.srcD w.value) s
/-- R270. -/
def execFminI (w : F20Word) (s : State) : Host.Outcome State Fault Refusal :=
  fpBase w.info (w.d.setWidth 7) (f20Eval .fmin w.srcD w.value) s
/-- R270. -/
def execFmaxI (w : F20Word) (s : State) : Host.Outcome State Fault Refusal :=
  fpBase w.info (w.d.setWidth 7) (f20Eval .fmax w.srcD w.value) s
/-- R270. -/
def execFmovI (w : F20Word) (s : State) : Host.Outcome State Fault Refusal :=
  fpBase w.info (w.d.setWidth 7) (f20Eval .fmov w.srcD w.value) s

end Sys2Proof.Machine
end

