-- ==== Sys2Proof/Machine/Moves.lean ====
section
/-! DEFINITION. Moves, selection, special registers, predicates and exchanges between items (06 R163 to R180). -/

namespace Sys2Proof.Machine

/-- A form other than M as a result form (R152, `mov`). -/
def XForm.kept : XForm → Option XForm
  | .m _ => none
  | f => some f

/-- The result that copies a form. -/
def XForm.copyTo (f : XForm) (i : Issue) (d : Dst) : Out :=
  { dst := d, form := f.kept, val := fun t => f.at i.launch.rcd i.ctx.cohort t.c }

/-- R164. -/
def execMov (e : Ext) (s : State) : Host.Outcome State Fault Refusal :=
  let n := if e.modBit 0 then 2 else 1
  let m := e.info n n 0 0
  s.issueInstr m fun s i =>
    let lo := (s.src32 i.ctx i.launch.rcd (e.src e.a)).copyTo i (dstOf e.d)
    let hi := (s.srcHi i.ctx i.launch.rcd (e.src e.a) false).copyTo i (dstHi e.d)
    s.writeOuts i m (if e.modBit 0 then [lo, hi] else [lo])

/-- R164, base form. -/
def execMovBase (w : Base1) (s : State) : Host.Outcome State Fault Refusal :=
  let m := w.info
  s.issueInstr m fun s i => s.writeOuts i m [(s.src32 i.ctx i.launch.rcd w.src).copyTo i (.x w.d.toNat)]

/-- R164, base form with a literal. -/
def execMovBaseLit (w : Base1Lit) (s : State) : Host.Outcome State Fault Refusal :=
  let m := w.info
  s.issueInstr m fun s i => s.writeOuts i m [(XForm.u w.lit).copyTo i (.x w.d.toNat)]

/-- R166. -/
def execMovk (e : Ext) (s : State) : Host.Outcome State Fault Refusal :=
  let m := { e.info (if e.modBit 0 then 2 else 1) 1 0 0 with usesK := true }
  s.issueInstr m fun s i =>
    let r := i.launch.rcd
    let fa := s.src32 i.ctx r (e.src e.a)
    let k (j : Nat) : Word := (s.kWord i.ctx j).getD 0
    let out (d : Dst) (h : Nat) : Out :=
      { dst := d, form := oneU (fun v => k (v.toNat + e.imm.toNat + h)) fa,
        val := fun t => k ((fa.at r i.ctx.cohort t.c).toNat + e.imm.toNat + h) }
    s.writeOuts i m (if e.modBit 0 then [out (dstOf e.d) 0, out (dstHi e.d) 1] else [out (dstOf e.d) 0])

/-- R168: the result takes the form of the operand a U predicate selects. -/
def execSel (e : Ext) (s : State) : Host.Outcome State Fault Refusal :=
  let n := if e.modBit 1 then 2 else 1
  let m := e.info n n n 0
  s.issueInstr m fun s i =>
    let r := i.launch.rcd
    let p := i.ctx.pForm e.c.toNat
    let out (d : Dst) (fa fb : XForm) : Out :=
      { dst := d,
        form := match p with
          | .u v => (if xor v (e.modBit 0) then fa else fb).kept
          | _ => none
        val := fun t => (if xor (p.at r i.ctx.cohort t.c) (e.modBit 0) then fa else fb).at r i.ctx.cohort t.c }
    let lo := out (dstOf e.d) (s.src32 i.ctx r (e.src e.a)) (s.src32 i.ctx r (e.src e.b))
    let hi := out (dstHi e.d) (s.srcHi i.ctx r (e.src e.a) false) (s.srcHi i.ctx r (e.src e.b) false)
    s.writeOuts i m (if e.modBit 1 then [lo, hi] else [lo])

/-- The code of a context kind (R148). -/
def CtxKind.code : CtxKind → Nat
  | .span => 0
  | .strand => 1
  | .solo => 2

/-- The value of a special register and its form (R148). -/
def State.special (s : State) (i : Issue) (code : Nat) : XForm :=
  let r := i.launch.rcd
  let x := i.ctx
  let w (n : Nat) : Word := .ofNat 32 n
  match code with
  | 0x00 => .a 0 1 (w r.nx) (w (r.nx * r.ny))
  | 0x01 =>
    let hi (t : Item) : Word := w (linear r x.cohort t.c / 2 ^ 32 % 256)
    match x.items with
    | [] => .u 0
    | t :: rest => if rest.all (fun u => hi u == hi t) then .u (hi t) else .m (x.items.map fun u => (u.c, hi u))
  | 0x02 => .a 0 1 0 0
  | 0x03 => .a 0 0 1 0
  | 0x04 => .a 0 0 0 1
  | 0x05 => .u (w r.nx)
  | 0x06 => .u (w r.ny)
  | 0x07 => .u (w r.nz)
  | 0x08 => .u (w x.cohort)
  | 0x09 => .u (w (x.cohort / 2 ^ 32 % 256))
  | 0x0A => .u (w x.core)
  | 0x0B => .u (w (clusterOf x.core))
  | 0x0C => .u (w (fieldOf x.core))
  | 0x0D => .u (w (sliceOf x.core))
  | 0x0E => if x.kind == CtxKind.span then .m (x.items.map fun t => (t.c, (Config.spanLane s.free t.c).setWidth 32)) else .u (w x.lane)
  | 0x0F => .u (w x.kind.code)
  | 0x10 => .u x.region
  | 0x11 => .u (w (s.cycles x.core))
  | 0x12 => .u (w (s.cycles x.core / 2 ^ 32))
  | 0x13 => .u (x.fflags.setWidth 32)
  | 0x14 => .u (x.fctl.setWidth 32)
  | 0x15 => .u (w x.launch)
  | 0x16 => .u (w i.launch.pid)
  | 0x17 => .u (w r.param)
  | 0x18 => .u (w (r.param / 2 ^ 32))
  | _ => .u 0

/-- R170: `rds` of a register that is not U in its context materialises a span for an x destination only (R152, R153). A span has no
lane: what a q register takes of s_lane there is open (log entry 87). -/
def execRds (e : Ext) (s : State) : Host.Outcome State Fault Refusal :=
  let m := { e.info 1 0 0 0 with whole := true }
  s.issueInstr m fun s i =>
    let a := s.writeOuts i m [(s.special i e.mod.toNat).norm.copyTo i (dstOf e.d)]
    if e.mod == 0x0E && i.ctx.kind == CtxKind.span then a.drawn else a

/-- An atomic of the context that raises floating-point flags has still to answer (R170, R338). -/
def State.flagsDue (s : State) (x : Ctx) : Bool :=
  s.ops.any fun o => o.serves x && !o.dst.isEmpty && (o.fl != 0 || s.asu.any fun r => r.ops.contains o.id && match r.kind with
    | .atomic op _ _ _ _ => decide (10 ≤ op)
    | _ => false)

/-- R170: it acts after every earlier instruction has raised its flags. -/
def execWrs (e : Ext) (s : State) : Host.Outcome State Fault Refusal :=
  let m := e.info 0 1 0 0
  s.issueInstr m fun s i =>
    if s.flagsDue i.ctx then .stall else
    let f := s.src32 i.ctx i.launch.rcd (e.src e.a)
    let v : BitVec 5 := match i.first with
      | some t => (f.at i.launch.rcd i.ctx.cohort t.c).setWidth 5
      | none => 0
    .advance (s.modCtx i.ctx.id fun x =>
      let x := x.kill (i.grp.map Item.c) m.marks
      if e.mod == 0x13 then { x with fflags := v } else { x with fctl := v })

/-! ### Predicates -/

/-- The operation of `pcomb` (R171). -/
def pcombB (op : Nat) (a b : Bool) : Bool :=
  match op with
  | 0 => a && b
  | 1 => a || b
  | _ => xor a b

/-- A predicate form with its sense inverted when `neg`. -/
def PForm.inv (f : PForm) (neg : Bool) : PForm :=
  match f with
  | .u v => .u (xor v neg)
  | .e p => .e { p with neg := xor p.neg neg }
  | .m slots => .m (slots.map fun e => (e.1, xor e.2 neg))

/-- The form of `pcomb` of a U value and an E predicate (R171). -/
def pcombE (op : Nat) (v : Bool) (p : PForm) : PForm :=
  if pcombB op v false == pcombB op v true then .u (pcombB op v false) else p.inv (pcombB op v false)

/-- R172. -/
def execPcomb (e : Ext) (s : State) : Host.Outcome State Fault Refusal :=
  let m := e.info 0 0 0 0
  let op := e.modBits 0 2
  s.issueInstr m fun s i =>
    let r := i.launch.rcd
    let fa := (i.ctx.pForm e.a.toNat).inv (e.modBit 2)
    let fb := (i.ctx.pForm e.b.toNat).inv (e.modBit 3)
    let form := match fa, fb with
      | .u v, .u w => some (PForm.u (pcombB op v w))
      | .u v, .e p => some (pcombE op v (.e p))
      | .e p, .u v => some (pcombE op v (.e p))
      | _, _ => none
    let bit (n : BitVec 8) (neg : Bool) (t : Item) : Bool := xor ((i.ctx.pForm n.toNat).at r i.ctx.cohort t.c) neg
    s.writePred i m { dst := dstPred e.d, form := form, val := fun t => pcombB op (bit e.a (e.modBit 2) t) (bit e.b (e.modBit 3) t) }

/-- R174, both directions. -/
def execPmov (e : Ext) (s : State) : Host.Outcome State Fault Refusal :=
  let g := e.modBits 1 2
  if e.modBit 0 then
    let m := e.info 0 1 0 0
    s.issueInstr m fun s i =>
      let r := i.launch.rcd
      let fa := s.src32 i.ctx r (e.src e.a)
      let out (j : Nat) : OutP :=
        { dst := .p (32 * g + j),
          form := match fa with
            | .u v => some (.u (v.toNat.testBit j))
            | _ => none
          val := fun t => (fa.at r i.ctx.cohort t.c).toNat.testBit j }
      s.writePredList i m (((List.range 32).filter fun j => e.imm.toNat.testBit j).map out)
  else
    let m := e.info 1 0 0 0
    s.issueInstr m fun s i =>
      let r := i.launch.rcd
      let ps := (List.range 32).map fun j => i.ctx.pForm (32 * g + j)
      let word (c : Nat) : Word :=
        .ofNat 32 (ps.foldr (fun p acc => 2 * acc + if p.at r i.ctx.cohort c then 1 else 0) 0)
      let uniform := ps.all fun p => match p with
        | .u _ => true
        | _ => false
      s.writeOuts i m [{ dst := dstOf e.d, form := if uniform then i.first.map fun t => .u (word t.c) else none, val := fun t => word t.c }]

/-! ### Exchanges between the items of a strand -/

/-- Pos(i): the rank of an item among those its context holds (R176). -/
def Ctx.pos (x : Ctx) (c : Nat) : Nat := (x.cs.filter fun d => decide (d < c)).length

/-- R176. -/
def execVote (e : Ext) (s : State) : Host.Outcome State Fault Refusal :=
  let op := e.modBits 0 2
  let m := e.info (if op = 3 then 2 else 0) 0 0 0
  s.issueInstr m fun s i =>
    let r := i.launch.rcd
    let f := i.ctx.pForm e.a.toNat
    let v (t : Item) : Bool := xor (f.at r i.ctx.cohort t.c) (e.modBit 2)
    let uniform := match f with
      | .u _ => true
      | _ => false
    if i.ctx.kind == CtxKind.span && (op == 3 || !uniform) then .cut
    else if op = 3 then
      let b : DWord := .ofNat 64 (i.aff.foldl (fun acc t => if v t then acc + 2 ^ i.ctx.pos t.c else acc) 0)
      s.writeOuts i m (outs64 i e.d true fun _ => b)
    else
      let res := match op with
        | 0 => i.aff.all v
        | 1 => i.aff.any v
        | _ => i.aff.all v || !i.aff.any v
      s.writePred i m { dst := dstPred e.d, form := some (.u res), val := fun _ => res }

/-- The position that `sxch` reads, before its checks (R178). -/
def sxchFrom (mode w pos t : Nat) : Int :=
  let base := pos - pos % w
  match mode with
  | 0 => ((base + t % w : Nat) : Int)
  | 1 => (pos : Int) - t
  | 2 => ((pos + t : Nat) : Int)
  | _ => ((base + (pos % w ^^^ t % w) : Nat) : Int)

/-- R178. -/
def execSxch (e : Ext) (s : State) : Host.Outcome State Fault Refusal :=
  let m := e.info 1 1 1 0
  let w := 64 / 2 ^ e.modBits 2 3
  s.issueInstr m fun s i =>
    let r := i.launch.rcd
    let fa := s.src32 i.ctx r (e.src e.a)
    let fb := s.src32 i.ctx r (e.src e.b)
    match fa with
    | .u v => s.writeOuts i m [{ dst := dstOf e.d, form := some (.u v), val := fun _ => v }]
    | _ =>
      if i.ctx.kind == CtxKind.span then .cut
      else
        let val (t : Item) : Word :=
          let pos := i.ctx.pos t.c
          let base := pos - pos % w
          let j := sxchFrom (e.modBits 0 2) w pos (fb.at r i.ctx.cohort t.c).toNat
          let src := i.grp.find? fun u => decide ((i.ctx.pos u.c : Int) = j)
          match src with
          | some u => if (base : Int) ≤ j ∧ j < base + w then fa.at r i.ctx.cohort u.c else fa.at r i.ctx.cohort t.c
          | none => fa.at r i.ctx.cohort t.c
        s.writeOuts i m [{ dst := dstOf e.d, val := val }]

/-- One step of a reduction and its flags (R179, R180). -/
def sredStep (op : Nat) (a b : Word) : Word × FFlags :=
  let fp (p : Nat × FFlags) : Word × FFlags := (.ofNat 32 p.1, p.2)
  match op with
  | 0 => (a + b, 0)
  | 1 => (iminW false a b, 0)
  | 2 => (imaxW false a b, 0)
  | 3 => (iminW true a b, 0)
  | 4 => (imaxW true a b, 0)
  | 5 => (a &&& b, 0)
  | 6 => (a ||| b, 0)
  | 7 => (a ^^^ b, 0)
  | 8 => fp (fp32.add .rn false false a.toNat b.toNat)
  | 9 => fp (fp32.minMax false false a.toNat b.toNat)
  | _ => fp (fp32.minMax true false a.toNat b.toNat)

/-- The reduction of values in order, with the flags of its steps. -/
def sredAll (op : Nat) : List Word → Word × FFlags
  | [] => (0, 0)
  | v :: vs => vs.foldl (fun acc b => let q := sredStep op acc.1 b; (q.1, acc.2 ||| q.2)) (v, 0)

/-- R180: one computation for the strand. -/
def execSred (e : Ext) (s : State) : Host.Outcome State Fault Refusal :=
  let m := e.info 1 1 0 0
  s.issueInstr m fun s i =>
    if i.ctx.kind == CtxKind.span then .cut
    else
      let r := i.launch.rcd
      let fa := s.src32 i.ctx r (e.src e.a)
      let q := sredAll (e.modBits 0 4) (i.aff.map fun t => fa.at r i.ctx.cohort t.c)
      s.perform i m [{ outs := [{ dst := dstOf e.d, form := some (.u q.1), val := fun _ => q.1 }], once := true, fl := fun _ => q.2 }]

end Sys2Proof.Machine
end

