-- ==== Sys2Proof/Machine/Memory.lean ====
section
/-! DEFINITION. Loads, stores, prefetches, cache control, atomics, reductions, compare-and-swap and fences (11, 12), the
arrival of their data, and the atomic service unit. -/

namespace Sys2Proof.Machine

/-! ### Values -/

/-- The words that bytes of a width fill (R317). -/
def widthWords (w : Nat) (bs : List Byte) : List Word :=
  let n := leNat bs
  match w with
  | 1 => [BitVec.signExtend 32 (BitVec.ofNat 8 n)]
  | 3 => [BitVec.signExtend 32 (BitVec.ofNat 16 n)]
  | 5 => [.ofNat 32 n, .ofNat 32 (n / 2 ^ 32)]
  | 6 => (List.range 4).map fun j => .ofNat 32 (n / 2 ^ (32 * j))
  | _ => [.ofNat 32 n]

/-- The register `j` above an operand code. -/
def codeDst (code : BitVec 8) (j : Nat) : Dst :=
  let v := code.toNat
  if v < 128 then .x (v + j) else if v < 192 then .q (v - 128 + j) else .none

/-- The form of the register `j` above an operand (R38, R317). -/
def State.srcNth (s : State) (x : Ctx) (r : LaunchRec) (a : Src) (j : Nat) : XForm :=
  let n := a.code.toNat
  match j with
  | 0 => s.src32 x r a
  | 1 => s.srcHi x r a false
  | _ => if n < 128 then x.xForm r (n + j) else if n < 192 then x.qForm (n - 128 + j) else .u 0

/-- An operand of `n` registers as bytes, low register first. -/
def State.operandBytes (s : State) (i : Issue) (a : Src) (n : Nat) (t : Item) : List Byte :=
  (List.range n).flatMap fun j => leBytes 4 ((s.srcNth i.ctx i.launch.rcd a j).at i.launch.rcd i.ctx.cohort t.c).toNat

/-- Write a load's words at once. -/
def State.loadNow (s : State) (i : Issue) (m : Meta) (d : BitVec 8) (w : Nat) (uni : Bool) (val : Item → List Byte) : Act :=
  let word (j : Nat) (t : Item) : Word := (widthWords w (val t)).getD j 0
  let out (j : Nat) : Out :=
    { dst := codeDst d j, form := if uni then i.first.map fun t => .u (word j t) else none,
      val := fun t => if uni then (match i.first with
        | some u => word j u
        | none => 0) else word j t }
  s.writeOuts i m ((List.range (widthRegs w)).map out)

/-- Bytes of the constant bank (R319); zero beyond it. -/
def State.kBytes (s : State) (x : Ctx) (addr n : Nat) : List Byte :=
  (List.range n).map fun j => .ofNat 8 (((s.kWord x ((addr + j) / 4)).getD 0).toNat / 2 ^ (8 * ((addr + j) % 4)))

/-! ### Loads (R324, R325) -/

/-- A load joins, for each line of another field, an earlier load of its field that is still waiting for its response (R353): not
one made before the context's last acquire at `.dev` or wider (R348), and not one that has overtaken a write of the field
(R344). -/
def State.joinCross (s : State) (x : Ctx) (o : Op) : Op :=
  let f := fieldOf o.core
  let open? (line : Nat) (p : Op) : Option Cross :=
    if fieldOf p.core != f then none
    else (p.crossAt line).bind fun d =>
      if d.shut || decide (d.root < x.acq) || s.crossBehind f line d.root o.id then none else some d
  let join (c : Cross) : Cross := match s.ops.findSome? (open? c.line) with
    | some d => { c with root := d.root, bytes := d.bytes, taken := d.taken }
    | none => c
  { o with cross := o.cross.map join }

/-- A load of some pieces, before it joins others: a line of a device page is cached nowhere and its accesses are not merged (R72). -/
def loadOp (id issue core launch cohort : Nat) (ps : List Piece) (hint : Nat) (parked : Option Nat) : Op :=
  let parts := ps.map fun p => (p.key, p.len)
  let dev := (ps.filter Piece.device).foldl (fun acc p => insertNat (lineOf p.key) acc) []
  let noL1 := hint == 1 || ps.any fun p => p.mt != 0
  { id := id, issue := issue, core := core, launch := launch, cohort := cohort, items := [], flag := none, dst := [],
    kind := .load parts 0 noL1 none false, va := 0, pc := 0, back := none, fl := 0, parkedAt := parked,
    cross := (crossLines core parts dev).map fun n => { line := n, root := id, shut := false, bytes := none },
    nofill := dev, ev := hint == 2 }

/-- Since when an access to some pieces has been parked: now, where the path of one of them is (R471). -/
def State.parkNow (s : State) (core : Nat) (keys : List Nat) : Option Nat :=
  if keys.any fun k => s.path (sliceOf core) k 0 == .parked then some s.clock else none

/-- The operations of a load that has passed its checks: one for each item, or one for all. -/
def State.addLoads (s : State) (i : Issue) (f : MemForm) (d : BitVec 8) (uni : Bool) (ok : List (Checked × List Piece)) : State :=
  let (issue, s) := s.fresh
  ok.foldl (fun t c =>
    let (id, t) := t.fresh
    let acq := if f.ord = 1 ∨ f.ord = 3 then some f.scope else none
    let noL1 := f.hint == 1 || c.2.any fun p => p.mt != 0
    let o : Op :=
      { loadOp id issue i.ctx.core i.ctx.launch i.ctx.cohort c.2 f.hint (t.parkNow i.ctx.core (c.2.map Piece.key)) with
        items := if uni then i.aff.map Item.c else [c.1.item.c], flag := i.place.flag, dst := codeRegs d (widthRegs f.w),
        kind := .load (c.2.map fun p => (p.key, p.len)) f.w noL1 acq uni, va := .ofNat 64 c.1.va, pc := i.pc }
    let o := t.joinCross i.ctx o
    { t with ops := t.ops ++ [o] }) s

/-- A global or local load (R319, R325): nothing is read until its data lands. -/
def State.loadFar (s : State) (i : Issue) (m : Meta) (f : MemForm) (d : BitVec 8) (uni : Bool) : Act :=
  let items := if uni then (match i.first with
    | some t => [t]
    | none => []) else i.aff
  if s.acquiring i.ctx (i.grp.map Item.c) then .stall
  else
    let cks := items.map fun t => let va := s.ea i f t
      { item := t, va := va, chk := s.checkAccess i f.space va (widthBytes f.w) t .load 1 false (fun _ => false) : Checked }
    s.afterChecks i uni .load cks fun ok =>
      if ok.any (fun c => c.2.any Piece.device && s.busyItem i.ctx c.1.item.c) then .stall
      else
        let t := s.addLoads i f d uni ok
        s.roomFor (t.modCtx i.ctx.id fun x => x.kill (i.grp.map Item.c) m.marks) i

/-- Faults that are known at once, as check results. -/
def shelfChk : Except Nat ShelfAt → Chk
  | .ok _ => .ok []
  | .error c => .fault c

/-- What follows an instruction that has been performed. -/
def Act.after (a : Act) (f : State → State) : Act :=
  match a with
  | .advance t => .advance (f t)
  | b => b

/-- A shelf load (R110, R113, R319): it waits for a FILLING granule and for an earlier acquire (R348), and reads at once; one that
acquires then takes the steps of R348. -/
def State.loadShelf (s : State) (i : Issue) (m : Meta) (f : MemForm) (d : BitVec 8) (uni : Bool) : Act :=
  let n := widthBytes f.w
  let items := if uni then (match i.first with
    | some t => [t]
    | none => []) else i.aff
  let look (t : Item) : Except Nat ShelfAt := s.checkShelf i f.space (s.ea i f t) n false
  let cks := items.map fun t => { item := t, va := s.ea i f t, chk := shelfChk (look t) : Checked }
  s.afterChecks i uni .load cks fun _ =>
    let at? (t : Item) : Option ShelfAt := match look t with
      | .ok a => some a
      | .error _ => none
    if s.acquiring i.ctx (i.grp.map Item.c) || items.any fun t => match at? t with
        | some a => (s.granAt a).state == GranState.filling
        | none => false
    then .stall
    else (s.loadNow i m d f.w uni fun t => match at? t with
      | some a => s.shelfRead a n
      | none => []).after fun t => if f.ord = 1 ∨ f.ord = 3 then t.acquired i.ctx.id f.scope else t

/-- A load from the constant bank. -/
def State.loadConst (s : State) (i : Issue) (m : Meta) (f : MemForm) (d : BitVec 8) (uni : Bool) : Act :=
  let n := widthBytes f.w
  let items := if uni then (match i.first with
    | some t => [t]
    | none => []) else i.aff
  let cks := items.map fun t => let va := s.ea i f t
    { item := t, va := va, chk := if va % n = 0 then .ok [] else .fault 0x03 : Checked }
  s.afterChecks i uni .load cks fun _ => s.loadNow i m d f.w uni fun t => s.kBytes i.ctx (s.ea i f t) n

/-- A load of any space (R320, R325). -/
def State.load (s : State) (i : Issue) (m : Meta) (f : MemForm) (d : BitVec 8) (uni : Bool) : Act :=
  if i.ctx.kind == CtxKind.span && (!uni || (decide (d.toNat < 128) && !i.full)) then .cut
  else if f.space < 2 then s.loadFar i m f d uni
  else if f.space < 5 then s.loadShelf i m f d uni
  else s.loadConst i m f d uni

end Sys2Proof.Machine

namespace Sys2Proof

open Sys2Proof.Machine

/-- The signed offset in word2 (R315). -/
def Ext.offset (e : Ext) : Int := (e.imm.truncate 24).toInt

/-- What an extended load, store or prefetch names; `w` is its width code. -/
def Ext.memForm (e : Ext) (w : Nat) : MemForm :=
  { space := e.modBits 0 3, w := w, a64 := e.modBit 6, scale := [1, 4, 8, 16].getD (e.modBits 7 2) 1,
    base := e.src e.a, index := e.src e.b, off := e.offset, scope := e.scope, ord := e.ord, hint := e.hint }

/-- What an atomic or a barrier operation names: global space, no index. -/
def Ext.atomForm (e : Ext) (a64 : Bool) : MemForm :=
  { space := 0, w := 0, a64 := a64, scale := 1, base := e.src e.a, index := { code := 0xC0, imm := 0, lit := 0 },
    off := e.offset, scope := e.scope, ord := e.ord, hint := 0 }

/-- What a base load or store names. -/
def BaseOps.memForm (f : BaseOps) : MemForm :=
  { space := 0, w := 4, a64 := false, scale := 1, base := regSrc false f.a.toNat, index := f.srcB, off := 0, scope := 0,
    ord := 0, hint := 0 }

/-- What a base load or store with a literal names. -/
def BaseLit.memForm (f : BaseLit) : MemForm :=
  { space := 0, w := 4, a64 := false, scale := 1, base := regSrc false f.a.toNat, index := litSrc f.lit, off := 0,
    scope := 0, ord := 0, hint := 0 }

/-- The issue data of an extended load. -/
def Ext.loadInfo (e : Ext) : Meta :=
  let f := e.memForm (e.modBits 3 3)
  { e.info (widthRegs f.w) (if f.a64 then 2 else 1) 1 0 with long := decide (f.space < 2), usesK := f.space == 5 }

/-- The issue data of `ldq`: it never makes a span materialise for its guard, but for an x destination (R320). -/
def Ext.ldqInfo (e : Ext) : Meta := { e.loadInfo with whole := true }

end Sys2Proof

namespace Sys2Proof.Machine

/-- R325. -/
def execLd (e : Ext) (s : State) : Host.Outcome State Fault Refusal :=
  s.issueInstr e.loadInfo fun s i => s.load i e.loadInfo (e.memForm (e.modBits 3 3)) e.d false

/-- R325. -/
def execLdq (e : Ext) (s : State) : Host.Outcome State Fault Refusal :=
  s.issueInstr e.ldqInfo fun s i => s.load i e.ldqInfo (e.memForm (e.modBits 3 3)) e.d true

/-- The operand code of an item register of a base word. -/
def baseCode (d : BitVec 7) : BitVec 8 := d.setWidth 8

/-- R325, base form. -/
def execLdB32Base (f : BaseOps) (s : State) : Host.Outcome State Fault Refusal :=
  let m := { f.info false with long := true }
  s.issueInstr m fun s i => s.load i m f.memForm (baseCode f.d) false

/-- R325, base form with a literal. -/
def execLdB32BaseLit (f : BaseLit) (s : State) : Host.Outcome State Fault Refusal :=
  let m := { f.info false with long := true }
  s.issueInstr m fun s i => s.load i m f.memForm (baseCode f.d) false

/-- R325, base form. -/
def execLdqB32Base (f : BaseOps) (s : State) : Host.Outcome State Fault Refusal :=
  let m := { f.info false with long := true }
  s.issueInstr m fun s i => s.load i m f.memForm (baseCode f.d) true

/-- R325, base form with a literal. -/
def execLdqB32BaseLit (f : BaseLit) (s : State) : Host.Outcome State Fault Refusal :=
  let m := { f.info false with long := true }
  s.issueInstr m fun s i => s.load i m f.memForm (baseCode f.d) true

/-! ### Landing (R323, R325) -/

/-- Two extents overlap. -/
def overlap (a b : Nat × Nat) : Bool := decide (a.1 < b.1 + b.2) && decide (b.1 < a.1 + a.2)

/-- Two extents touch one sector, which a single write may cover (R355). -/
def sameSector (a b : Nat × Nat) : Bool :=
  decide (a.1 / 32 ≤ (b.1 + b.2 - 1) / 32) && decide (b.1 / 32 ≤ (a.1 + a.2 - 1) / 32)

/-- The pieces of a load. -/
def Op.parts (o : Op) : List (Nat × Nat) :=
  match o.kind with
  | .load parts _ _ _ _ => parts
  | _ => []

/-- The lines of a load. -/
def Op.lines (o : Op) : List Nat := linesOf (o.parts.map fun p => (p.1, 0))

/-- A load may hit clean bytes of its core's L1 (R348): not an acquire at `.grp` or wider. -/
def Op.hitsClean (o : Op) : Bool :=
  match o.kind with
  | .load _ _ _ (some scope) _ => scope == 0 || scope == 2
  | _ => true

/-- A load finds in its core's L1 every byte that it reads of a line; it reads the whole of what it reads there, or none of the clean
bytes (R355). -/
def State.l1Hit (s : State) (o : Op) (line : Nat) : Bool :=
  o.parts.all fun p => lineOf p.1 != line || (List.range p.2).all fun j => (s.l1Byte o.core (p.1 + j) o.hitsClean).isSome

/-- The lines that a load does not find in its core's L1. -/
def State.l1Misses (s : State) (o : Op) : List Nat := o.lines.filter fun n => !s.l1Hit o n

/-- A line that a load does not find in L1 may be read now: its core's writes to it have been performed (R321), the home serves it
(R102), nothing of its field is still ahead of it (R351), its path is live, and a peer's line has arrived. -/
def State.lineReady (s : State) (o : Op) (line : Nat) : Bool :=
  !(s.writePending o.core [line])
    && if lineLocal line then
        !(s.homeWrites.any fun w => w.line == line && w.sent)
          && (o.crossAt line).all fun c => c.bytes.isSome || !s.crossBehind (fieldOf o.core) line 0 c.root
      else if lineHost line then s.path (sliceOf o.core) (line * 128) 0 == .up
      else o.back.isSome || (!o.nofill.contains line && (s.l2Line? (sliceOf o.core) line).isSome)

/-- A load may take its value now (R321, R343): earlier loads of its items from its sectors (R355) and earlier requests to its lines are
done, and every line it misses is ready. -/
def State.mayLand (s : State) (o : Op) : Bool :=
  let earlier := s.ops.takeWhile fun p => p.id != o.id
  !(earlier.any fun p => p.launch == o.launch && p.cohort == o.cohort && p.items.any o.items.contains
      && p.parts.any fun a => o.parts.any (sameSector a))
    && !(s.asu.any fun r => !r.waiting && r.core == o.core && r.launch == o.launch && r.cohort == o.cohort
          && r.items.any o.items.contains && decide (r.id < o.id) && o.lines.contains (lineOf r.key))
    && (s.l1Misses o).all (s.lineReady o)

/-- The peer lines of a load. -/
def Op.peerLines (o : Op) : List Nat := o.lines.filter linePeer

/-- The byte a load reads: its core's L1, what a crossing response brought, or what the core has written over it since (R344), a peer's
answer, the home. -/
def State.landByte (s : State) (o : Op) (k : Nat) : Byte :=
  let line := lineOf k
  let home := s.homeByte (sliceOf o.core) k
  match s.l1Byte o.core k (o.hitsClean && s.l1Hit o line) with
  | some b => b
  | none =>
    match (o.crossAt line).bind fun c => c.bytes.map fun bs => (c.own.find? fun b => b.1 == k % 128).elim (bs.getD (k % 128) 0) Prod.snd with
    | some b => b
    | none =>
      match o.back with
      | some bs => if Phys.isPeer k then bs.getD (128 * (o.peerLines.idxOf line) + k % 128) 0 else home
      | none => home

/-- A sector of a load carries a poison mark (R84), unless the core's L1 holds the whole of it. -/
def State.loadBad (s : State) (o : Op) : Bool :=
  o.parts.any fun p => s.poisoned p.1 p.2 (sliceOf o.core) &&
    !((List.range 32).all fun j => (s.l1Byte o.core (p.1 / 32 * 32 + j) o.hitsClean).isSome)

/-- Write the words of an operation into the registers of the items it serves. One value for several contexts takes the one entry that
waited for it (R156). -/
def State.landRegs (s : State) (o : Op) (uni : Bool) (words : List Word) : State :=
  let parts := s.ctxs.filter fun x => o.serves x
  -- a q register never makes a span into strands (R153)
  let items := o.dst.any fun d => match d with
    | .x _ => true
    | _ => false
  let s := if uni || !items then s else parts.foldl (fun t x => t.needStrands x.id) s
  match s.launch? o.launch with
  | none => s
  | some l =>
    { s with ctxs := s.ctxs.map fun x =>
        if !o.serves x then x
        else
          let mine := x.cs.filter o.items.contains
          (o.dst.zip words).foldl (fun y dw => match dw.1 with
            | .x n => if uni && mine.length == x.items.length then y.setX n (.u dw.2) (0, o.id) else y.setSlots l.rcd n (mine.map fun c => (c, dw.2))
            | .q n => y.setQ n dw.2 (0, o.id)
            | .p _ => y) x }

/-- An operation's answer is an error (R323): its items fault, or the whole context for `ldq`. -/
def State.landFault (s : State) (o : Op) (uni : Bool) (cause : Nat) : State :=
  let parts := (s.ctxs.filter fun x => o.serves x).map fun x => (x.id, x.cs.filter o.items.contains)
  let s : State := { s with ops := s.ops.filter fun p => p.id != o.id }
  parts.foldl (fun t q => if uni then t.faultCtx q.1 cause o.pc o.va false q.2 else t.faultSome q.1 cause q.2 o.pc o.va false o.issue) s

/-- The clocks that answers from another field carry (R351). -/
def State.mergeFrom (s : State) (core : Nat) (keys : List Nat) : State :=
  keys.foldl (fun t k => if Phys.isLocal k && homeField k != fieldOf core then
    t.mergeClock (fieldOf core) (t.fields.getD (homeField k) FieldSt.reset).vc else t) s

/-- An operation that acquires has returned its value (R348). -/
def State.acquireOp (s : State) (o : Op) (acq : Option Nat) : State :=
  match acq with
  | none => s
  | some scope => (s.ctxs.filter fun x => o.serves x).foldl (fun t x => t.acquired x.id scope) s

/-- The responses of the crossing loads that a load still waits for are taken at their homes (R353). -/
def State.sampleOwn (s : State) (o : Op) : State :=
  (s.l1Misses o).foldl (fun t line => match o.crossAt line with
    | some c => if c.bytes.isNone then t.sample (fieldOf o.core) line c.root false else t
    | none => t) s

/-- What a load brings of a line does not go into L1: the load asks for that, or the line's response is older than a write of its field
(R344), or was taken before the core's last acquire at `.dev` or wider (R350, R354). -/
def State.unfit (s : State) (o : Op) (noL1 : Bool) (line : Nat) : Bool :=
  noL1 || o.nofill.contains line
    || (o.crossAt line).any fun c => c.shut || decide (c.taken ≤ (s.coreSt o.core).acq) || s.crossBehind (fieldOf o.core) line 0 s.nextId

/-- A line that a load has missed fills L2 and L1 (R94, R345), but for the bytes of marked sectors. One of a device page is cached
nowhere (R72), and one that was invalidated on its way is not installed (R103). -/
def State.landLine (s : State) (o : Op) (noL1 : Bool) (line : Nat) : State :=
  let slice := sliceOf o.core
  let fill := ((List.range 128).filter fun j => !s.poisoned (line * 128 + j) 1 slice).map fun j => (j, s.landByte o (line * 128 + j))
  let s := s.dropClean o.core (· == line)
  let s := if s.unfit o noL1 line then s else s.l1Fill o.core line o.ev fill
  s.readL2 slice (s.pidOf o.launch slice) (line * 128) (o.nofill.contains line) o.ev

/-- A load's value lands (R325): what it has missed fills L2 and L1, the registers are written, and the operation is over. -/
def State.landLoad (s : State) (o : Op) (w : Nat) (noL1 : Bool) (acq : Option Nat) (uni : Bool) : State :=
  let s := s.sampleOwn o
  let o := (s.ops.find? fun p => p.id == o.id).getD o
  let bytes := o.parts.flatMap fun p => (List.range p.2).map fun j => s.landByte o (p.1 + j)
  let missed := s.l1Misses o
  let s := o.lines.foldl (fun t line => if missed.contains line then t.landLine o noL1 line else t.l1Use o.core line o.ev) s
  let s := s.landRegs o uni (widthWords w bytes)
  let s := (s.acquireOp o acq).mergeFrom o.core (missed.map fun n => n * 128)
  { s with ops := s.ops.filter fun p => p.id != o.id }

/-- Some piece of an operation goes to the host or to a peer. -/
def Op.remote (o : Op) : Bool :=
  match o.kind with
  | .load parts _ _ _ _ => parts.any fun p => !Phys.isLocal p.1
  | .atomic key _ _ _ => !Phys.isLocal key
  | _ => false

/-- Install lines that a peer sent, held clean (R100), but for those not to be installed (R72, R103). -/
def State.peerFill (s : State) (o : Op) (bytes : List Byte) : State :=
  let slice := sliceOf o.core
  let ops := updWhere (fun p => p.id == o.id) (fun (p : Op) => { p with back := some bytes }) s.ops
  let s : State := { s with ops := ops }
  (o.peerLines.zipIdx).foldl (fun t li =>
    let t := t.readRoute slice (li.1 * 128)
    if o.nofill.contains li.1 then t
    else t.touchL2 slice (t.pidOf o.launch slice) li.1 false ((List.range 128).map fun j => bytes.getD (128 * li.2 + j) 0) false o.ev) s

/-- R325, R323: a load's data or error arrives. `data` carries the peer lines it touches, low line first. -/
def execLoadDataLanding (op : Nat) (ans : Answer) (s : State) : Host.Outcome State Fault Refusal :=
  match s.ops.find? fun o => o.id == op with
  | none => .next s
  | some o =>
    match o.kind with
    | .load _ w noL1 acq uni =>
      let land (t : State) : State :=
        let o := (t.ops.find? fun p => p.id == op).getD o
        if !t.mayLand o then t
        else
          -- the banks and the stacks check what is read from them (R83, R105)
          let t := (t.l1Misses o).foldl (fun u line => u.checkLine (sliceOf o.core) line) t
          if t.loadBad o then t.landFault o uni 0x0A else t.landLoad o w noL1 acq uni
      match ans with
      | .home => .next (land s)
      | .data bytes => .next (if o.remote then land (s.peerFill o bytes) else s)
      | .refused => .next (if o.remote then s.landFault o uni 0x05 else s)
      | .linkDown => .next (if o.remote then s.landFault o uni 0x0C else s)
      | .linkParked => .next (if o.remote then s.landFault o uni 0x0B else s)
      | .poison => .next (if o.remote then s.landFault o uni 0x0A else s)
    | _ => .next s

/-! ### Stores (R326, R327) -/

/-- The bytes an item stores, by physical byte. -/
def storeBytes (ps : List Piece) (bs : List Byte) : List (Nat × Byte) :=
  (ps.foldl (fun (acc : List (Nat × Byte) × List Byte) p =>
    (acc.1 ++ ((List.range p.len).zip acc.2).map (fun q => (p.key + q.1, q.2)), acc.2.drop p.len)) ([], bs)).1

/-- The pieces of a store that go into L1: those of normal type, without the hint that writes through (R72, R315). -/
def nearPieces (hint : Nat) (ps : List Piece) : List Piece := if hint = 1 then [] else ps.filter fun p => p.mt == 0

/-- One item's store: bytes of normal type go into L1, room being made for them, the others leave the core (R16, R72, R345, R347). -/
def State.storeItem (s : State) (i : Issue) (hint : Nat) (c : Checked) (ps : List Piece) (bs : List Byte) : State :=
  let owner := (i.ctx.launch, i.ctx.cohort, c.item.c)
  let core := i.ctx.core
  let cells := storeBytes ps bs
  let near (k : Nat) : Bool := (nearPieces hint ps).any fun p => overlap (k, 1) (p.key, p.len)
  let mine := cells.filter fun b => near b.1
  let s := (linesOf mine).foldl (fun t line => t.l1Room core line) s
  let s := s.l1Store core owner (hint == 2) mine
  let far := cells.filter fun b => !near b.1
  (linesOf far).foldl (fun t line =>
    -- bytes the core holds dirty leave first, so that the home's order is the program's (R321)
    let t := t.writeBack core line true
    let device := ps.any fun p => p.device && lineOf p.key == line
    t.leaveCore core i.launch.pid [owner] line (far.filter fun b => lineOf b.1 == line) i.pc (.ofNat 64 c.va) device (hint == 2)) s

/-- The cores may send writes of these lines to their homes now (R352, R466). -/
def State.mayLeave (s : State) (core : Nat) (lines : List Nat) : Bool :=
  lines.all fun line =>
    let k := line * 128
    s.path (sliceOf core) k 128 != .full
      && (decide (2 ^ 40 ≤ k) || homeField k == fieldOf core || s.mayCross (fieldOf core) (homeField k) lines.length)

/-- A global or local store (R319, R321, R327, R343). -/
def State.storeFar (s : State) (i : Issue) (m : Meta) (f : MemForm) (data : Item → List Byte) : Act :=
  let cs := i.grp.map Item.c
  if s.acquiring i.ctx cs || s.reading i.ctx cs then .stall
  else
    let cks := i.aff.map fun t => let va := s.ea i f t
      { item := t, va := va, chk := s.checkAccess i f.space va (widthBytes f.w) t .store 1 true (fun _ => false) : Checked }
    s.afterChecks i false .store cks fun ok =>
      let lines := ok.flatMap fun c => pieceLines c.2
      let near := ok.flatMap fun c => pieceLines (nearPieces f.hint c.2)
      let far := ok.flatMap fun c => pieceLines (c.2.filter fun p => f.hint == 1 || p.mt != 0)
      if ok.any (fun c => c.2.any Piece.device && s.busyItem i.ctx c.1.item.c) || s.atomicPending i.ctx cs lines
          || !s.mayLeave i.ctx.core far || !s.l1CanRoom i.ctx.core near then .stall
      else
        let go (t : State) : Act :=
          let t := ok.foldl (fun u c => u.storeItem i f.hint c.1 c.2 (data c.1.item)) t
          .advance (t.modCtx i.ctx.id fun x => x.kill cs m.marks)
        if f.ord = 2 then s.releaseThen i f.scope go else go s

/-- A shelf store (R110, R113, R114): it waits for a FILLING or held granule, for an earlier acquire (R348), and until every earlier load
of its items has taken its value (R343). -/
def State.storeShelf (s : State) (i : Issue) (m : Meta) (f : MemForm) (data : Item → List Byte) : Act :=
  let n := widthBytes f.w
  let look (t : Item) : Except Nat ShelfAt := s.checkShelf i f.space (s.ea i f t) n true
  let cks := i.aff.map fun t => { item := t, va := s.ea i f t, chk := shelfChk (look t) : Checked }
  s.afterChecks i false .store cks fun _ =>
    let sites := i.aff.filterMap fun t => match look t with
      | .ok a => some (t, a)
      | .error _ => none
    let cs := i.grp.map Item.c
    if s.acquiring i.ctx cs || s.reading i.ctx cs
        || sites.any fun ta => (s.granAt ta.2).state == GranState.filling || decide (0 < (s.granAt ta.2).holds) then .stall
    else
      let go (t : State) : Act :=
        let t := sites.foldl (fun u ta => u.shelfStore ta.2 (data ta.1)) t
        .advance (t.modCtx i.ctx.id fun x => x.kill cs m.marks)
      if f.ord = 2 then s.releaseThen i f.scope go else go s

/-- A store of any space. -/
def State.store (s : State) (i : Issue) (m : Meta) (f : MemForm) (d : Src) : Act :=
  let data (t : Item) : List Byte := (s.operandBytes i d (widthRegs f.w) t).take (widthBytes f.w)
  if f.space < 2 then s.storeFar i m f data else s.storeShelf i m f data

/-- R327. -/
def execSt (e : Ext) (s : State) : Host.Outcome State Fault Refusal :=
  let f := e.memForm (e.modBits 3 3)
  let m := { e.info 0 (if f.a64 then 2 else 1) 1 (widthRegs f.w) with once := decide (2 ≤ f.ord), whole := true }
  s.issueInstr m fun s i => s.store i m f (e.src e.c)

/-- The issue data of a base store: D is read. -/
def storeInfo (m : Meta) : Meta := { m with reads := m.reads ++ m.writes, writes := [] }

/-- R327, base form. -/
def execStB32Base (f : BaseOps) (s : State) : Host.Outcome State Fault Refusal :=
  let m := storeInfo (f.info false)
  s.issueInstr m fun s i => s.store i m f.memForm f.srcD

/-- R327, base form with a literal. -/
def execStB32BaseLit (f : BaseLit) (s : State) : Host.Outcome State Fault Refusal :=
  let m := storeInfo (f.info false)
  s.issueInstr m fun s i => s.store i m f.memForm f.srcD

/-! ### Prefetch and cache control (R328 to R331) -/

/-- Ask for the line of a prefetch (R329): it goes into L2, and into L1 for a normal page at level 0; a line of a device page is not
cached. A peer's line that the bank does not hold, and one behind a write whose holders are being invalidated (R102), arrives later,
for no item. -/
def State.prefetch (s : State) (core : Nat) (l : Launch) (cohort lvl : Nat) (p : Piece) : State :=
  let slice := sliceOf core
  let line := lineOf p.key
  let noL1 := lvl != 0 || p.mt != 0
  if p.mt = 2 || (Phys.isHost p.key && s.path slice p.key 0 != .up) then s
  else if (Phys.isPeer p.key && (s.l2Line? slice line).isNone) || s.homeWrites.any (fun w => w.line == line && w.sent && lineLocal line) then
    let (id, s) := s.fresh
    let o := loadOp id id core l.num cohort [p] (if noL1 then 1 else 0) (s.parkNow core [p.key])
    { s with ops := s.ops ++ [o] }
  else
    let s := s.readL2 slice l.pid p.key
    if noL1 || s.writePending core [line] || (s.l1Line? core line).isSome then s
    else
      let fill := ((List.range 128).filter fun j => !s.poisoned (line * 128 + j) 1 slice).map fun j => (j, s.homeByte slice (line * 128 + j))
      s.l1Fill core line false fill

/-- A walk of a page is under way at a core's walk service (R75). -/
def State.walking (s : State) (core : Nat) (k : Launch) (page : Nat) : Bool :=
  s.walks.any fun w => w.field == fieldOf core && w.slice == s.leader k.slice && w.asid == k.asid && w.page == page

/-- The walk that a prefetch makes for a page its core's TLB does not hold (R74): its leaf, where it finds one. A page has one walk at
a time (R75). -/
def State.prefetchWalk (s : State) (core : Nat) (k : Launch) (page : Nat) : Option Leaf × State :=
  let lead := s.leader k.slice
  let f := fieldOf core
  match s.tlbLeaf core lead k.asid page with
  | some l => (some l, s)
  | none =>
    if s.walking core k page then (none, s)
    else
    let found := s.walkIn f lead k.asid page
    match found.1 with
    | .leaf l =>
      let s := (s.walkReads lead found.2).cacheReads f lead k.asid found.2
      let e : TlbEntry := { core := core, slice := lead, asid := k.asid, leaf := l }
      (some l, (s.fillTlb e page).fillCluster e page)
    | _ => (none, s)

/-- The virtual address of an item's prefetch. -/
def State.prefetchVa (s : State) (i : Issue) (f : MemForm) (u : Item) : Nat :=
  if f.space = 1 then localVa i.launch.rcd i.ctx.cohort u.c (s.ea i f u) else s.ea i f u

/-- The walks of a prefetch's pages (R74). -/
def State.prefetchWalks (s : State) (i : Issue) (f : MemForm) : State :=
  i.aff.foldl (fun t u => (t.prefetchWalk i.ctx.core i.launch (s.prefetchVa i f u / 65536)).2) s

/-- An address that the group names misses its core's TLB while a walk of its page is under way, whose result it takes (R75). -/
def State.awaitsWalk (s : State) (i : Issue) (vas : List Nat) : Bool :=
  vas.any fun va => (s.tlbLeaf i.ctx.core (s.leader i.launch.slice) i.launch.asid (va / 65536)).isNone
    && s.walking i.ctx.core i.launch (va / 65536)

/-- R329. -/
def execPrf (e : Ext) (s : State) : Host.Outcome State Fault Refusal :=
  let f := e.memForm 0
  let m := { e.info 0 (if f.a64 then 2 else 1) 1 0 with whole := true }
  s.issueInstr m fun s i =>
    if s.awaitsWalk i (i.aff.map (s.prefetchVa i f)) then .stall
    else
    let s := s.prefetchWalks i f
    let cks := i.aff.map fun u => s.checkAccess i f.space (s.ea i f u) 1 u .load 1 false (fun _ => false)
    if cks.contains .full then .stall
    else
      let t := cks.foldl (fun t c => match c with
        | .ok ps => ps.foldl (fun t p => t.prefetch i.ctx.core i.launch i.ctx.cohort (e.modBits 3 3) p) t
        | _ => t) s
      t.writeNothing i m

/-- The physical byte of an address for `cctl` (R331); none where it does not translate. -/
def State.whereIs (s : State) (i : Issue) (va : Nat) : Option Phys :=
  if 2 ^ 48 ≤ va then none
  else
    let slice := i.launch.slice
    match (s.prefetchWalk i.ctx.core i.launch (va / 65536)).1 with
    | none => none
    | some l =>
      match s.spaOf slice i.launch.asid l va false with
      | none => none
      | some spa => s.physOf slice spa

/-- Write back dirty lines of a core and wait until they have been performed (R331): the lines are those found at the issue, and of
them those dirty before the mark leave as their paths let them. -/
def State.flushThen (s : State) (i : Issue) (lines : List Nat) (go : State → List Nat → Act) : Act :=
  let x := i.ctx
  let begin : Act :=
    if (lines.any fun n => (s.l1Line? x.core n).any fun l => !l.dirty.isEmpty) || s.writePending x.core lines then
      let (mark, s) := s.fresh
      .set (s.modCtx x.id fun y => { y with rel := some { mark := mark, pc := i.pc, lines := lines } })
    else go s lines
  match x.rel with
  | none => begin
  | some r =>
    if r.pc != i.pc then begin
    else
      match (s.l1.filter fun l => l.core == x.core && r.lines.contains l.line && !l.dirty.isEmpty && decide (l.order < r.mark)) with
      | [] => if s.writePending x.core r.lines then .stall else go (s.modCtx x.id fun y => { y with rel := none }) r.lines
      | l :: rest =>
        match (l :: rest).find? s.mayWriteBack with
        | some k => .set (s.writeBack x.core k.line false)
        | none => .stall

/-- R331. -/
def execCctl (e : Ext) (s : State) : Host.Outcome State Fault Refusal :=
  let f := e.atomForm (e.modBit 3)
  let op := e.modBits 0 3
  let m := { e.info 0 (if e.a == 0xFF then 0 else if f.a64 then 2 else 1) 0 0 with whole := true }
  s.issueInstr m fun s i =>
    let core := i.ctx.core
    let lines := linesOf ((i.aff.filterMap fun t => s.whereIs i (s.ea i f t)).map fun k => (k, 0))
    if (op == 0 || op == 1 || op == 4) && s.awaitsWalk i (i.aff.map (s.ea i f)) then .stall
    else match op with
    | 0 => s.flushThen i lines fun t _ => t.writeNothing i m
    | 1 => s.flushThen i lines fun t mine => (t.dropClean core mine.contains).writeNothing i m
    | 2 => (s.dropCleanLines core).writeNothing i m
    | 3 => s.flushThen i ((s.l1.filter fun l => l.core == core && !l.dirty.isEmpty).map L1Line.line) fun t _ => t.writeNothing i m
    | _ => (lines.foldl (fun t line => match t.l2Line? (sliceOf core) line with
        | some l => t.dropLine l
        | none => t) s).writeNothing i m

/-! ### Requests to an atomic service unit (R332 to R338) -/

/-- The cluster whose ASU owns a line (R332). -/
def State.ownerCluster (s : State) (slice line : Nat) : Nat :=
  let sl := cacheSlice slice line
  sliceCluster sl ((s.bankSet sl line).1 / 16)

/-- The entries that a request takes in the queue of its ASU (R333): one for each item of an atomic, one for a request on an object
(R383). -/
def AsuReq.entries (r : AsuReq) : Nat :=
  match r.kind with
  | .atomic _ _ _ _ _ => r.items.length
  | .cas128 _ => r.items.length
  | _ => 1

/-- Requests queued at an ASU (R333). -/
def State.queued (s : State) (cluster : Nat) : Nat :=
  ((s.asu.filter fun r => r.cluster == cluster && !r.waiting && !Phys.isPeer r.key).map AsuReq.entries).sum

/-- Some requests find no room at an ASU of the package (R333): its queue of 256 cannot take them. More than 256 of one instruction
are taken when it is empty. -/
def State.queueFull (s : State) (core : Nat) (reqs : List (Nat × Nat)) : Bool :=
  let owner (key : Nat) : Nat := s.ownerCluster (sliceOf core) (lineOf key)
  let mine := reqs.filter fun r => !Phys.isPeer r.1
  mine.any fun r =>
    let c := owner r.1
    let n := ((mine.filter fun q => owner q.1 == c).map Prod.snd).sum
    s.queued c != 0 && decide (256 < s.queued c + n)

/-- What one request returns: the items, the registers, the bytes, and whether one value serves all. -/
structure Wanted where
  items : List Nat
  dst : List RegRef
  bytes : Nat
  uni : Bool

/-- The lines' L1 copies leave the issuing core before a request is sent (R334). -/
def State.clearL1 (s : State) (core : Nat) (lines : List Nat) : State :=
  lines.foldl (fun t line => t.writeBack core line true) s

/-- A request takes its place at the service unit of its line (R332, R334): stamped where it goes to another field (R351); the slice gives
up its copy of a peer's line (R100). -/
def State.pushAsu (s : State) (i : Issue) (key va : Nat) (items : List Nat) (kind : AsuKind) (ops : List Nat) (issue id : Nat)
    (device : Bool) : State :=
  let core := i.ctx.core
  let slice := sliceOf core
  let crosses := Phys.isLocal key && homeField key != fieldOf core
  let (seq, stamp, s) := if crosses then s.stampTo (fieldOf core) (homeField key) else (0, [], s)
  let s : State := if Phys.isPeer key then s.giveUpPeer slice (lineOf key) else s
  { s with asu := s.asu ++ [{ id := id, issue := issue, cluster := s.ownerCluster slice (lineOf key), core := core, ctx := i.ctx.id,
                              launch := i.ctx.launch, cohort := i.ctx.cohort, items := items, key := key, va := .ofNat 64 va,
                              kind := kind, ops := ops, pc := i.pc, waiting := false, seq := seq, stamp := stamp, device := device }] }

/-- Send a request for some items at one address (R333, R334): with results, an operation for each; without, an
acknowledgement to wait for (R347), and where it acquires an operation that no register waits for (R348). -/
def State.sendAsu (s : State) (i : Issue) (key va : Nat) (items : List Nat) (kind : AsuKind) (want : List Wanted)
    (flag acq : Option Nat) (device : Bool) : State :=
  let core := i.ctx.core
  let (issue, s) := s.fresh
  let (id, s) := s.fresh
  let parked := s.parkNow core [key]
  let returns := if want.isEmpty && acq.isSome then [{ items := items, dst := [], bytes := 4, uni := false : Wanted }] else want
  let ops : List Op := returns.zipIdx.map fun wi =>
    { id := s.nextId + wi.2, issue := issue, core := core, launch := i.ctx.launch, cohort := i.ctx.cohort, items := wi.1.items,
      flag := flag, dst := wi.1.dst, kind := .atomic key wi.1.bytes acq wi.1.uni, va := .ofNat 64 va, pc := i.pc, back := none,
      fl := 0, parkedAt := parked, cross := [], nofill := [], ev := false }
  let s : State := { s with ops := s.ops ++ ops, nextId := s.nextId + returns.length }
  let s := if want.isEmpty then s.owe issue core (items.map fun c => (i.ctx.launch, i.ctx.cohort, c)) (homeOf key) i.pc (.ofNat 64 va) parked.isSome else s
  s.pushAsu i key va items kind (ops.map Op.id) issue id device

/-- Group checked items by the address they name, in ascending order of their lowest c (R383). -/
def byKey (ok : List (Checked × List Piece)) : List (Nat × List (Checked × List Piece)) :=
  ok.foldl (fun acc c =>
    let k := match c.2 with
      | p :: _ => p.key
      | [] => 0
    if acc.any fun e => e.1 == k then acc.map fun e => if e.1 == k then (e.1, e.2 ++ [c]) else e else acc ++ [(k, [c])]) []

/-- Some of the pieces checked lie on a device page. -/
def onDevice (cs : List (Checked × List Piece)) : Bool := cs.any fun c => c.2.any Piece.device

/-- The checks and waits that every request shares (R319, R333, R343, R346): then, after its release, it is sent. `poison` says that a
poisoned place is found at once (R374), `drops` that no value returns (R474), `one` that the items of an address make one
request (R383). -/
def State.request (s : State) (i : Issue) (m : Meta) (f : MemForm) (bytes : Nat) (bad : Piece → Bool) (poison drops one : Bool)
    (items : List Item) (go : State → List (Nat × List (Checked × List Piece)) → State) : Act :=
  let cs := i.grp.map Item.c
  if s.acquiring i.ctx cs || s.reading i.ctx cs then .stall
  else
    let cks := items.map fun t => let va := s.ea i f t
      let chk := match s.checkAccess i 0 va bytes t .atomic bytes drops bad with
        | .ok ps => if poison && ps.any (fun p => s.poisoned p.key p.len (sliceOf i.ctx.core)) then .fault 0x0A else .ok ps
        | c => c
      { item := t, va := va, chk := chk : Checked }
    s.afterChecks i false .atomic cks fun ok =>
      let lines := ok.flatMap fun c => pieceLines c.2
      let reqs := byKey ok
      let full := s.queueFull i.ctx.core (reqs.map fun r => (r.1, if one then 1 else r.2.length))
      let dirty := lines.filter fun n => (s.l1Line? i.ctx.core n).any fun l => !l.dirty.isEmpty
      if full || ok.any (fun c => c.2.any Piece.device && s.busyItem i.ctx c.1.item.c) || !s.mayLeave i.ctx.core lines then .stall
      else
        let send (t : State) : Act :=
          let t := t.clearL1 i.ctx.core (lines ++ dirty)
          let t := go t reqs
          s.roomFor (t.modCtx i.ctx.id fun x => x.kill cs m.marks) i
        if f.ord = 2 ∨ f.ord = 3 then s.releaseThen i f.scope send else send s

/-- An atomic must not touch a host page of type device (R319, check 6). -/
def Piece.hostDevice (p : Piece) : Bool := Phys.isHost p.key && p.mt == 2

/-- The scope of an acquiring order. -/
def MemForm.acq (f : MemForm) : Option Nat := if f.ord = 1 ∨ f.ord = 3 then some f.scope else none

/-- `atom` and `red` (R337): a request for each address. -/
def State.atomic (s : State) (i : Issue) (m : Meta) (e : Ext) (result : Bool) : Act :=
  if result && i.ctx.kind == CtxKind.span then .cut
  else
    let w64 := e.modBit 5
    let n := if w64 then 8 else 4
    let regs := if w64 then 2 else 1
    let f := e.atomForm (e.modBit 6)
    let val (a : Src) (t : Item) : DWord := .ofNat 64 (leNat (s.operandBytes i a regs t))
    s.request i m f n Piece.hostDevice false (!result) false i.aff fun t reqs =>
      reqs.foldl (fun u r =>
        let items := r.2.map fun c => c.1.item
        let ops := items.map fun t => (t.c, val (e.src e.b) t, val (e.src e.c) t)
        let want := if result then items.map fun t => { items := [t.c], dst := codeRegs e.d regs, bytes := n, uni := false : Wanted } else []
        let va := match r.2 with
          | c :: _ => c.1.va
          | [] => 0
        u.sendAsu i r.1 va (items.map Item.c) (.atomic (e.modBits 0 4) (e.modBit 4) w64 (e.modBit 7) ops) want
          (if result then i.place.flag else none) f.acq (onDevice r.2)) t

/-- R337. -/
def execAtom (e : Ext) (s : State) : Host.Outcome State Fault Refusal :=
  let result := e.d != 0xC0
  let regs := if e.modBit 5 then 2 else 1
  let m := { e.info (if result then regs else 0) (if e.modBit 6 then 2 else 1) regs regs with long := result, once := true, whole := !result }
  s.issueInstr m fun s i => s.atomic i m e result

/-- R337. -/
def execRed (e : Ext) (s : State) : Host.Outcome State Fault Refusal :=
  let regs := if e.modBit 5 then 2 else 1
  let m := { e.info 0 (if e.modBit 6 then 2 else 1) regs 0 with once := true, whole := true }
  s.issueInstr m fun s i => s.atomic i m e false

/-- R340. -/
def execCas128 (e : Ext) (s : State) : Host.Outcome State Fault Refusal :=
  let result := e.d != 0xC0
  let m := { e.info (if result then 4 else 0) (if e.modBit 6 then 2 else 1) 4 4 with long := result, once := true, whole := !result }
  s.issueInstr m fun s i =>
    if result && i.ctx.kind == CtxKind.span then .cut
    else
      let f := e.atomForm (e.modBit 6)
      s.request i m f 16 (fun p => Phys.isHost p.key) false (!result) false i.aff fun t reqs =>
        reqs.foldl (fun u r =>
          let items := r.2.map fun c => c.1.item
          let ops := items.map fun t => (t.c, s.operandBytes i (e.src e.b) 4 t, s.operandBytes i (e.src e.c) 4 t)
          let want := if result then items.map fun t => { items := [t.c], dst := codeRegs e.d 4, bytes := 16, uni := false : Wanted } else []
          let va := match r.2 with
            | c :: _ => c.1.va
            | [] => 0
          u.sendAsu i r.1 va (items.map Item.c) (.cas128 ops) want (if result then i.place.flag else none) f.acq (onDevice r.2)) t

/-- The new value of an atomic and its flags (R336, R337); none where `cas` does not write. -/
def asuValue (op : Nat) (uns w64 ftz : Bool) (old v c : Nat) : Option Nat × FFlags :=
  let w := if w64 then 64 else 32
  let m := 2 ^ w
  let signed (x : Nat) : Int := if x < m / 2 then (x : Int) else (x : Int) - m
  let less (a b : Nat) : Bool := if uns then decide (a < b) else decide (signed a < signed b)
  let fp (q : Nat × FFlags) : Option Nat × FFlags := (some q.1, q.2)
  match op with
  | 0 => (some ((old + v) % m), 0)
  | 1 => (some (if less v old then v else old), 0)
  | 2 => (some (if less old v then v else old), 0)
  | 3 => (some (old &&& v), 0)
  | 4 => (some (old ||| v), 0)
  | 5 => (some (old ^^^ v), 0)
  | 6 => (some v, 0)
  | 7 => (if old = v then some c else none, 0)
  | 8 => (some (if v ≤ old then 0 else old + 1), 0)
  | 9 => (some (if old = 0 ∨ v < old then v else old - 1), 0)
  | 10 => fp (fp32.add .rn false ftz old v)
  | 11 => fp (fp32.minMax false ftz old v)
  | _ => fp (fp32.minMax true ftz old v)

/-- An owner's read-modify-write for each item in turn (R333, R337, R340): the final bytes, whether any was written, and
for each item the old bytes and the flags. -/
def asuRun (kind : AsuKind) (bs : List Byte) : List Byte × Bool × List (List Byte × FFlags) :=
  match kind with
  | .atomic op uns w64 ftz ops =>
    let n := if w64 then 8 else 4
    ops.foldl (fun acc o =>
      let old := acc.1
      let cut (v : DWord) : Nat := v.toNat % 2 ^ (8 * n)
      match asuValue op uns w64 ftz (leNat old) (cut o.2.1) (cut o.2.2) with
      | (some v, fl) => (leBytes n v, true, acc.2.2 ++ [(old, fl)])
      | (none, fl) => (old, acc.2.1, acc.2.2 ++ [(old, fl)])) (bs, false, [])
  | .cas128 ops =>
    ops.foldl (fun acc o =>
      let old := acc.1
      if old == o.2.1 then (o.2.2, true, acc.2.2 ++ [(old, 0)]) else (old, acc.2.1, acc.2.2 ++ [(old, 0)])) (bs, false, [])
  | _ => (bs, false, [])

/-- A request may be performed now (R102, R321, R333, R351): its items' earlier requests to its bytes and the writes before
it at the line are done, and what crosses fields may be applied. -/
def State.asuReady (s : State) (r : AsuReq) : Bool :=
  let earlier := s.asu.takeWhile fun q => q.id != r.id
  let line := lineOf r.key
  Phys.isPeer r.key == false && !r.waiting
    && !(earlier.any fun q => overlap (q.key, q.size) (r.key, r.size) && !q.waiting && q.launch == r.launch && q.cohort == r.cohort
          && q.items.any r.items.contains)
    && !(s.homeWrites.any fun w => w.line == line && (w.sent || decide (w.id < r.id)))
    && !(s.xwrites.any fun w => decide (w.id < r.id) && w.cells.any fun c => lineOf c.1 == line)
    && (r.stamp.isEmpty || s.mayApply (fieldOf r.core) (homeField r.key) r.seq r.stamp)

/-- A request is over. -/
def State.dropReq (s : State) (r : AsuReq) : State := { s with asu := s.asu.filter fun q => q.id != r.id }

/-- A request that returns no value: its operations, if it has any, write no register. -/
def State.valueless (s : State) (r : AsuReq) : Bool := !(s.ops.any fun o => r.ops.contains o.id && !o.dst.isEmpty)

/-- A request that cannot be done, for a cause (R323): a result faults on landing, its answer being the cause alone; an operation
without one is dropped. -/
def State.refuseReq (s : State) (r : AsuReq) (cause : Nat) : State :=
  let quiet := s.valueless r
  let s := s.dropReq r
  if quiet then
    let s : State := { s with ops := s.ops.filter fun o => !r.ops.contains o.id }
    (s.dropStores (sliceOf r.core) r.items.length).answer (some r.issue)
  else
    let ops := updWhere (fun o => r.ops.contains o.id) (fun (o : Op) => { o with back := some [.ofNat 8 cause] }) s.ops
    { s with ops := ops }

/-- Write bytes at their home for a request, as one write of the line's order (R102, R333). -/
def State.asuWrite (s : State) (r : AsuReq) (bs : List Byte) : State :=
  let cells := (List.range bs.length).map fun j => (r.key + j, bs.getD j 0)
  let s := s.sampleCross (some (fieldOf r.core)) [lineOf r.key]
  s.performWrite (sliceOf r.core) (s.pidOf r.launch (sliceOf r.core)) cells r.device

/-- Perform an atomic, a reduction or a `cas128` (R337, R340). What its core holds clean of the line may have been read before, and is
dropped (R334). -/
def State.asuAtomic (s : State) (r : AsuReq) : State :=
  let slice := sliceOf r.core
  let n := r.size
  let s := (s.dropClean r.core (· == lineOf r.key)).checkLine slice (lineOf r.key)
  if s.poisoned r.key n slice then s.refuseReq r 0x0A
  else
    let bs := (List.range n).map fun j => s.homeByte slice (r.key + j)
    let res := asuRun r.kind bs
    let s := if res.2.1 then s.asuWrite r res.1 else s.readL2 slice (s.pidOf r.launch slice) r.key r.device
    let olds := r.ops.zip res.2.2
    let ops := s.ops.map fun o => match olds.find? fun q => q.1 == o.id with
      | some q => { o with back := some q.2.1, fl := q.2.2 }
      | none => o
    let s : State := { s with ops := ops }
    (s.dropReq r).answer (some r.issue)

/-- The flags that an atomic of a peer raises (R338), which its owner's answer does not carry: those of the computation on the value it
returns. -/
def State.peerFlags (s : State) (o : Op) (bs : List Byte) : FFlags :=
  match s.asu.find? fun r => r.ops.contains o.id with
  | some r => match r.kind with
    | .atomic op uns w64 ftz ops => match ops.find? fun q => o.items.contains q.1 with
      | some q => (asuRun (.atomic op uns w64 ftz [q]) bs).2.2.foldl (fun acc v => acc ||| v.2) 0
      | none => 0
    | _ => 0
  | none => 0

/-- A result arrives at its registers, its flags are raised, in the region entries of its items too, and, where TRAPEN asks, the items
fault FPTrap (R334, R338). One that writes no register raises none. -/
def State.landAtomic (s : State) (o : Op) (key bytes : Nat) (acq : Option Nat) (uni : Bool) (bs : List Byte) : State :=
  let fl := if o.dst.isEmpty then 0 else if Phys.isPeer key then s.peerFlags o bs else o.fl
  let t := s.landRegs o uni (widthWords (if bytes = 16 then 6 else if bytes = 8 then 5 else 4) bs)
  let t := (t.acquireOp o acq).mergeFrom o.core [key]
  -- what the slice still holds of a peer's line may be older (R334)
  let t := if Phys.isPeer key then (t.giveUpPeer (sliceOf o.core) (lineOf key)).dropClean o.core (· == lineOf key) else t
  let t : State := { t with ops := t.ops.filter fun p => p.id != o.id }
  let raise (x : Ctx) : Ctx :=
    if o.serves x then
      { x with fflags := x.fflags ||| fl }.mapItems o.items.contains fun u => { u with entry := { u.entry with fflags := u.entry.fflags ||| fl } }
    else x
  let t : State := { t with ctxs := t.ctxs.map raise }
  let trap := (t.ctxs.filter fun x => o.serves x && x.fctl &&& fl != 0).map fun x => (x.id, x.cs.filter o.items.contains)
  trap.foldl (fun u q => u.faultSome q.1 0x11 q.2 o.pc o.va false o.issue) t

/-- Requests to a peer all of whose answers have arrived are over. -/
def State.sweepPeer (s : State) : State :=
  { s with asu := s.asu.filter fun r => !(Phys.isPeer r.key && !r.ops.isEmpty && !(s.ops.any fun p => r.ops.contains p.id)) }

/-- The items of a request that returns values fault, and the request is over when none is left; one that writes no register just ends
(R323). -/
def State.failAtomic (s : State) (o : Op) (uni : Bool) (cause : Nat) : State :=
  if o.dst.isEmpty then { s with ops := s.ops.filter fun p => p.id != o.id }
  else
    let t := s.landFault o uni cause
    { t with asu := t.asu.filter fun r => !(r.ops.contains o.id && !(t.ops.any fun p => r.ops.contains p.id)) }

/-! ### Fences (R361, R362) -/

/-- The acquire part of a fence: earlier loads and atomics of the context have returned their values. -/
def State.fenceAcquire (s : State) (i : Issue) (m : Meta) (scope : Nat) : Act :=
  if s.reading i.ctx i.ctx.cs then .stall else (s.acquired i.ctx.id scope).writeNothing i m

/-- R362. -/
def execFence (e : Ext) (s : State) : Host.Outcome State Fault Refusal :=
  let m := { e.info 0 0 0 0 with whole := true }
  let scope := e.modBits 0 3
  s.issueInstr m fun s i =>
    match e.modBits 3 2 with
    | 1 => s.fenceAcquire i m scope
    | 2 => s.releaseThen i scope fun t => t.writeNothing i m
    | _ => s.releaseThen i scope fun t => t.fenceAcquire i m scope

end Sys2Proof.Machine
end

