-- ==== Sys2Proof/Machine/Groups.lean ====
section
/-! DEFINITION. Cohorts and groups, their barriers, counted barriers and signals (13), and the ASU's performance of every
kind of request. -/

namespace Sys2Proof.Machine

/-! ### Records and phases (R366 to R370) -/

/-- The handle of a record (R366). -/
def GroupRec.handle (g : GroupRec) : Word := .ofNat 32 (g.gen * 65536 + g.core % 6 * 64 + g.slot)

/-- The record a handle names for a context; none where it is stale (R367). -/
def State.group? (s : State) (x : Ctx) (h : Word) : Option GroupRec :=
  s.groups.find? fun g => g.handle == h && clusterOf g.core == clusterOf x.core && g.launch == x.launch

/-- A record's name. -/
def GroupRec.ref (g : GroupRec) : GroupRef := .record g.core g.slot

/-- A record by its place. -/
def State.record? (s : State) (core slot : Nat) : Option GroupRec := s.groups.find? fun g => g.core == core && g.slot == slot

/-- The phase of a record or a cohort. -/
def State.phase? (s : State) (g : GroupRef) : Option Phase :=
  match g with
  | .record core slot => (s.record? core slot).map GroupRec.phase
  | .cohort launch n => (s.cohort? launch n).map Cohort.phase

/-- Change a phase. -/
def State.setPhase (s : State) (g : GroupRef) (p : Phase) : State :=
  match g with
  | .record core slot =>
    { s with groups := updWhere (fun r => r.core == core && r.slot == slot) (fun r => { r with phase := p }) s.groups }
  | .cohort launch n => s.setCohort launch n fun c => { c with phase := p }

/-- The launch of a group. -/
def State.groupLaunch (s : State) (g : GroupRef) : Option Launch :=
  match g with
  | .record core slot => (s.record? core slot).bind fun r => s.launch? r.launch
  | .cohort launch _ => s.launch? launch

/-- The members of a group: a cohort's items that have not exited, or those of a record (R366, R367). -/
def State.membersOf (s : State) (g : GroupRef) : List ItemKey :=
  match g with
  | .record core slot => match s.record? core slot with
    | some r => r.members
    | none => []
  | .cohort launch n => (s.ctxs.filter fun x => x.launch == launch && x.cohort == n).flatMap fun x => x.cs.map x.key

/-- The value a fault names for a group: its handle, 0 for a cohort (R418). -/
def State.groupDetail (s : State) (g : GroupRef) : DWord :=
  match g with
  | .record core slot => match s.record? core slot with
    | some r => r.handle.setWidth 64
    | none => 0
  | .cohort _ _ => 0

/-! ### Waking (R371) -/

/-- Items of a context end their wait with a status: their predicate takes it, or under PT a status of 0 faults them with
the cause of the breakage (R371); a span whose items part materialises. A status of 1 acquires at the scope (R377). -/
def State.wakeItems (s : State) (ctx : Nat) (cs : List Nat) (pd : BitVec 8) (pc : DWord) (ok : Bool) (cause : Nat)
    (detail : DWord) (scope : Nat) : State :=
  match s.ctx? ctx with
  | none => s
  | some x =>
    let cs := x.cs.filter cs.contains
    let fault := !ok && pd.toNat == 127
    let s := s.modCtx ctx fun y => y.mapItems cs.contains fun t => { t with wait := .none, since := s.clock }
    let s := if ok then s.acquired ctx scope else s
    if fault then s.faultSome ctx cause cs pc detail false
    else if pd.toNat == 127 then s
    else
      match s.launch? x.launch with
      | none => s
      | some l =>
        let whole := cs.length == x.items.length
        let s := if whole then s else s.needStrands ctx
        (s.partsOf x cs).foldl (fun t q => t.modCtx q.1 fun y =>
          if q.2.length == y.items.length then y.setP pd.toNat (.u ok)
          else y.setPSlots l.rcd pd.toNat (q.2.map fun c => (c, ok))) s

/-- The bar that an item waits in: its predicate and its PC. -/
def Item.barAt (i : Item) (g : GroupRef) : Option (BitVec 8 × DWord) :=
  match i.wait with
  | .bar h _ pd => if h = g then some (pd, i.pc - 12) else none
  | _ => none

/-- Wake every item that waits in a barrier of a group. -/
def State.wakeBar (s : State) (g : GroupRef) (ok : Bool) (cause : Nat) : State :=
  let detail := s.groupDetail g
  s.ctxs.foldl (fun t x =>
    let sites := (x.items.filterMap fun i => i.barAt g).foldl (fun acc p => if acc.contains p then acc else acc ++ [p]) []
    sites.foldl (fun u p =>
      let cs := (x.items.filter fun i => i.barAt g == some p).map Item.c
      u.wakeItems x.id cs p.1 p.2 ok cause detail 1) t) s

/-- R369: a phase completes when every member has arrived. -/
def State.checkPhase (s : State) (g : GroupRef) : State :=
  match s.phase? g with
  | none => s
  | some p =>
    let ms := s.membersOf g
    if p.broken || p.arrived.isEmpty || !(ms.all p.arrived.contains) then s
    else (s.setPhase g { p with arrived := [], since := none }).wakeBar g true 0

/-- R370: a group is broken, and its waiters wake with status 0. -/
def State.breakGroup (s : State) (g : GroupRef) (cause : Nat) : State :=
  match s.phase? g with
  | none => s
  | some p =>
    if p.broken then s
    else (s.setPhase g { p with arrived := [], since := none, broken := true, cause := cause }).wakeBar g false cause

/-- R369: an item arrives at a group's barrier, at which it already waits; one that is broken wakes it at once. -/
def State.arrive (s : State) (g : GroupRef) (k : ItemKey) : State :=
  match s.phase? g with
  | none => s
  | some p =>
    if p.broken then
      s.ctxs.foldl (fun t x => if x.launch == k.launch && x.cohort == k.cohort then
        match x.items.find? fun i => i.c == k.c with
        | some i => match i.barAt g with
          | some q => t.wakeItems x.id [k.c] q.1 q.2 false p.cause (s.groupDetail g) 1
          | none => t
        | none => t
        else t) s
    else
      let since := match p.since with
        | some n => some n
        | none => some s.clock
      (s.setPhase g { p with arrived := if p.arrived.contains k then p.arrived else p.arrived ++ [k], since := since }).checkPhase g

/-- An item leaves a record: it is counted no more, and the phase is checked (R368, R369). -/
def State.leaveRecord (s : State) (r : GroupRec) (k : ItemKey) : State :=
  let groups := updWhere (fun q => q.core == r.core && q.slot == r.slot)
    (fun (q : GroupRec) => { q with members := q.members.filter (· != k), phase := { q.phase with arrived := q.phase.arrived.filter (· != k) } }) s.groups
  let s : State := { s with groups := groups }
  let forget (x : Ctx) : Ctx :=
    if x.launch == k.launch && x.cohort == k.cohort then
      x.mapItems (· == k.c) fun t => { t with groups := t.groups.filter (· != r.handle) }
    else x
  let s : State := { s with ctxs := s.ctxs.map forget }
  s.checkPhase r.ref

/-- An instruction of a context reaches a group (R368). Those that reach it in one clock of their cluster do so in the order of their local cores,
then of their items: one that would come out of that order reaches it in a later clock. -/
def State.reachGroup (s : State) (g : GroupRef) (core c : Nat) : State :=
  match s.phase? g with
  | none => s
  | some p =>
    let at' := core % 6 * 4096 + c
    let f := fieldOf core
    let s : State := if p.last.1 = s.fieldClock f ∧ at' ≤ p.last.2 then { s with clock := s.clock + s.fieldClocks f 1 } else s
    s.setPhase g { p with last := (s.fieldClock f, at') }

/-- The instruction of some items reaches each of the groups they name once. -/
def State.reachGroups (s : State) (core : Nat) (gs : List (GroupRef × Nat)) : State :=
  let once := gs.foldl (fun acc g => if acc.any fun h => h.1 == g.1 then acc else acc ++ [g]) []
  once.foldl (fun t g => t.reachGroup g.1 core g.2) s

/-- The records an item belongs to. -/
def State.recordsOf (s : State) (k : ItemKey) : List GroupRec := s.groups.filter fun r => r.members.contains k

/-- An item leaves every run-time group (R205, R368). -/
def State.leaveAll (s : State) (k : ItemKey) : State := (s.recordsOf k).foldl (fun t r => t.leaveRecord r k) s

/-! ### gnew, gjoin, gleave, gfree (R378, R379) -/

/-- The next generation of a slot (R367). -/
def nextGen (g : Nat) : Nat := if 0xFFFE ≤ g then 1 else g + 1

/-- The lowest free group slot of a core. -/
def State.freeSlot (s : State) (core : Nat) : Option Nat := (List.range 64).find? fun n => (s.record? core n).isNone

/-- A new record in a slot, and its handle (R367, R379). -/
def State.newRecord (s : State) (x : Ctx) (slot : Nat) : GroupRec × State :=
  let gen := nextGen (lookupD s.grpGens (x.core, slot) 0)
  let g : GroupRec :=
    { core := x.core, slot := slot, gen := gen, launch := x.launch, members := [],
      phase := .start }
  (g, { s with groups := s.groups ++ [g], grpGens := storeKey s.grpGens (x.core, slot) gen })

/-- R379. -/
def execGnew (e : Ext) (s : State) : Host.Outcome State Fault Refusal :=
  let m := { e.info 1 0 0 0 with once := true, whole := true }
  s.issueInstr m fun s i =>
    let (h, t) := match s.freeSlot i.ctx.core with
      | none => ((-1 : Word), s)
      | some n => let (g, t) := s.newRecord i.ctx n
        (g.handle, t)
    match t.writeOuts i m [{ dst := dstOf e.d, form := some (.u h), val := fun _ => h }] with
    -- where the handle finds no room nothing is performed (R159)
    | .set _ => .set (s.noRoom i)
    | a => a

/-- A span takes a handle or address only in form U (13, instruction entries). -/
def Issue.needsU (i : Issue) (f : XForm) : Bool :=
  i.ctx.kind == CtxKind.span && match f with
    | .u _ => false
    | _ => true

/-- `gjoin` and `gleave`: items whose handle fails fault; the others are served in ascending c. -/
def State.membership (s : State) (i : Issue) (m : Meta) (e : Ext) (bad : State → Ctx → Item → GroupRec → Bool)
    (act : State → Ctx → Item → GroupRec → State) : Act :=
  let f := s.src32 i.ctx i.launch.rcd (e.src e.a)
  let rec? (t : Item) : Option GroupRec := s.group? i.ctx (f.at i.launch.rcd i.ctx.cohort t.c)
  let wrong := i.aff.filter fun t => match rec? t with
    | none => true
    | some g => bad s i.ctx t g
  if i.needsU f then .cut
  else if !wrong.isEmpty then
    if i.ctx.kind == CtxKind.span then .cut else .set (s.faultItems i.ctx.id 0x05 (wrong.map Item.c) i.pc 0 false)
  else
    let s := s.reachGroups i.ctx.core (i.aff.filterMap fun it => (rec? it).map fun g => (g.ref, it.c))
    let t := i.aff.foldl (fun t it => match rec? it with
      | some g => act t i.ctx it g
      | none => t) s
    t.writeNothing i m

/-- Add an item to a record (R367, R369). -/
def State.joinRecord (s : State) (x : Ctx) (t : Item) (g : GroupRec) : State :=
  if g.members.contains (x.key t.c) then s
  else
    let groups := updWhere (fun q => q.core == g.core && q.slot == g.slot) (fun (q : GroupRec) => { q with members := q.members ++ [x.key t.c] }) s.groups
    let s : State := { s with groups := groups }
    let s := s.modCtx x.id fun y => y.mapItems (· == t.c) fun u => { u with groups := u.groups ++ [g.handle] }
    s.checkPhase g.ref

/-- R379. -/
def execGjoin (e : Ext) (s : State) : Host.Outcome State Fault Refusal :=
  let m := { e.info 0 1 0 0 with whole := true }
  s.issueInstr m fun s i => s.membership i m e
    (fun _ x t g => !g.members.contains (x.key t.c) && decide (8 ≤ t.groups.length)) State.joinRecord

/-- R379. -/
def execGleave (e : Ext) (s : State) : Host.Outcome State Fault Refusal :=
  let m := { e.info 0 1 0 0 with whole := true }
  s.issueInstr m fun s i => s.membership i m e (fun _ _ _ _ => false)
    fun t x it g => if g.members.contains (x.key it.c) then t.leaveRecord g (x.key it.c) else t

/-- Free a record: broken if it has members or waiters, its members removed (R370, R379). -/
def State.freeRecord (s : State) (g : GroupRec) : State :=
  let s := if g.members.isEmpty && g.phase.arrived.isEmpty then s else s.breakGroup g.ref 0x08
  let s : State := { s with groups := s.groups.filter fun q => !(q.core == g.core && q.slot == g.slot) }
  { s with ctxs := s.ctxs.map fun x => x.mapItems (fun _ => x.launch == g.launch) fun t => { t with groups := t.groups.filter (· != g.handle) } }

/-- R379. -/
def execGfree (e : Ext) (s : State) : Host.Outcome State Fault Refusal :=
  let m := { e.info 0 1 0 0 with once := true, whole := true }
  s.issueInstr m fun s i =>
    let f := s.src32 i.ctx i.launch.rcd (e.src e.a)
    if i.needsU f then .cut
    else
      match i.first with
      | none => s.writeNothing i m
      | some t =>
        match s.group? i.ctx (f.at i.launch.rcd i.ctx.cohort t.c) with
        | none => .set (s.faultCtx i.ctx.id 0x05 i.pc 0 false)
        | some g => ((s.reachGroup g.ref i.ctx.core t.c).freeRecord g).writeNothing i m

/-! ### bar (R380, R381) -/

/-- The group an item's handle names: 0 its cohort, else a record it is a member of. -/
def State.barGroup (s : State) (x : Ctx) (c : Nat) (h : Word) : Option GroupRef :=
  if h = 0 then some (.cohort x.launch x.cohort)
  else match s.group? x h with
    | some g => if g.members.contains (x.key c) then some g.ref else none
    | none => none

/-- R381: after its release, each affected item waits at the next instruction and arrives. -/
def execBar (e : Ext) (s : State) : Host.Outcome State Fault Refusal :=
  let m := { e.info 0 1 0 0 with once := true, whole := true }
  s.issueInstr m fun s i =>
    let r := i.launch.rcd
    let f := s.src32 i.ctx r (e.src e.a)
    let h (t : Item) : Word := f.at r i.ctx.cohort t.c
    let wrong := i.aff.filter fun t => (s.barGroup i.ctx t.c (h t)).isNone
    let span := i.ctx.kind == CtxKind.span
    if i.needsU f || (span && decide (e.d.toNat < 96) && !i.full) then .cut
    else if !wrong.isEmpty then
      if span then .cut else .set (s.faultItems i.ctx.id 0x05 (wrong.map Item.c) i.pc 0 false)
    else s.releaseThen i 1 fun s0 =>
      let s := s0.modCtx i.ctx.id fun x => x.kill (i.grp.map Item.c) m.marks
      let one := match i.aff with
        | t :: ts => ts.all fun u => h u == h t
        | [] => true
      let s := s.modCtx i.ctx.id fun x => x.reserveP i e.d one
      if !s0.fitsFrom s i.ctx.core then .set (s0.noRoom i)
      else
      let s := s.advance i m
      let s := s.reachGroups i.ctx.core (i.aff.filterMap fun it => (s.barGroup i.ctx it.c (h it)).map fun g => (g, it.c))
      let s := i.aff.foldl (fun t it => t.modCtx i.ctx.id fun x => x.mapItems (· == it.c) fun u =>
        { u with wait := .bar ((s.barGroup i.ctx it.c (h it)).getD (.cohort 0 0)) (h it) e.d }) s
      .set (i.aff.foldl (fun t it => match s.barGroup i.ctx it.c (h it) with
        | some g => t.arrive g (i.ctx.key it.c)
        | none => t) s)

/-- The field a group lies in: a record's, or that of the first core of a cohort. -/
def State.groupField (s : State) (g : GroupRef) : Nat :=
  match g with
  | .record core _ => fieldOf core
  | .cohort launch n => match s.cohort? launch n with
    | some k => fieldOf ((k.shares.map Share.core).headD 0)
    | none => 0

/-- The deadline of a group's phase (R370). -/
def State.phaseDeadline (s : State) (g : GroupRef) : Option Nat :=
  match s.phase? g, s.groupLaunch g with
  | some p, some l => if p.broken then none else p.since.map fun n => n + s.fieldClocks (s.groupField g) (2 ^ l.rcd.barLog)
  | _, _ => none

/-- R370: a phase that has waited 2^BARLOG2 cluster clocks breaks with Watchdog. -/
def execGroupPhaseWatchdog (grp : GroupRef) (s : State) : Host.Outcome State Fault Refusal :=
  match s.phaseDeadline grp with
  | none => .next s
  | some d => .next (({ s with clock := max s.clock d } : State).breakGroup grp 0x09)

/-! ### Counted barriers and signals (R372 to R376, R382, R383) -/

/-- The number in bytes of an object. -/
def State.objNat (s : State) (slice key off n : Nat) : Nat := leNat ((List.range n).map fun j => s.homeByte slice (key + off + j))

/-- A number in the object's bytes. -/
def cellsAt (key off n v : Nat) : List (Nat × Byte) := ((List.range n).zip (leBytes n v)).map fun q => (key + off + q.1, q.2)

/-- Items that wait at an object. -/
def State.waitersAt (s : State) (key : Nat) : List AsuReq := s.asu.filter fun r => r.key == key && r.waiting

/-- The device state an owner keeps in an object (R372, R373): bytes the spec does not give; a signal without waiters
holds zeros there. -/
def State.deviceCells (s : State) (key : Nat) (signal : Bool) : List (Nat × Byte) × State :=
  let off := if signal then 8 else 16
  let n := if signal then 8 else 48
  if signal && (s.waitersAt key).isEmpty then (cellsAt key off n 0, s)
  else ((List.range n).map (fun j => (key + off + j, Config.deviceByte (64 * s.free + j))), s.draw)

/-- Write an object's bytes, with its device state, at its home (R374). -/
def State.putObject (s : State) (core launch key : Nat) (signal : Bool) (cells : List (Nat × Byte)) : State :=
  let (dev, s) := s.deviceCells key signal
  let s : State := if signal then s
    else { s with barDl := updWhere (fun d => d.key == key) (fun (d : BarDeadline) => { d with dev := dev.map Prod.snd }) s.barDl }
  let s := s.sampleCross (some (fieldOf core)) [lineOf key]
  s.performWrite (sliceOf core) (s.pidOf launch (sliceOf core)) (cells ++ dev)

/-- The deadline at an object that stores have made anew runs no more (R493). -/
def State.voidDeadline (s : State) (key : Nat) : State :=
  { s with barDl := s.barDl.filter fun d => d.key != key || ((List.range 48).map fun j => s.homeByte d.slice (key + 16 + j)) == d.dev }

/-- The predicate and scope of a waiting request. -/
def AsuKind.waits : AsuKind → Option (BitVec 8 × Nat)
  | .barw _ pd scope => some (pd, scope)
  | .sigw _ pd scope => some (pd, scope)
  | _ => none

/-- The number that stands for the launch of a peer's request, which no launch here has. -/
def peerLaunch : Nat := 2 ^ 33

/-- A request is a peer package's (R374). -/
def AsuReq.fromPeer (r : AsuReq) : Bool := r.launch == peerLaunch

/-- Some items' part in a waiting request ends with a status (R371, R383), and the request with its last; a peer's wait is answered with
the status and the cause. -/
def State.wakeReq (s : State) (r : AsuReq) (cs : List Nat) (ok : Bool) (cause : Nat) : State :=
  let left := r.items.filter fun c => !cs.contains c
  let s : State := if left.isEmpty then s.dropReq r
    else { s with asu := updWhere (fun q => q.id == r.id) (fun (q : AsuReq) => { q with items := left }) s.asu }
  if r.fromPeer then s.reply (.bytes [if ok then 1 else 0, .ofNat 8 (if ok then 0 else cause)])
  else match r.kind.waits with
  | none => s
  | some (pd, scope) =>
    let mine (i : Item) : Bool := cs.contains i.c && match i.wait with
      | .barw n => n == r.id
      | .sigw n _ => n == r.id
      | _ => false
    s.ctxs.foldl (fun t x =>
      let ds := (x.items.filter mine).map Item.c
      if ds.isEmpty then t else t.wakeItems x.id ds pd r.pc ok cause r.va scope) s

/-- The condition of an item's wait in a request on the object as it stands: its status, when its wait ends (R383); a broken object ends
every wait with status 0 (R375). At an object whose STATE is above 1, which R383's `1 - STATE` does not give a status, a change of PHASE
gives 0, and a signal counts as live (DESIGN CHOICE, log entry 102). -/
def State.objStatus (s : State) (r : AsuReq) (c : Nat) : Option Bool :=
  let sl := sliceOf r.core
  match r.kind with
  | .barw toks _ _ =>
    let st := s.objNat sl r.key 12 1
    if st = 1 then some false else if s.objNat sl r.key 8 4 ≠ (lookupD toks c 0).toNat then some (decide (st = 0)) else none
  | .sigw vals _ _ =>
    if s.objNat sl r.key 4 1 = 1 then some false
    else if (s.objNat sl r.key 0 4 + 2 ^ 32 - (lookupD vals c 0).toNat) % 2 ^ 32 < 2 ^ 31 then some true else none
  | _ => none

/-- The cause byte of an object. -/
def State.objCause (s : State) (r : AsuReq) : Nat :=
  s.objNat (sliceOf r.core) r.key (match r.kind with
    | .barw _ _ _ => 13
    | _ => 5) 1

/-- Wake the items of a request whose conditions now hold, those of one status together. -/
def State.wakeDue (s : State) (r : AsuReq) : State :=
  [true, false].foldl (fun t ok =>
    match t.asu.find? fun q => q.id == r.id with
    | none => t
    | some q => match q.items.filter fun c => s.objStatus r c == some ok with
      | [] => t
      | cs => t.wakeReq q cs ok (s.objCause r)) s

/-- Wake every waiter of an object whose condition now holds. -/
def State.wakeObject (s : State) (key : Nat) : State := (s.waitersAt key).foldl State.wakeDue s

/-- A signal at which no item waits reads zero in its device state (R373). -/
def State.idleSignal (s : State) (core launch key : Nat) : State :=
  if !(s.waitersAt key).isEmpty || s.objNat (sliceOf core) key 8 8 = 0 then s
  else s.putObject core launch key true []

/-- Break an object (R371, R375, R376): STATE and CAUSE are written, its deadline ends and every waiter wakes. One that is broken stays as
it is (R494). -/
def State.breakObject (s : State) (core launch key cause : Nat) (signal : Bool) : State :=
  let off := if signal then 4 else 12
  if s.objNat (sliceOf core) key off 1 = 1 then s
  else
    let s : State := { s with barDl := s.barDl.filter fun d => d.key != key }
    let s := s.putObject core launch key signal (cellsAt key off 1 1 ++ cellsAt key (off + 1) 1 cause)
    let s := s.wakeObject key
    if signal then s.idleSignal core launch key else s

/-- Initialise a counted barrier (R383). -/
def State.doBarinit (s : State) (r : AsuReq) (n : Nat) : State :=
  let s := if (s.waitersAt r.key).isEmpty then s else s.breakObject r.core r.launch r.key 0x08 false
  let s : State := { s with barDl := s.barDl.filter fun d => d.key != r.key }
  s.putObject r.core r.launch r.key false (cellsAt r.key 0 4 n ++ cellsAt r.key 4 12 0)

/-- The deadline of a phase that starts with an arrival of an item whose launch has this BARLOG2 (R376). -/
def State.startDeadline (s : State) (r : AsuReq) (barLog : Nat) : State :=
  let d : BarDeadline :=
    { key := r.key, till := s.clock + s.fieldClocks (fieldOf r.core) (2 ^ barLog), slice := sliceOf r.core }
  { s with barDl := d :: s.barDl.filter fun d => d.key != r.key }

/-- The BARLOG2 of a request's launch. -/
def State.barLogOf (s : State) (r : AsuReq) : Nat :=
  match s.launch? r.launch with
  | some l => l.rcd.barLog
  | none => 0

/-- Arrive at a counted barrier (R374, R376, R383). -/
def State.doBarr (s : State) (r : AsuReq) (k barLog : Nat) : State :=
  let s := s.voidDeadline r.key
  let sl := sliceOf r.core
  let bound := s.objNat sl r.key 0 4
  let count := s.objNat sl r.key 4 4
  let phase := s.objNat sl r.key 8 4
  let st := s.objNat sl r.key 12 1
  if 1 < st || bound = 0 || 2 ^ 20 < bound || s.objNat sl r.key 14 2 ≠ 0 then s.breakObject r.core r.launch r.key 0x08 false
  else if st = 1 then s
  else if bound < count + k then s.breakObject r.core r.launch r.key 0x08 false
  else if count + k = bound then
    let s : State := { s with barDl := s.barDl.filter fun d => d.key != r.key }
    let s := s.putObject r.core r.launch r.key false (cellsAt r.key 4 4 0 ++ cellsAt r.key 8 4 ((phase + 1) % 2 ^ 32))
    s.wakeObject r.key
  else
    let s := if count = 0 then s.startDeadline r barLog else s
    s.putObject r.core r.launch r.key false (cellsAt r.key 4 4 (count + k))

/-- Add to a signal (R383). -/
def State.doSigs (s : State) (r : AsuReq) (v : Word) : State :=
  let old := s.objNat (sliceOf r.core) r.key 0 4
  let s := s.putObject r.core r.launch r.key true (cellsAt r.key 0 4 ((old + v.toNat) % 2 ^ 32))
  (s.wakeObject r.key).idleSignal r.core r.launch r.key

/-- A request of the machine's own on an object of this package: that it be broken, or that a signal's device state be cleared (R373,
R375). What it asks of a peer's object goes to the peer, and nothing comes back. A signal whose line no peer holds is cleared at once. -/
def State.askObject (s : State) (core launch key : Nat) (kind : AsuKind) : State :=
  if Phys.isPeer key then s
  else if kind == .idle && (s.dirEntry (lineOf key)).isNone then s.idleSignal core launch key
  else
    let (id, s) := s.fresh
    { s with asu := s.asu ++ [{ id := id, issue := id, cluster := s.ownerCluster (sliceOf core) (lineOf key), core := core, ctx := 0,
                                launch := launch, cohort := 0, items := [], key := key, va := 0, kind := kind, ops := [], pc := 0,
                                waiting := false, seq := 0, stamp := [], device := false }] }

/-- Items that wait at a poisoned object, or whose wait ends for another error, fault (R374). -/
def State.failWaitReq (s : State) (r : AsuReq) (cause : Nat) : State :=
  let s := s.dropReq r
  let s := if r.fromPeer then s.reply .poison else s
  let mine (i : Item) : Bool := match i.wait with
    | .barw n => n == r.id
    | .sigw n _ => n == r.id
    | _ => false
  s.ctxs.foldl (fun t x =>
    let cs := (x.items.filter mine).map Item.c
    if cs.isEmpty then t
    else (t.modCtx x.id fun y => y.mapItems cs.contains fun u => { u with wait := .none }).faultSome x.id cause cs r.pc r.va false) s

/-- The owner has taken a wait: its items wait at the object. -/
def State.awaitReq (s : State) (r : AsuReq) : State :=
  { s with asu := updWhere (fun q => q.id == r.id) (fun q => { q with waiting := true }) s.asu }

/-- The object of an addition to a signal, or of an arrival without a result, carries a poison mark: the items fault, though the
instruction is behind them (R374). -/
def State.failObject (s : State) (r : AsuReq) : State :=
  if s.valueless r then (((s.dropReq r).answer (some r.issue)).faultCut r.launch r.cohort 0x0A r.items r.pc r.va) else s.refuseReq r 0x0A

/-- The owner performs a request on a barrier or a signal (R374, R383). -/
def State.asuObject (s : State) (r : AsuReq) : State :=
  let s := s.checkLine (sliceOf r.core) (lineOf r.key)
  let bad := s.poisoned r.key r.size
  match r.kind with
  | .barinit n => ((s.doBarinit r n).dropReq r).answer (some r.issue)
  | .barr k =>
    if bad then s.failObject r
    else
      let tok := leBytes 4 (s.objNat (sliceOf r.core) r.key 8 4)
      let s := s.doBarr r k (s.barLogOf r)
      let ops := updWhere (fun o => r.ops.contains o.id) (fun (o : Op) => { o with back := some tok }) s.ops
      (({ s with ops := ops } : State).dropReq r).answer (some r.issue)
  | .sigs v => if bad then s.failObject r else ((s.doSigs r v).dropReq r).answer (some r.issue)
  | .barw _ _ _ => if bad then s.failWaitReq r 0x0A else (s.awaitReq r).wakeDue r
  | .sigw _ _ _ =>
    if bad then s.failWaitReq r 0x0A
    else
      let s := (s.awaitReq r).wakeDue r
      if s.asu.any fun q => q.id == r.id then s.putObject r.core r.launch r.key true [] else s
  | .brk cause signal => (s.breakObject r.core r.launch r.key cause signal).dropReq r
  | .idle => (s.dropReq r).idleSignal r.core r.launch r.key
  | _ => s

/-- R337, R102: the owner performs a request. A line with a directory entry is first invalidated at its holders; a host
line needs a live path, and without one a result faults and an operation with no result is dropped (R323, R474). -/
def execAsuRequest (req : Nat) (s : State) : Host.Outcome State Fault Refusal :=
  match s.asu.find? fun r => r.id == req with
  | none => .next s
  | some r =>
    if !s.asuReady r then .next s
    else if Phys.isLocal r.key && (s.dirEntry (lineOf r.key)).isSome then
      let (id, s) := s.fresh
      let w : HomeWrite :=
        { id := id, slice := r.key / 2 ^ 36, line := lineOf r.key, pid := s.pidOf r.launch (sliceOf r.core), cells := [], ack := none, sent := true,
          device := false, ev := false, peer := false }
      .next { s with homeWrites := s.homeWrites ++ [w] }
    else
      let path := s.path (sliceOf r.core) r.key 0
      if path == .down then .next (s.refuseReq r 0x0C)
      else if path != .up then .next s
      else
        let s := if r.stamp.isEmpty then s else s.takeStamp (fieldOf r.core) (homeField r.key) r.seq r.stamp
        .next (match r.kind with
          | .atomic _ _ _ _ _ => s.asuAtomic r
          | .cas128 _ => s.asuAtomic r
          | _ => s.asuObject r)

/-- The error that an answer carries. -/
def answerCause : Answer → Option Nat
  | .refused => some 0x05
  | .linkDown => some 0x0C
  | .linkParked => some 0x0B
  | .poison => some 0x0A
  | _ => none

/-- A wait at a peer's object ends with the status and the cause that the peer sends, or with an error (R371, R374). -/
def State.endPeerWait (s : State) (r : AsuReq) (ans : Answer) : State :=
  match ans with
  | .data bs => s.wakeReq r r.items (bs.getD 0 0 != 0) (bs.getD 1 0).toNat
  | e => match answerCause e with
    | some c => s.failWaitReq r c
    | none => s

/-- R334, R338: a result arrives at its registers, or an error faults its items. The number may also be that of a request that waits at
a peer's object. -/
def execAtomicResultLanding (op : Nat) (ans : Answer) (s : State) : Host.Outcome State Fault Refusal :=
  match s.ops.find? fun o => o.id == op with
  | none => match s.asu.find? fun r => r.id == op && Phys.isPeer r.key && r.kind.waits.isSome with
    | some r => .next (s.endPeerWait r ans)
    | none => .next s
  | some o =>
    match o.kind with
    | .atomic key bytes acq uni =>
      match ans with
      | .home => match o.back with
        | none => .next s
        | some [c] => .next (s.failAtomic o uni c.toNat)
        | some bs => .next (s.landAtomic o key bytes acq uni bs)
      | .data bs => .next (if Phys.isPeer key then (s.landAtomic o key bytes acq uni bs).sweepPeer else s)
      | e => .next (match answerCause e with
        | some c => if o.remote then s.failAtomic o uni c else s
        | none => s)
    -- a peer answers an addition to a signal, or an arrival without a result, at a poisoned object (R374)
    | .ack .peer => match s.asu.find? fun r => r.issue == o.issue && (match r.kind with
        | .sigs _ => true
        | .barr _ => true
        | _ => false) with
      | some r => if ans == .poison then
          .next (({ s with ops := s.ops.filter (fun p => p.id != op), asu := s.asu.filter fun q => q.id != r.id } : State).faultCut
            r.launch r.cohort 0x0A r.items r.pc r.va)
        else .next s
      | none => .next s
    | _ => .next s

/-- R376: a counted barrier's phase passes its deadline; it is broken once no peer holds its line (R102). -/
def execCountedBarrierDeadline (obj : Nat) (s : State) : Host.Outcome State Fault Refusal :=
  match (s.voidDeadline obj).barDl.find? fun d => d.key == obj with
  | none => .next (s.voidDeadline obj)
  | some d =>
    let s : State := { s with clock := max s.clock d.till }
    match s.clearHolders d.slice [lineOf obj] with
    | some t => .next t
    | none => .next (s.breakObject (sliceCore d.slice 0) 0 obj 0x09 false)

/-- R376: a `sigw` that has waited 2^BARLOG2 cluster clocks wakes alone with status 0; the items of its context that
wait in the same `sigw` wake with it. -/
def execSigwTimeout (ctx item : Nat) (s : State) : Host.Outcome State Fault Refusal :=
  match s.ctx? ctx with
  | none => .next s
  | some x =>
    match x.items.find? fun i => i.c == item with
    | none => .next s
    | some i =>
      match i.wait with
      | .sigw n till =>
        let s : State := { s with clock := max s.clock till }
        let cs := (x.items.filter fun j => j.wait == .sigw n till).map Item.c
        match s.asu.find? fun r => r.id == n with
        | none => .next s
        | some r =>
          let t := s.wakeReq r cs false 0x09
          .next (if t.asu.any fun q => q.id == n then t else t.askObject r.core r.launch r.key .idle)
      | _ => .next s

/-! ### barinit, barr, barw, sigs, sigw -/

/-- An object must lie in local or peer memory of normal type (R374). -/
def Piece.notObject (p : Piece) : Bool := Phys.isHost p.key || p.mt != 0

/-- The items of each request record the object (R375): the last eight. -/
def State.noteObject (s : State) (x : Ctx) (cs : List Nat) (key : Nat) (signal : Bool) : State :=
  let key := 2 * key + if signal then 1 else 0
  s.modCtx x.id fun y => y.mapItems cs.contains fun t => { t with objs := ((t.objs.filter (· != key)) ++ [key]).drop ((t.objs.filter (· != key)).length - 7) }

/-- The requests of a barrier or signal instruction (R383): `rel` releases at its SCOPE first, `reads` faults Poison where
the object is poisoned (R374). -/
def State.objectRequest (s : State) (i : Issue) (m : Meta) (e : Ext) (size : Nat) (rel reads : Bool)
    (go : State → Nat → List Checked → State) : Act :=
  let f := { e.atomForm (e.modBit 0) with ord := if rel then 2 else 0 }
  let base := s.src32 i.ctx i.launch.rcd f.base
  if i.needsU base || (f.a64 && i.needsU (s.srcHi i.ctx i.launch.rcd f.base false)) then .cut
  else
    let bad (p : Piece) : Bool := p.notObject
    s.request i m f size bad reads false true i.aff fun t reqs =>
      reqs.foldl (fun u r => (go u r.1 (r.2.map Prod.fst)).noteObject i.ctx (r.2.map fun c => c.1.item.c) r.1 (size == 16)) t

/-- R383: `barinit`. -/
def execBarinit (e : Ext) (s : State) : Host.Outcome State Fault Refusal :=
  let m := { e.info 0 (if e.modBit 0 then 2 else 1) 1 0 with once := true, whole := true }
  s.issueInstr m fun s i =>
    let fb := s.src32 i.ctx i.launch.rcd (e.src e.b)
    let n (t : Item) : Nat := (fb.at i.launch.rcd i.ctx.cohort t.c).toNat
    let act := s.objectRequest i m e 64 true false fun t key cks =>
      match cks with
      | [] => t
      | c :: _ => t.sendAsu i key c.va (cks.map fun d => d.item.c) (.barinit (n c.item)) [] none none false
    -- the operand of the lowest affected item that names an object counts (R384)
    let va (t : Item) : Nat := s.ea i (e.atomForm (e.modBit 0)) t
    let used := i.aff.filterMap fun t => i.aff.find? fun u => va u == va t
    if used.any fun t => n t = 0 || decide (2 ^ 20 < n t) then .set (s.faultCtx i.ctx.id 0x05 i.pc 0 false) else act

/-- R383: `barr`. -/
def execBarr (e : Ext) (s : State) : Host.Outcome State Fault Refusal :=
  let result := e.d != 0xC0
  let m := { e.info (if result then 1 else 0) (if e.modBit 0 then 2 else 1) 0 0 with once := true, whole := true }
  s.issueInstr m fun s i =>
    if i.ctx.kind == CtxKind.span && result && decide (e.d.toNat < 128) && !i.full then .cut
    else s.objectRequest i m e 64 true true fun t key cks =>
      match cks with
      | [] => t
      | c :: _ =>
        let cs := cks.map fun d => d.item.c
        -- a q register takes the token of the object that the lowest affected item names (R154)
        let mine := 128 > e.d.toNat || i.first.any fun t => cs.contains t.c
        let want := if result && mine then [{ items := cs, dst := codeRegs e.d 1, bytes := 4, uni := cs.length == i.ctx.items.length : Wanted }] else []
        t.sendAsu i key c.va cs (.barr cs.length) want none none false

/-- Send the waits of `barw` and `sigw` at one object, as one request (R383): the items stand at the next instruction and wait for its
owner. -/
def State.sendWaits (s : State) (i : Issue) (key : Nat) (cks : List Checked) (val : Item → Word) (kind : List (Nat × Word) → AsuKind)
    (wait : Nat → Wait) : State :=
  match cks with
  | [] => s
  | c :: _ =>
    let cs := cks.map fun d => d.item.c
    let (id, s) := s.fresh
    let s := s.pushAsu i key c.va cs (kind (cks.map fun d => (d.item.c, val d.item))) [] id id false
    s.modCtx i.ctx.id fun x => x.mapItems cs.contains fun u => { u with wait := wait id }

/-- The body of `barw` and `sigw` (R377, R383). -/
def State.objectWait (s : State) (i : Issue) (m : Meta) (e : Ext) (size : Nat) (kind : List (Nat × Word) → AsuKind) (wait : Nat → Wait) : Act :=
  let span := i.ctx.kind == CtxKind.span
  let fb := s.src32 i.ctx i.launch.rcd (e.src e.b)
  let val (t : Item) : Word := fb.at i.launch.rcd i.ctx.cohort t.c
  if span && decide (e.d.toNat < 96) && !i.full then .cut
  else s.objectRequest i m e size false true fun t key cks =>
    -- room for the status is sought with what else the request needs (R159)
    (t.modCtx i.ctx.id fun x => x.reserveP i e.d (decide (i.aff.length ≤ 1))).sendWaits i key cks val kind wait

/-- R383: `barw`. -/
def execBarw (e : Ext) (s : State) : Host.Outcome State Fault Refusal :=
  let m := { e.info 0 (if e.modBit 0 then 2 else 1) 1 0 with once := true, whole := true }
  s.issueInstr m fun s i => s.objectWait i m e 64 (fun v => .barw v e.d e.scope) fun n => .barw n

/-- R383: `sigs`: the operands of the items that name one signal are added. -/
def execSigs (e : Ext) (s : State) : Host.Outcome State Fault Refusal :=
  let m := { e.info 0 (if e.modBit 0 then 2 else 1) 1 0 with once := true, whole := true }
  s.issueInstr m fun s i =>
    let fb := s.src32 i.ctx i.launch.rcd (e.src e.b)
    s.objectRequest i m e 16 true true fun t key cks =>
      match cks with
      | [] => t
      | c :: _ =>
        let v := cks.foldl (fun acc d => acc + fb.at i.launch.rcd i.ctx.cohort d.item.c) (0 : Word)
        t.sendAsu i key c.va (cks.map fun d => d.item.c) (.sigs v) [] none none false

/-- R383: `sigw`. -/
def execSigw (e : Ext) (s : State) : Host.Outcome State Fault Refusal :=
  let m := { e.info 0 (if e.modBit 0 then 2 else 1) 1 0 with once := true, whole := true }
  s.issueInstr m fun s i => s.objectWait i m e 16 (fun v => .sigw v e.d e.scope) fun n =>
    .sigw n (s.clock + s.fieldClocks (fieldOf i.ctx.core) (2 ^ i.launch.rcd.barLog))

end Sys2Proof.Machine
end

