-- ==== Sys2Proof/Machine/Control.lean ====
section
/-! DEFINITION. Instruction fetch, clause headers (02 R45 to R56), branches, calls, exit, join, yield, wait and the
events of paths (07). -/

namespace Sys2Proof.Machine

/-! ### Fetch (R52 to R56, R73) -/

/-- What reading code gives: a word; a page to walk for or to pull; a way that is not open yet; or a fault, with the address at which
it was met (R418) and, for a poisoned sector, the byte's place. -/
inductive Fetched where
  | ok (w : Word)
  | walk (va : Nat)
  | pull (page va : Nat)
  | held
  | bad (cause va : Nat) (met : Option Phys)
  deriving DecidableEq, Repr

/-- A byte of code: of its sector, what it holds now or, each time anew, some earlier contents that the launch may fetch (R57). -/
def State.codeByte (s : State) (l : Launch) (k : Phys) : Byte :=
  match s.oldCode.filter fun e => e.sector == sectorOf k && e.users.contains l.num with
  | [] => s.homeByte l.slice k
  | olds => match olds[Config.oldCode s.free (sectorOf k) % (olds.length + 1)]? with
    | some e => e.bytes.getD (k % 32) 0
    | none => s.homeByte l.slice k

/-- Read bytes as an instruction fetch reads them: through the TLB, from local memory (R73, R84). A read does not cross to a field that
has not come up (R14), and waits behind a write that its line's home has sent invalidations for (R102). -/
def State.fetchAt (s : State) (core : Nat) (l : Launch) (va n : Nat) (lent : List Leaf) : Fetched :=
  match s.look core l.slice l.asid va .fetch false lent with
  | .miss => .walk va
  | .pull p => .pull p va
  | .bad c => .bad c va none
  | .ok k _ =>
    if s.gatedTo (sliceOf core) k || s.homeWrites.any (fun w => w.sent && w.line == lineOf k) then .held
    else if s.poisoned k n then .bad 0x0A va (some k)
    else .ok (.ofNat 32 (leNat ((List.range n).map fun j => s.codeByte l (k + j))))

/-- The fetch of `n` words of code has gone through the L2 banks of their homes under the launch's partition (R83, R94, R96), but for a
device page (R72). -/
def State.codeRead (s : State) (core : Nat) (l : Launch) (va n : Nat) (lent : List Leaf) : State :=
  let ends := if (va + 4 * n - 1) / 128 = va / 128 then [va] else [va, va + 4 * n - 1]
  ends.foldl (fun t a => match t.look core l.slice l.asid a .fetch false lent with
    | .ok k leaf => t.readL2 (sliceOf core) l.pid k (leaf.mt == 2)
    | _ => t) s

/-- The pages that a range of virtual addresses covers. -/
def pagesOf (va n : Nat) : List Nat := (List.range ((va + n - 1) / 65536 + 1 - va / 65536)).map fun j => va / 65536 + j

/-- A launch's code section or its map lies over a sector, by the tables or by what a TLB holds (R57). -/
def State.usesSector (s : State) (l : Launch) (sector : Nat) : Bool :=
  let lead := s.leader l.slice
  (pagesOf l.code (4 * l.words) ++ pagesOf l.map (ceilDiv l.words 8)).any fun page =>
    let held := ((s.tlb ++ s.ctlb).filter fun e => e.slice == lead && e.asid == l.asid
      && decide (e.leaf.page ≤ page) && decide (page < e.leaf.page + e.leaf.pages)).map TlbEntry.leaf
    let leaves := match s.walk l.slice l.asid page with
      | .leaf f => f :: held
      | _ => held
    leaves.any fun f => match s.physOf l.slice (f.spa + (page - f.page) * 65536) with
      | some k => k.isLocal && (List.range 16).any fun p => match s.physOf l.slice (f.spa + (page - f.page) * 65536 + 4096 * p) with
          | some q => q / 4096 == 32 * sector / 4096
          | none => false
      | none => false

/-- A launch that is accepted may fetch the earlier contents of a sector while a launch is resident whose code lies there and that may
fetch them (R57). -/
def State.shareOld (s : State) (n : Nat) : State :=
  { s with oldCode := s.oldCode.map fun e =>
      if e.users.any fun u => match s.launch? u with
        | some l => s.usesSector l e.sector
        | none => false
      then { e with users := insertNat n e.users } else e }

/-- What checking a transfer's target gives (R55). -/
inductive Target where
  | ok
  | wrong
  | wait (f : Fetched)
  deriving DecidableEq, Repr

/-- The word index of an address in the code section; none outside it. -/
def codeIndex (l : Launch) (pc : DWord) : Option Nat :=
  if l.code ≤ pc.toNat ∧ pc.toNat % 4 = l.code % 4 ∧ (pc.toNat - l.code) / 4 < l.words then some ((pc.toNat - l.code) / 4) else none

/-- A word is a clause header (R45). -/
def isHeader (w : Word) : Bool := w.toNat / 2 ^ 24 == 0x3F

/-- R55: the target's map bit is 1 and the word there is a header. `lent` are the results of walks that this access alone may use
(R81). -/
def State.target (s : State) (core : Nat) (l : Launch) (pc : DWord) (lent : List Leaf) : Target :=
  match codeIndex l pc with
  | none => .wrong
  | some n =>
    match s.fetchAt core l (l.map + n / 8) 1 lent with
    | .ok b =>
      if !b.toNat.testBit (n % 8) then .wrong
      else match s.fetchAt core l pc.toNat 4 lent with
        | .ok w => if isHeader w then .ok else .wrong
        | f => .wait f
    | f => .wait f

/-- A fetch that has no word yet: the whole group waits for its walk or its page, or the context faults at the instruction (R27, R77,
R418), what it met being handled (R83). -/
def State.fetchWait (s : State) (i : Issue) (f : Fetched) : State :=
  let grp := i.grp.map Item.c
  match f with
  | .ok _ => s
  | .walk va => s.waitWalk i.ctx grp grp i.launch va .fetch i.pc true
  | .pull p va => s.waitPull i (grp.map fun c => (c, va)) p va .fetch true
  | .held => s
  | .bad c va met =>
    let s := match met with
      | some k => s.checkLine (sliceOf i.ctx.core) (lineOf k)
      | none => s
    s.faultCtx i.ctx.id c i.pc (.ofNat 64 va) false

/-- The target of a transfer that a context's group performs (R55). -/
def State.targetOf (s : State) (i : Issue) (pc : DWord) : Target :=
  s.target i.ctx.core i.launch pc (s.lentTo (some i.ctx.id) none)

/-! ### Moving (R189, R199) -/

/-- An item stands at a PC after an instruction has been performed. -/
def Item.goTo (t : Item) (pc : DWord) (clock : Nat) : Item :=
  { t with pc := pc, place := t.place.after false, since := clock, wait := .none }

/-- The group's items go where `f` says, the others of the group to the next instruction. -/
def State.transfer (s : State) (i : Issue) (m : Meta) (f : Nat → Option DWord) : State :=
  let next := i.pc + .ofNat 64 (4 * m.words)
  let grp := i.grp.map Item.c
  s.modCtx i.ctx.id fun x =>
    let x := { x.kill grp m.marks with yielded := none }
    x.mapItems grp.contains fun t => t.goTo ((f t.c).getD next) s.clock

/-- A transfer of the affected items to one target (R199): checked once. -/
def State.branchTo (s : State) (i : Issue) (m : Meta) (pc : DWord) : Act :=
  match s.targetOf i pc with
  | .ok =>
    let cs := i.aff.map Item.c
    .set (s.transfer i m fun c => if cs.contains c then some pc else none)
  | .wrong => .set (s.faultCtx i.ctx.id 0x02 i.pc 0 false)
  | .wait f => .set (s.fetchWait i f)

/-! ### bra (R186, R187, R198, R199) -/

/-- The dimension of an E predicate, the one in which its A register has a stride (R151): 0 x, 1 y, 2 z. -/
def EPred.dim (p : EPred) : Nat := if p.sx ≠ 0 then 0 else if p.sy ≠ 0 then 1 else 2

/-- One of three coordinates. -/
def pick3 (d : Nat) (p : Nat × Nat × Nat) : Nat :=
  match d with
  | 0 => p.1
  | 1 => p.2.1
  | _ => p.2.2

/-- Split a span at the coordinate where the guard changes (R186, R187). Its staged copies stay with the part that keeps its place
(DESIGN CHOICE, log entry 84). -/
def State.splitSpan (s : State) (i : Issue) (m : Meta) (g : Nat) (neg : Bool) (p : EPred) (pc : DWord) : State :=
  let r := i.launch.rcd
  let x := i.ctx
  let val (c : Nat) : Bool := xor (p.at (coord r x.cohort c)) neg
  let at' (c : Nat) : Nat := pick3 p.dim (coord r x.cohort c)
  let lo := ((argMin at' x.cs).getD 0)
  let first := val lo
  let t := ((argMin at' (x.cs.filter fun c => val c != first)).map at').getD 0
  let next := i.pc + .ofNat 64 (4 * m.words)
  let make (cs : List Nat) (taken : Bool) : Ctx :=
    let y := (x.restrict cs).setP g (.u (xor taken neg))
    let y := y.mapItems (fun _ => true) fun u => u.goTo (if taken then pc else next) s.clock
    { y with split := x.split + 1, yielded := none, rel := none }
  let (id, s) := s.fresh
  let a := make (x.cs.filter fun c => decide (at' c < t)) first
  let b := { make (x.cs.filter fun c => !decide (at' c < t)) (!first) with id := id, place := none, staged := 0, created := s.clock }
  let s := s.setCtx a
  { s with ctxs := s.ctxs ++ [b] }

/-- A branch whose guard is an E predicate of a span (R186): every item or none may take it; else the span splits, or
materialises when it has split four times, no span place is free, or its queue holds more than SPANQ (R187, R395). -/
def State.branchE (s : State) (i : Issue) (m : Meta) (g : Nat) (neg : Bool) (p : EPred) (pc : DWord) : State :=
  let r := i.launch.rcd
  let s := if i.atEntry then s.commitStaged i.ctx.id else s
  let taken := i.grp.filter fun t => xor (p.at (coord r i.ctx.cohort t.c)) neg
  if taken.isEmpty then s.transfer i m fun _ => none
  else if taken.length == i.grp.length then ((s.branchTo { i with aff := taken } m pc).run s i m)
  else if 4 ≤ i.ctx.split || s.freeSpans i.ctx.core = 0
      || s.spanLimit i.launch.slice i.launch.rcd.queue < s.queueSpans i.ctx.core i.launch.slice i.launch.rcd.queue
      || i.grp.length != i.ctx.items.length then s.materialise i.ctx r
  else match s.targetOf i pc with
    | .ok => s.splitSpan { i with ctx := (s.ctx? i.ctx.id).getD i.ctx } m g neg p pc
    | .wrong => s.faultCtx i.ctx.id 0x02 i.pc 0 false
    | .wait f => s.fetchWait i f

/-- R199. -/
def execBra (e : Ext) (s : State) : Host.Outcome State Fault Refusal :=
  let m := e.info 0 0 0 0
  let disp : DWord := e.imm.signExtend 64
  match s.gate m with
  | .cut i =>
    match i.ctx.pForm e.guard.toNat with
    | .e p => .next (s.branchE i m e.guard.toNat e.neg p (i.pc + disp))
    | _ => .next (s.materialise i.ctx i.launch.rcd)
  | _ => s.issueInstr m fun s i => s.branchTo i m (i.pc + disp)

/-- R199, the base form. -/
def execBraBase (disp : Word) (s : State) : Host.Outcome State Fault Refusal :=
  let m : Meta := { words := 2 }
  s.issueInstr m fun s i => s.branchTo i m (i.pc + disp.signExtend 64)

/-! ### brx, call, ret (R200 to R203) -/

/-- Where an item of an indexed transfer goes: a target, the next instruction, nowhere (BranchTarget), or a fetch to wait
for. -/
inductive Goes where
  | to (pc : DWord)
  | next
  | wrong
  | wait (f : Fetched)
  deriving DecidableEq, Repr

/-- A target, checked. -/
def State.goesTo (s : State) (i : Issue) (pc : DWord) : Goes :=
  match s.targetOf i pc with
  | .ok => .to pc
  | .wrong => .wrong
  | .wait f => .wait f

/-- Move the items of an indexed transfer (R201, R203): those whose target fails fault in one record and keep their PC;
the others issue again. -/
def State.moveEach (s : State) (i : Issue) (m : Meta) (f : Item → Goes) : Act :=
  let gs := i.aff.map fun t => (t.c, f t)
  let waits := gs.filterMap fun g => match g.2 with
    | .wait w => some w
    | _ => none
  let wrong := (gs.filter fun g => g.2 == .wrong).map Prod.fst
  match waits with
  | w :: _ => .set (s.fetchWait i w)
  | [] =>
    if wrong.isEmpty then
      .set (s.transfer i m fun c => match gs.find? fun g => g.1 == c with
        | some (_, .to pc) => some pc
        | _ => none)
    else if i.ctx.kind == CtxKind.span then .cut
    else .set (s.faultItems i.ctx.id 0x02 wrong i.pc 0 false)

/-- A span moves as a whole only where its operand is U (R200, R202). -/
def Issue.spanWhole (i : Issue) (f : XForm) : Bool :=
  i.ctx.kind != CtxKind.span || match f with
    | .u _ => true
    | _ => false

/-- R201. -/
def execBrx (e : Ext) (s : State) : Host.Outcome State Fault Refusal :=
  let m := e.info 0 1 0 0
  s.issueInstr m fun s i =>
    let fa := s.src32 i.ctx i.launch.rcd (e.src e.a)
    if !i.spanWhole fa then .cut
    else s.moveEach i m fun t =>
      let j := (fa.at i.launch.rcd i.ctx.cohort t.c).toNat
      if e.mod.toNat + 1 ≤ j then .next
      else
        let at' : DWord := i.pc + e.imm.signExtend 64 + .ofNat 64 (4 * j)
        match codeIndex i.launch at' with
        | none => .wrong
        | some _ => match s.fetchAt i.ctx.core i.launch at'.toNat 4 (s.lentTo (some i.ctx.id) none) with
          | .ok w => s.goesTo i (i.pc + w.signExtend 64)
          | f => .wait f

/-- R203: the target is checked first; d is written only when it passes. -/
def execCall (e : Ext) (s : State) : Host.Outcome State Fault Refusal :=
  let m := e.info 1 0 0 0
  s.issueInstr m fun s i =>
    let pc : DWord := i.pc + e.imm.signExtend 64
    let link : Word := .ofNat 32 (wordIndex i.launch (i.pc + 12))
    match s.targetOf i pc with
    | .wrong => .set (s.faultCtx i.ctx.id 0x02 i.pc 0 false)
    | .wait f => .set (s.fetchWait i f)
    | .ok =>
      match s.writeOuts i m [{ dst := dstOf e.d, form := some (.u link), val := fun _ => link }] with
      | .advance t =>
        let cs := i.aff.map Item.c
        .set (t.transfer i { m with marks := [] } fun c => if cs.contains c then some pc else none)
      | a => a

/-- R203. -/
def execRet (e : Ext) (s : State) : Host.Outcome State Fault Refusal :=
  let m := e.info 0 1 0 0
  s.issueInstr m fun s i =>
    let fa := s.src32 i.ctx i.launch.rcd (e.src e.a)
    if !i.spanWhole fa then .cut
    else s.moveEach i m fun t =>
      let n := (fa.at i.launch.rcd i.ctx.cohort t.c).toNat
      if i.launch.words ≤ n then .wrong else s.goesTo i (.ofNat 64 (i.launch.code + 4 * n))

/-! ### Failures delivered through flags (R304, R403, R417) -/

/-- A failed task or child that a header or a `wait` naming these flags delivers to the group (R304, R403): at most one
at a time. -/
def State.deliver (s : State) (i : Issue) (mask : BitVec 12) : Option State :=
  let x := i.ctx
  let named (f : Nat) : Bool := mask.toNat.testBit f
  match s.taskFails.find? fun t => t.core == x.core && t.launch == x.launch && t.cohort == x.cohort && x.cs.contains t.item
      && (match t.flag with
        | some f => named f
        | none => false) with
  | some t =>
    let s : State := { s with taskFails := s.taskFails.filter fun u => u != t }
    some (s.faultCtx x.id t.cause i.pc 0 false)
  | none =>
    match s.childFails.find? fun f => f.launch == x.launch && f.cohort == x.cohort && f.items.any x.cs.contains && named f.flag with
    | some f =>
      let s : State := { s with childFails := s.childFails.filter fun g => g != f }
      some (s.faultSome x.id 0x12 (i.grp.map Item.c) i.pc (.ofNat 64 f.child) false)
    | none => none

/-! ### Clause headers (R45 to R47, R51, R322, R411, R415) -/

/-- R47, R51, R322: the header waits for its flags and, with RGN, for the values of the region it leaves; then it sets up
its clause and, with RGN, opens a region. It is not counted in a clause (R46). -/
def State.header (s : State) (i : Issue) (h : ClauseWord) : State :=
  let grp := i.grp.map Item.c
  let wait (w : Wait) : State := s.modCtx i.ctx.id fun x => x.mapItems grp.contains fun t => { t with wait := w, since := s.clock }
  if s.maskBusy i.ctx h.wait then wait (.flags h.wait)
  else if h.rgn && s.reading i.ctx grp then wait .region
  else
    match s.deliver i h.wait with
    | some t => t
    | none =>
      let s := if h.rgn || i.atEntry then s.commitStaged i.ctx.id else s
      let place : Place := { count := 0, long := 0, setA := h.setA, setB := h.setB }
      s.modCtx i.ctx.id fun x =>
        let before := x.region
        let after := if h.rgn then before + 1 else before
        let x := { x with region := after, yielded := none, gives := h.yld }
        x.mapItems grp.contains fun t =>
          let t := { t with pc := i.pc + 4, place := place, since := s.clock, wait := .none }
          if h.rgn then { t with region := after, entry := { pc := i.pc, region := before, fflags := x.fflags, place := place } } else t

/-- R47. -/
def execClause (h : ClauseWord) (s : State) : Host.Outcome State Fault Refusal :=
  match s.issue? with
  | none => .fault .noContext
  | some i => .next (s.header i h)

/-! ### exit (R204, R205) -/

/-- Items leave a context: their registers are killed and their slots freed (R157, R205); an empty context ends, its
staged copies committed (R415). The last context of a launch to end, of whatever cohort, gives its token's CYCLE (DESIGN CHOICE, log
entry 85). -/
def State.dropItems (s : State) (ctx : Nat) (cs : List Nat) : State :=
  match s.ctx? ctx with
  | none => s
  | some x =>
    let left := x.cs.filter fun c => !cs.contains c
    if left.isEmpty then
      let s := s.commitStaged ctx
      let s := s.setLaunch x.launch fun l => { l with lastCycle := s.cycles x.core }
      { s with ctxs := s.ctxs.filter fun y => y.id != ctx }
    else s.setCtx (x.restrict left)

/-- Items of a context exit: they leave their groups, each record in its order (R368), and their registers are killed (R205). -/
def State.exitItems (s : State) (x : Ctx) (cs : List Nat) : State :=
  let s := s.reachGroups x.core (cs.flatMap fun c => (s.recordsOf (x.key c)).map fun r => (r.ref, c))
  let s := cs.foldl (fun t c => t.leaveAll (x.key c)) s
  let s := s.dropItems x.id cs
  s.checkPhase (.cohort x.launch x.cohort)

/-! ### join (R192 to R194, R206) -/

/-- The lowest and highest coordinate of some items in a dimension. -/
def extent (r : LaunchRec) (cohort : Nat) (cs : List Nat) (d : Nat) : Nat × Nat :=
  let vs := cs.map fun c => pick3 d (coord r cohort c)
  (vs.foldl min (vs.headD 0), vs.foldl max 0)

/-- Some items form a box. -/
def isBox (r : LaunchRec) (cohort : Nat) (cs : List Nat) : Bool :=
  let len (d : Nat) : Nat := let e := extent r cohort cs d
    e.2 + 1 - e.1
  len 0 * len 1 * len 2 == cs.length

/-- Two boxes have the same extent in two dimensions and touch without overlap in the third (R192). -/
def boxesTouch (r : LaunchRec) (cohort : Nat) (a b : List Nat) : Bool :=
  (List.range 3).any fun d =>
    let p := extent r cohort a d
    let q := extent r cohort b d
    (p.2 + 1 == q.1 || q.2 + 1 == p.1)
      && (List.range 3).all fun k => k == d || extent r cohort a k == extent r cohort b k

/-- The forms of one item register in two contexts allow a merge (R192). -/
def XForm.agrees : XForm → XForm → Bool
  | .u v, .u w => v == w
  | .a b x y z, .a b' x' y' z' => b == b' && x == x' && y == y' && z == z'
  | .m _, .m _ => true
  | _, _ => false

/-- The forms of one predicate in two contexts allow a merge (R192). -/
def PForm.agrees : PForm → PForm → Bool
  | .u v, .u w => v == w
  | .e p, .e q => p == q
  | .m _, .m _ => true
  | _, _ => false

/-- The q values that the items of two contexts read are equal (R192). -/
def sameQ (p q : Ctx) : Bool :=
  let val (x : Ctx) (n c : Nat) : Word := match x.qReg? n with
    | some g => if g.live.contains c then g.val else 0
    | none => 0
  ((p.q ++ q.q).map QReg.num).all fun n =>
    let vs := p.cs.map (val p n) ++ q.cs.map (val q n)
    vs.all fun v => v == vs.headD 0

/-- Every item of two contexts belongs to the same set of groups (R192). -/
def sameGroups (p q : Ctx) : Bool :=
  let items := p.items ++ q.items
  items.all fun i => items.all fun j => i.groups.all j.groups.contains

/-- Every completion flag of a context is clear. -/
def State.flagsClear (s : State) (x : Ctx) : Bool := (List.range 12).all fun f => !s.flagBusy x f

/-- Two contexts are adjacent (R192). -/
def State.adjacent (s : State) (r : LaunchRec) (p q : Ctx) : Bool :=
  if p.kind == CtxKind.span && q.kind == CtxKind.span then boxesTouch r p.cohort p.cs q.cs
  else
    let both := p.cs ++ q.cs
    let lo := both.foldl min (both.headD 0)
    let hi := both.foldl max 0
    let others := (s.membersOf (.cohort p.launch p.cohort)).map ItemKey.c
    others.all fun c => both.contains c || decide (c < lo) || decide (hi < c)

/-- R192. -/
def State.joinable (s : State) (r : LaunchRec) (p q : Ctx) : Bool :=
  p.launch == q.launch && p.cohort == q.cohort && p.core == q.core
    && s.flagsClear p && s.flagsClear q
    && p.region == q.region && p.fctl == q.fctl && sameQ p q && sameGroups p q
    && (p.x.all fun a => q.x.all fun b => a.num != b.num || a.live.isEmpty || b.live.isEmpty || a.form.agrees b.form)
    && (((p.p ++ q.p).map PReg.num).all fun n => (p.pForm n).agrees (q.pForm n))
    && s.adjacent r p q

/-- A context of U, A and E forms alone, as a span is (R193). -/
def Ctx.plain (x : Ctx) : Bool :=
  (x.x.all fun g => g.live.isEmpty || match g.form with
    | .m _ => false
    | _ => true)
  && x.p.all fun g => match g.form with
    | .m _ => false
    | _ => true

/-- The place a merged context of a kind takes (R193): some place, or none when it finds none. -/
def State.mergedPlace (s : State) (kind : CtxKind) (low other : Ctx) : Option (Option Nat) :=
  let isSpan (x : Ctx) : Bool := x.kind == CtxKind.span
  if (kind == CtxKind.span) == isSpan low then some low.place
  else if (kind == CtxKind.span) == isSpan other then some other.place
  else if kind == CtxKind.span then (if 0 < s.freeSpans low.core then some none else none)
  else if s.openStrand low then some none
  else none

/-- The kind and place of a merge (R193); none when the two are not merged. -/
def State.mergeKind (s : State) (r : LaunchRec) (low other : Ctx) : Option (CtxKind × Option Nat) :=
  let cs := low.cs ++ other.cs
  let strand : Option (CtxKind × Option Nat) :=
    if cs.length ≤ 64 then (s.mergedPlace .strand low other).map fun p => (CtxKind.strand, p) else none
  if low.plain && other.plain && isBox r low.cohort cs then
    match s.mergedPlace .span low other with
    | some p => some (.span, p)
    | none => strand
  else strand

/-- One item register of a merged context. -/
def mergeX (a b : List XReg) (n : Nat) : List XReg :=
  match a.find? (fun g => g.num == n && !g.live.isEmpty), b.find? (fun g => g.num == n && !g.live.isEmpty) with
  | some g, some h =>
    let form := match g.form, h.form with
      | .m u, .m v => XForm.m (u ++ v)
      | f, _ => f
    [{ num := n, form := form, live := unionNat g.live h.live, ent := g.ent }]
  | some g, none => [g]
  | none, some h => [h]
  | none, none => []

/-- One predicate of a merged context. -/
def mergeP (p q : Ctx) (n : Nat) : PReg :=
  { num := n, form := match p.pForm n, q.pForm n with
      | .m u, .m v => .m (u ++ v)
      | f, _ => f }

/-- Items in rising order. -/
def insertItem (i : Item) : List Item → List Item
  | [] => [i]
  | j :: js => if i.c < j.c then i :: j :: js else j :: insertItem i js

/-- The merge of two contexts, the first having the lower origin (R193). -/
def mergeCtx (low other : Ctx) (kind : CtxKind) (place : Option Nat) (lane : Nat) : Ctx :=
  let nums := ((low.x ++ other.x).map XReg.num).foldl (fun acc n => insertNat n acc) []
  let preds := ((low.p ++ other.p).map PReg.num).foldl (fun acc n => insertNat n acc) []
  let count (x : Ctx) : Nat := if x.kind == CtxKind.span then x.split else 0
  { low with
    kind := kind, place := place, lane := lane, split := if kind == CtxKind.span then min (count low) (count other) else 0
    items := (low.items ++ other.items).foldl (fun acc i => insertItem i acc) []
    x := nums.flatMap (mergeX low.x other.x), p := preds.map (mergeP low other)
    q := low.qRegs.map (fun g => { g with live := unionNat g.live other.cs })
    fflags := low.fflags ||| other.fflags, staged := low.staged + other.staged
    yielded := none, rel := none, acq := max low.acq other.acq, created := min low.created other.created, spill := .home,
    issued := max low.issued other.issued }

/-- A context waits at a join address, all its items with it, and its deadline. -/
def Ctx.joinTill (x : Ctx) : Option Nat :=
  match x.items with
  | i :: _ => match i.wait with
    | .join till _ _ => if x.items.all fun j => match j.wait with
        | .join _ _ _ => j.pc == i.pc
        | _ => false
      then some till else none
    | _ => none
  | [] => none

/-- The origin of a context. -/
def Ctx.origin (x : Ctx) : Nat := x.cs.foldl min (x.cs.headD 0)

/-- The waiting context to merge with, the one with the lowest origin (R194). -/
def State.mate (s : State) (r : LaunchRec) (p : Ctx) (pc : DWord) : Option Ctx :=
  argMin Ctx.origin (s.ctxs.filter fun q => q.id != p.id && q.joinTill.isSome && (q.items.all fun i => i.pc == pc)
    && s.joinable r p q
    && (if p.origin < q.origin then s.mergeKind r p q else s.mergeKind r q p).isSome)

/-- The lane of a merged context (R148): that of the part with the lower origin where it has one, else of the other, else a new one
(DESIGN CHOICE, log entry 86). -/
def State.mergedLane (s : State) (kind : CtxKind) (low other : Ctx) : Nat :=
  if kind == CtxKind.span || low.kind != CtxKind.span then low.lane
  else if other.kind != CtxKind.span then other.lane else s.newLane low.core

/-- Merge with waiting contexts while one will (R194): the context's number and its deadline. -/
def State.mergeAll (s : State) (r : LaunchRec) (id : Nat) (pc : DWord) (till : Option Nat) : Nat → Nat × Option Nat × State
  | 0 => (id, till, s)
  | fuel + 1 =>
    match s.ctx? id with
    | none => (id, till, s)
    | some p =>
      match s.mate r p pc with
      | none => (id, till, s)
      | some q =>
        let low := if p.origin < q.origin then p else q
        let other := if p.origin < q.origin then q else p
        match s.mergeKind r low other with
        | none => (id, till, s)
        | some (kind, place) =>
          let new := mergeCtx low other kind place (s.mergedLane kind low other)
          let s : State := { s with ctxs := (s.ctxs.filter fun y => y.id != other.id).map fun y => if y.id == low.id then new else y }
          let qt := q.joinTill
          let till := match till, qt with
            | some a, some b => some (min a b)
            | none, t => t
            | t, none => t
          s.mergeAll r low.id pc till fuel

/-- A context holds every item of its cohort on its core (R194). -/
def State.holdsAll (s : State) (x : Ctx) : Bool :=
  !(s.ctxs.any fun y => y.id != x.id && y.launch == x.launch && y.cohort == x.cohort && y.core == x.core)

/-- The items of a context's cohort on its core that have not exited. -/
def State.remaining (s : State) (x : Ctx) : Nat :=
  ((s.ctxs.filter fun y => y.launch == x.launch && y.cohort == x.cohort && y.core == x.core).map fun y => y.items.length).sum

/-- The contexts that wait at a context's join address hold every item of its cohort on its core (R205). -/
def State.allWait (s : State) (x : Ctx) (pc : DWord) : Bool :=
  s.ctxs.all fun y => !(y.launch == x.launch && y.cohort == x.cohort && y.core == x.core)
    || (y.joinTill.isSome && y.items.all fun i => i.pc == pc)

/-- Every item of a context that stands at the join goes on. -/
def State.passJoin (s : State) (id : Nat) : State :=
  s.modCtx id fun x => x.mapItems (fun _ => true) fun t => t.goTo (t.pc + 12) s.clock

/-- R194, from the step that forms W: `till` is the deadline the context brings. -/
def State.arriveJoin (s : State) (l : Launch) (id : Nat) (pc : DWord) (till : Option Nat) : State :=
  let (id, till, s) := s.mergeAll l.rcd id pc till s.ctxs.length
  match s.ctx? id with
  | none => s
  | some x =>
    if s.holdsAll x || l.rcd.joinWait = 0 then s.passJoin id
    else
      let fresh := s.clock + s.coreClocks x.core l.rcd.joinWait
      let t := match till with
        | none => fresh
        | some d => min d fresh
      s.modCtx id fun y => y.mapItems (fun _ => true) fun i => { i with wait := .join t y.items.length (s.remaining x), since := s.clock }

/-- R194. -/
def execJoin (e : Ext) (s : State) : Host.Outcome State Fault Refusal :=
  let m := e.info 0 0 0 0
  s.issueInstr m fun s i =>
    if i.grp.length != i.ctx.items.length then s.writeNothing i m
    else .set (s.arriveJoin i.launch i.ctx.id i.pc none)

/-- Test the joins again (R194, R205): a waiting context that has lost items arrives again with its deadline; one that now holds every
item of its cohort on its core goes on; and where items of other contexts have exited, and those that wait at the address now hold
every item together, they are tested against one another. -/
def State.settleJoins (s : State) : State :=
  s.ctxs.foldl (fun t x0 =>
    match t.ctx? x0.id with
    | none => t
    | some x =>
      match x.joinTill, x.items, t.launch? x.launch with
      | some till, i :: _, some l =>
        let (n, left) := match i.wait with
          | .join _ n left => (n, left)
          | _ => (0, 0)
        if n != x.items.length then t.arriveJoin l x.id i.pc (some till)
        else if t.holdsAll x then t.passJoin x.id
        else if left == t.remaining x then t
        else if t.allWait x i.pc then t.arriveJoin l x.id i.pc (some till)
        else t.modCtx x.id fun y => y.mapItems (fun _ => true) fun j => { j with wait := .join till n (t.remaining x) }
      | _, _, _ => t) s

/-- R194: a join's deadline passes. -/
def execJoinDeadline (ctx : Nat) (s : State) : Host.Outcome State Fault Refusal :=
  match s.ctx? ctx with
  | none => .next s
  | some x =>
    match x.joinTill with
    | none => .next s
    | some till => .next (({ s with clock := max s.clock till } : State).passJoin ctx)

/-- A failed task that a context's `exit` delivers (R304). -/
def State.exitFail (s : State) (x : Ctx) : Option TaskFail :=
  s.taskFails.find? fun t => t.core == x.core && t.launch == x.launch && t.cohort == x.cohort && x.cs.contains t.item

/-- R205. -/
def execExit (e : Ext) (s : State) : Host.Outcome State Fault Refusal :=
  let m := e.info 0 0 0 0
  s.issueInstr m fun s i =>
    match s.exitFail i.ctx with
    | some t =>
      let s : State := { s with taskFails := s.taskFails.filter fun u => u != t }
      .set (s.faultCtx i.ctx.id t.cause i.pc 0 false)
    | none =>
      let s := s.transfer i m fun _ => none
      .set (s.exitItems i.ctx (i.aff.map Item.c)).settleJoins

/-! ### yield, wait, nop, mat, formq (R207 to R213) -/

/-- R190, R408. -/
def execYield (e : Ext) (s : State) : Host.Outcome State Fault Refusal :=
  let m := e.info 0 0 0 0
  s.issueInstr m fun s i =>
    let many := i.ctx.kind != CtxKind.span && i.ctx.items.any fun t => t.pc != i.pc
    let next := i.pc + 12
    .set ((s.advance i m).modCtx i.ctx.id fun x => { x with yielded := if many then some next else none, gives := true })

/-- R209: a flag wait stays at the instruction until the flags are clear; a clock wait follows it. -/
def execWait (e : Ext) (s : State) : Host.Outcome State Fault Refusal :=
  let m := e.info 0 0 0 0
  s.issueInstr m fun s i =>
    let grp := i.grp.map Item.c
    if e.modBit 0 then
      let till := s.clock + s.coreClocks i.ctx.core e.imm.toNat
      .set ((s.advance i m).modCtx i.ctx.id fun x => x.mapItems grp.contains fun t => { t with wait := .clock till })
    else
      let mask : BitVec 12 := e.imm.truncate 12
      if s.maskBusy i.ctx mask then
        .set (s.modCtx i.ctx.id fun x => x.mapItems grp.contains fun t => { t with wait := .flags mask, since := s.clock })
      else match s.deliver i mask with
        | some t => .set t
        | none => .advance s

/-- R209: a count of `wait.clk` ends. -/
def execWaitClkExpiry (ctx : Nat) (s : State) : Host.Outcome State Fault Refusal :=
  match s.ctx? ctx with
  | none => .next s
  | some x =>
    let tills := x.items.filterMap fun i => match i.wait with
      | .clock t => some t
      | _ => none
    match argMin id tills with
    | none => .next s
    | some t =>
      let s : State := { s with clock := max s.clock t }
      .next (s.modCtx ctx fun y => y.mapItems (fun _ => true) fun i => match i.wait with
        | .clock u => if u ≤ s.clock then { i with wait := .none, since := s.clock } else i
        | _ => i)

/-- R210. -/
def execNop (e : Ext) (s : State) : Host.Outcome State Fault Refusal :=
  s.issueInstr (e.info 0 0 0 0) fun s _ => .advance s

/-- R211: a span is cut, and its strands, for which `mat` has no effect, go on. -/
def execMat (e : Ext) (s : State) : Host.Outcome State Fault Refusal :=
  s.issueInstr (e.info 0 0 0 0) fun s i => if i.ctx.kind == CtxKind.span then .cut else .advance s

/-- The code of an item register's form (R213). -/
def Ctx.formCode (x : Ctx) (r : LaunchRec) (n : Nat) : Word :=
  match x.xReg? n with
  | none => 0
  | some g =>
    match g.form with
    | .u _ => 0
    | .m _ => 2
    | .a _ sx sy sz =>
      let bit (k : Nat) (st : Word) : Nat := if st ≠ 0 ∧ (extent r x.cohort x.cs k).1 ≠ (extent r x.cohort x.cs k).2 then 4 * 2 ^ k else 0
      .ofNat 32 (1 + bit 0 sx + bit 1 sy + bit 2 sz)

/-- R213. -/
def execFormq (e : Ext) (s : State) : Host.Outcome State Fault Refusal :=
  let m := { e.info 1 (if e.modBit 0 then 0 else 1) 0 0 with whole := true }
  s.issueInstr m fun s i =>
    let n := e.a.toNat
    let v : Word := if e.modBit 0 then (match i.ctx.pForm n with
        | .u _ => 0
        | .m _ => 2
        | .e _ => 3)
      else if n < 128 then i.ctx.formCode i.launch.rcd n else 0
    s.writeOuts i m [{ dst := dstOf e.d, form := some (.u v), val := fun _ => v }]

/-! ### Events of contexts (R185, R188, R191) -/

/-- A place is free for the next block of a pending remainder (R185). -/
def State.placeFor (s : State) (x : Ctx) : Bool :=
  match blocksOf x.cs with
  | [] => false
  | j :: _ => (s.blockPlace x j).isSome

/-- R185: a pending remainder cuts the blocks that find a place. -/
def execPendingRemainderCut (ctx : Nat) (s : State) : Host.Outcome State Fault Refusal :=
  match s.ctx? ctx with
  | none => .next s
  | some x =>
    match x.pending, s.launch? x.launch with
    | some _, some l => .next (if s.placeFor x then s.materialise x l.rcd else s)
    | _, _ => .next s

/-- Items of a context that do not wait for a fault's action. -/
def Ctx.unfaulted (x : Ctx) : List Item := x.items.filter fun i => match i.wait with
  | .fault _ => false
  | _ => true

/-- R185: a remainder pending longer than 2^BARLOG2 cluster clocks faults Watchdog for its items. -/
def execPendingRemainderWatchdog (ctx : Nat) (s : State) : Host.Outcome State Fault Refusal :=
  match s.ctx? ctx with
  | none => .next s
  | some x =>
    match x.pending, s.launch? x.launch, x.unfaulted with
    | some since, some l, i :: rest =>
      let s : State := { s with clock := max s.clock (since + s.fieldClocks (fieldOf x.core) (2 ^ l.rcd.barLog)) }
      .next (s.faultItems ctx 0x09 ((i :: rest).map Item.c) i.pc 0 false)
    | _, _, _ => .next s

/-- R188: a parked item is cut out when an unreserved strand place is free; a pending remainder of the core goes
first (R185). -/
def execSoloCut (ctx item : Nat) (s : State) : Host.Outcome State Fault Refusal :=
  match s.ctx? ctx with
  | none => .next s
  | some x => .next (if (x.items.any fun i => i.c == item && i.parked) && s.openStrand x then (s.cutSolo ctx item).settleJoins else s)

/-- When an item's group last issued, or all of it last waited (R191). -/
def Item.count (i : Item) : Nat := max i.since i.starts

/-- The count of a group restarts while every one of its items waits, as all of a held context's do (R191). -/
def State.settleStarts (s : State) : State :=
  { s with ctxs := s.ctxs.map fun x =>
      if x.kind == CtxKind.span || !(x.held.isSome || x.items.any fun i => i.wait != Wait.none || i.parked) then x
      else
        let idle (i : Item) : Bool := x.held.isSome || (x.items.filter fun j => j.pc == i.pc).all fun j => s.waits x j
        { x with items := x.items.map fun i => if idle i then { i with starts := s.clock } else i } }

/-- The items of a strand that starve: they do not wait, and another group issues (R191). -/
def State.starved (s : State) (x : Ctx) : List Item :=
  if x.kind == CtxKind.span then []
  else match s.groupPc x with
    | none => []
    | some pc => x.items.filter fun i => i.pc != pc && !s.waits x i

/-- R191: a group starved for 2^BARLOG2 cluster clocks makes the lowest group's items fault Watchdog: the lowest of those that do not wait,
as R189 has the executing group (DESIGN CHOICE, log entry 101). -/
def execStarvationWatchdog (ctx : Nat) (s : State) : Host.Outcome State Fault Refusal :=
  match s.ctx? ctx with
  | none => .next s
  | some x =>
    match argMin Item.count (s.starved x), s.launch? x.launch with
    | some i, some l =>
      let s : State := { s with clock := max s.clock (i.count + s.fieldClocks (fieldOf x.core) (2 ^ l.rcd.barLog)) }
      let ready := x.items.filter fun j => !s.waits x j
      match argMin (fun (j : Item) => j.pc.toNat) ready with
      | none => .next s
      | some low => .next (s.faultItems ctx 0x09 ((ready.filter fun j => j.pc == low.pc).map Item.c) low.pc 0 false)
    | _, _ => .next s

end Sys2Proof.Machine
end

