-- ==== Sys2Proof/Machine/Device.lean ====
section
/-! DEFINITION. What the device itself reads and writes through a launch's address space: tokens, reports, kernel
headers and constant images (R126, R306, R386, R387, R391, R502); and the ending of items (R205, R370, R375, R419). -/

namespace Sys2Proof.Machine

/-! ### Reaching memory for the device itself -/

/-- What an access of the device itself finds: a physical byte, a page that is missing or does not permit it, a page to
pull, a fault, or a path that cannot carry it now, because it is parked, or, without a bound of time, because a crossing is gated (R14),
an allowance full (R466), or a write of a line still waits for its holders (R102), or at all. -/
inductive Reach where
  | ok (k : Phys)
  | absent (kind : Nat)
  | pull (page : Nat)
  | bad (cause : Nat)
  | parked (k : Phys)
  | full
  | down
  deriving DecidableEq, Repr

/-- Reach `n` bytes of one page through the page tables (R68 to R71, R130, R462 to R464). -/
def State.reach (s : State) (slice asid va n : Nat) (a : Access) : Reach :=
  if 2 ^ 48 ≤ va then .bad 0x05
  else match s.walk slice asid (va / 65536) with
    | .malformed => .bad 0x05
    | .poisoned => .bad 0x0A
    | .pull p => .pull p
    | .absent => .absent 0
    | .leaf l =>
      if !l.permits a then .absent (l.faultKind a)
      else match s.spaOf slice asid l va false with
        | none => .bad 0x05
        | some spa =>
          match s.physOf slice spa with
          | none => .bad 0x05
          | some k =>
            if k.isLocal then
              match s.pullPage slice spa n with
              | some p => .pull p
              | none => if s.gatedTo slice k || s.homeWrites.any (fun w => w.sent && decide (lineOf k ≤ w.line) && decide (w.line ≤ lineOf (k + n - 1))) then .full else .ok k
            else match s.path slice k n with
              | .up => .ok k
              | .parked => .parked k
              | .full => .full
              | .down => .down
              | .refused => .bad 0x05
              | .poisoned => .bad 0x0A
              | .pull p => .pull p

/-- The device reaches a byte through a page of device type, of which nothing is cached (R72). -/
def State.reachDevice (s : State) (slice asid va : Nat) : Bool :=
  match s.walk slice asid (va / 65536) with
  | .leaf l => l.mt == 2
  | _ => false

/-- The lines some bytes lie in. -/
def linesAt (k n : Nat) : List Nat := (List.range n).foldl (fun acc j => insertNat (lineOf (k + j)) acc) []

/-- What a read finds wrong with the lines it touches is handled, whatever it makes of them (R83, R105). -/
def State.metBy (s : State) (slice : Nat) (k : Phys) (n : Nat) : State := (linesAt k n).foldl (fun t line => t.checkLine slice line) s

/-- A line of a peer's memory as a slice reads it: what its bank holds (R100), or what the peer sends, which is not known and fills the
bank (R94) but for a device page (R72). The route is read on the way (R465). -/
def State.peerLine (s : State) (slice pid line : Nat) (device : Bool) : List Byte × State :=
  let s := s.readRoute slice (line * 128)
  match s.l2Line? slice line with
  | some l => if device then (l.bytes, s.uncache slice line) else (l.bytes, s.touchL2 slice pid line false l.bytes false)
  | none =>
    let bs := (List.range 128).map fun j => Config.peerByte s.free (line * 128 + j)
    (bs, if device then s.draw else s.draw.touchL2 slice pid line false bs false)

/-- Bytes the device itself reads at their home, through the banks of a slice under a partition (R96). -/
def State.deviceRead (s : State) (slice pid : Nat) (k : Phys) (n : Nat) (device : Bool := false) : List Byte × State :=
  if k.isPeer then
    let (ls, s) := (linesAt k n).foldl (fun acc line =>
      let (bs, t) := acc.2.peerLine slice pid line device
      (acc.1 ++ [(line, bs)], t)) (([] : List (Nat × List Byte)), s)
    ((List.range n).map fun j => (lookupD ls (lineOf (k + j)) []).getD ((k + j) % 128) 0, s)
  else
    let s := (linesAt k n).foldl (fun t line => t.readL2 slice pid (line * 128) device) s
    ((List.range n).map fun j => s.homeByte slice (k + j), s)

/-- Bytes from a key up. -/
def cellsFrom (k : Phys) (bs : List Byte) : List (Nat × Byte) := (List.range bs.length).map fun j => (k + j, bs.getD j 0)

/-- The device performs a write at its homes; of a peer's line its slice gives up its copy first (R100). `src` is the field whose later
reads must see it (R124), `device` that it goes to a device page (R72), `marks` the sectors that are written with a mark (R84). -/
def State.deviceWrite (s : State) (slice pid : Nat) (cells : List (Nat × Byte)) (src : Option Nat := none) (device : Bool := false)
    (marks : List Nat := []) : State :=
  let s := s.sampleCross src (linesOf cells)
  (linesOf cells).foldl (fun t n =>
    if linePeer n then t.giveUpPeer slice n
    else t.performWrite (cacheSlice slice n) pid (cells.filter fun c => lineOf c.1 == n) device false (marks.filter fun m => m / 4 == n)) s

/-- A write of a field to homes in other fields, stamped and applied at once where R351 lets the homes apply it now, the crossings are
open (R14) and the window has room (R352); its acknowledgement brings their clocks back. -/
def State.crossNow (s : State) (f : Nat) (keys : List Phys) : Option State :=
  let gs := (keys.filter fun k => decide (k < 2 ^ 40) && homeField k != f).foldl (fun acc k => insertNat (homeField k) acc) []
  gs.foldl (fun acc g => acc.bind fun t =>
    let (seq, stamp, u) := t.stampTo f g
    if !t.mayCross f g || !(t.crossing f g).isEmpty || !u.mayApply f g seq stamp then none
    else
      let v := u.takeStamp f g seq stamp
      some (v.mergeClock f (v.fields.getD g FieldSt.reset).vc)) (some s)

/-- A waiter of a page fault for the device itself. -/
def deviceWaiter (core launch va : Nat) (a : Access) (tag : List Nat) : Waiter :=
  { ctx := none, copy := none, items := tag, whole := false, core := core, launch := launch, cohort := 0, access := a,
    va := .ofNat 64 va, pc := 0 }

/-- The device waits on a pending page fault for this purpose. -/
def State.deviceWaits (s : State) (core launch : Nat) (tag : List Nat) : Bool :=
  s.pfaults.any fun p => p.waiters.any fun w => w.ctx.isNone && w.copy.isNone && w.core == core && w.launch == launch && w.items == tag

/-- The device waits, for this purpose, for a page that must be pulled (R453). -/
def State.devicePull (s : State) (slice asid page core launch va : Nat) (a : Access) (tag : List Nat) : State :=
  (s.joinFault slice asid page 4 a launch (deviceWaiter core launch va a tag)).2.askPull slice page

/-- How the write of a token or report ends (R502): it is done or dropped, or it must wait. -/
inductive TokenEnd where
  | done (s : State)
  | wait (s : State)

/-- Write a token or report of 16 B (R126, R306, R391, R502). `tag` names it for a page fault; `failed` says that its page
fault was failed; `since` is when its path was found parked, and `park` notes that. A token that cannot be written is a
dropped store. -/
def State.writeToken (s : State) (slice asid pid core launch va : Nat) (a : Access) (tag : List Nat) (failed : Bool)
    (since : Option Nat) (park : State → State) (bs : List Byte) : TokenEnd :=
  let drop (t : State) : TokenEnd := .done (t.dropStores slice 1)
  if failed then drop s
  else if s.deviceWaits core launch tag then .wait s
  else match s.reach slice asid va 16 a with
    | .bad _ => drop s
    | .down => drop s
    | .pull p => .wait (s.devicePull slice asid p core launch va a tag)
    | .absent kind => .wait (s.joinFault slice asid (va / 65536) kind a launch (deviceWaiter core launch va a tag)).2
    | .parked k => match since with
      | none => .wait (park s)
      | some t => if s.parkedOut k t then drop s else .wait s
    | .full => .wait s
    | .ok k =>
      let s := s.readRoute slice k
      if s.poisoned k 16 slice then drop (s.metBy slice k 16)
      else match s.clearHolders slice (linesOf (cellsFrom k bs)) with
        | some t => .wait t
        | none => match s.crossNow (slice / 4) [k] with
          | none => .wait s
          | some t => .done (t.deviceWrite slice pid (cellsFrom k bs) none (t.reachDevice slice asid va))

/-! ### Spilled span-file entries (R160) -/

/-- An entry that a core spills is written to the spill area of its launch in local memory. The spec gives the area no layout: the place
and the bytes are free (log entry 94). Nothing is written where there is no area or the page cannot be reached, and a line that a peer
holds is invalidated first (R102). -/
def State.spillEntry (s : State) (x : Ctx) (l : Launch) : State :=
  let slice := sliceOf x.core
  let slots := l.rcd.spillSize * 256
  if l.rcd.spill = 0 ∨ slots = 0 then s
  else match s.reach slice l.asid (l.rcd.spill + Config.spillPlace s.free % slots * 16) 16 .store with
    | .ok k =>
      if !k.isLocal then s
      else
        let bs := (List.range 16).map fun j => Config.spillByte (s.free + j)
        ({ s with free := s.free + 17 } : State).sendHome slice l.pid (cellsFrom k bs)
    | _ => s

/-- The entries of a context that were chosen to make room go to the spill area of their launch (R160). -/
def State.settleSpills (s : State) : State :=
  (s.ctxs.filter fun x => x.spill == Spill.leaving).foldl (fun t x =>
    let t := match t.launch? x.launch with
      | some l => (x.entries t.ops).foldl (fun (u : State) _ => u.spillEntry x l) t
      | none => t
    t.modCtx x.id fun y => { y with spill := .away }) s

/-! ### Ending items (R205, R368, R370, R375, R419) -/

/-- The keys of every item of a context. -/
def Ctx.keys (x : Ctx) : List ItemKey := x.cs.map x.key

/-- An item that is ended breaks its groups, its cohort's barrier and its last objects (R370, R375), the objects through their
owners. -/
def State.breakAround (s : State) (k : ItemKey) : State :=
  match s.holder? k with
  | none => s
  | some x =>
    let objs := match x.items.find? fun i => i.c == k.c with
      | some i => i.objs
      | none => []
    let s := (s.recordsOf k).foldl (fun t r => t.breakGroup r.ref 0x08) s
    let s := s.breakGroup (.cohort k.launch k.cohort) 0x08
    objs.foldl (fun t o => t.askObject x.core k.launch (o / 2) (.brk 0x08 (o % 2 == 1))) s

/-- Some items wait for nothing more: their waits in barriers and signals are forgotten. -/
def State.forgetWaits (s : State) (ks : List ItemKey) : State :=
  let mine (x : Ctx) (i : Item) : Bool := ks.contains (x.key i.c)
  let reqs := s.ctxs.flatMap fun x => (x.items.filter (mine x)).filterMap fun i => match i.wait with
    | .barw n => some n
    | .sigw n _ => some n
    | _ => none
  let cut (r : AsuReq) : AsuReq :=
    if reqs.contains r.id then { r with items := r.items.filter fun c => !ks.contains { launch := r.launch, cohort := r.cohort, c := c } } else r
  let gone (r : AsuReq) : Bool := reqs.contains r.id && (cut r).items.isEmpty
  let ctxs := s.ctxs.map fun x => { x with items := x.items.map fun i => if mine x i then { i with wait := .none, parked := false } else i }
  let out := s.asu.filter gone
  -- a signal at which they waited last has no waiter any more (R373)
  (out.filter fun r => match r.kind with
    | .sigw _ _ _ => true
    | _ => false).foldl (fun t r => t.askObject r.core r.launch r.key .idle) { s with ctxs := ctxs, asu := (s.asu.filter fun r => !gone r).map cut }

/-- Items end without resumption (R419): they break and leave their groups and objects, their registers are killed, and
their launch counts them. -/
def State.endItems (s : State) (ks : List ItemKey) (status : Nat) : State :=
  let ks := ks.filter fun k => (s.holder? k).isSome
  let s := s.forgetWaits ks
  let s := ks.foldl (fun t k => t.breakAround k) s
  let s := ks.foldl (fun t k =>
    let t := t.setLaunch k.launch fun l => { l with ended := l.ended + 1, status := max l.status status }
    match t.holder? k with
    | none => t
    | some x => t.exitItems x [k.c]) s
  s.settleJoins

/-- Every item of a launch. -/
def State.itemsOf (s : State) (launch : Nat) : List ItemKey :=
  (s.ctxs.filter fun x => x.launch == launch).flatMap Ctx.keys

/-- Cancel a launch (R406): no further cohort is admitted, its items end, its children are cancelled, and it will complete
with STATUS 6. Each level of children is one deeper. -/
def State.cancelFrom (s : State) : Nat → Nat → State
  | 0, _ => s
  | fuel + 1, n =>
    let s := s.setLaunch n fun l => { l with stopped := true, status := max l.status 6 }
    let s := s.endItems (s.itemsOf n) 6
    ((s.launches.filter fun l => l.parent == some n).map Launch.num).foldl (fun t c => t.cancelFrom fuel c) s

/-- Cancel a launch and its children (R406). -/
def State.cancel (s : State) (n : Nat) : State := s.cancelFrom (s.launches.length + 1) n

end Sys2Proof.Machine
end

