-- ==== Sys2Proof/Machine/Launch.lean ====
section
/-! DEFINITION. Launch records, acceptance and refusal, dependences, placement and admission, headroom, the fast path,
completion and the carrel table (14). -/

namespace Sys2Proof.Machine

/-! ### The record (R385, R386) -/

/-- A field of a record. -/
def recField (bs : List Byte) (off n : Nat) : Nat := leNat ((bs.drop off).take n)

/-- A launch box size: 0 stands for 2^32. -/
def boxSize (n : Nat) : Nat := if n = 0 then 2 ^ 32 else n

/-- The record held by 128 bytes (R385). -/
def LaunchRec.ofBytes (bs : List Byte) : LaunchRec :=
  { kobj := recField bs 0x00 8, entry := recField bs 0x08 4, spread := recField bs 0x0C 4 % 2 == 1,
    afterAny := recField bs 0x0C 4 / 2 % 2 == 1, param := recField bs 0x10 8, const := recField bs 0x18 8,
    nx := boxSize (recField bs 0x20 4), ny := boxSize (recField bs 0x24 4), nz := boxSize (recField bs 0x28 4),
    cohX := recField bs 0x2C 2, cohY := recField bs 0x2E 2, cohZ := recField bs 0x30 2,
    queue := recField bs 0x32 1, prio := recField bs 0x33 1, maxM := recField bs 0x34 2, maxS := recField bs 0x36 2,
    shelfW := recField bs 0x38 2, shelfA := recField bs 0x3A 2, shelfC := recField bs 0x3C 2,
    headroom := recField bs 0x3E 2, barLog := recField bs 0x40 1, joinWait := recField bs 0x42 2,
    lsize := recField bs 0x44 4, lbase := recField bs 0x48 8, spill := recField bs 0x50 8,
    spillSize := recField bs 0x58 4, paramBytes := recField bs 0x5C 4, token := recField bs 0x60 8,
    after := recField bs 0x68 8 }

/-- Reason 0x01: a reserved bit or field is nonzero, or SEAL is zero. -/
def reservedBad (bs : List Byte) : Bool :=
  recField bs 0x0C 4 / 4 != 0 || recField bs 0x41 1 != 0 || recField bs 0x70 15 != 0 || recField bs 0x7F 1 == 0

/-- Reason 0x02: a field outside its limits (R385). -/
def LaunchRec.limitBad (r : LaunchRec) : Bool :=
  let vol := r.cohX * r.cohY * r.cohZ
  decide (2 ^ 40 < r.nx * r.ny * r.nz) || vol == 0 || decide (4096 < vol) || decide (31 < r.queue) || decide (7 < r.prio)
    || r.maxM == 0 || decide (128 < r.maxM) || r.maxS == 0 || decide (192 < r.maxS)
    || decide (512 < r.shelfW) || decide (512 < r.shelfA) || decide (256 < r.shelfC) || decide (1024 < r.headroom)
    || decide (r.barLog < 10) || decide (32 < r.barLog) || r.lsize % 16 != 0 || (r.lsize == 0 && r.lbase != 0)
    || (r.spill == 0 && r.spillSize != 0) || decide (4096 < r.paramBytes) || r.paramBytes % 4 != 0
    || (r.param == 0 && r.paramBytes != 0)

/-- A VA field breaks its alignment or has bits [63:48] set. -/
def vaBad (va align : Nat) : Bool := va % align != 0 || decide (2 ^ 48 ≤ va)

/-- Reason 0x03. -/
def LaunchRec.vasBad (r : LaunchRec) : Bool :=
  vaBad r.kobj 4096 || vaBad r.param 16 || vaBad r.const 64 || vaBad r.lbase 16 || vaBad r.spill 4096
    || vaBad r.token 16 || vaBad r.after 16

/-- What the header of a kernel object gives (R52): the addresses of code and map, and the number of words. -/
structure Header where
  code : Nat
  words : Nat
  map : Nat
  deriving DecidableEq, Repr

/-- What a read of a header comes to: what it gives, none for reason 0x04; or it waits, for a page that must be pulled (R453) or the
like, or for a parked path (R473). -/
inductive HeaderEnd where
  | got (h : Option Header) (s : State)
  | wait (s : State)
  | park (k : Phys) (s : State)

/-- The header at a kernel object's base, read as data for a launch (R386). -/
def State.kernelHeader (s : State) (slice asid launch base entry : Nat) : HeaderEnd :=
  match s.reach slice asid base 64 .load with
  | .ok k =>
    if s.poisoned k 64 then .got none (s.metBy slice k 64)
    else
      let (bs, s) := s.deviceRead slice (s.sysPid slice) k 64 (s.reachDevice slice asid base)
      let words := recField bs 0x0C 4
      if recField bs 0 4 = 0x4F4B4C5A ∧ recField bs 4 2 = 1 ∧ entry < words then
        .got (some { code := base + recField bs 8 4, words := words, map := base + recField bs 0x10 4 }) s
      else .got none s
  | .pull p => .wait (s.devicePull slice asid p 0 launch base .load [4])
  | .full => .wait s
  | .parked k => .park k s
  | _ => .got none s

/-! ### The carrel table (R393 to R395) -/

/-- The bind record's two registers. -/
def State.bindA (s : State) (slice q : Nat) : Word := s.vreg slice (0xC00 + 8 * q)
def State.bindB (s : State) (slice q : Nat) : Word := s.vreg slice (0xC04 + 8 * q)

/-- The slices a bind includes. -/
def State.bindSlices (s : State) (slice q : Nat) : List Nat :=
  let mem := s.members slice
  (List.range mem.length).filterMap fun j => if (s.bindB slice q).toNat.testBit (16 + j) then mem[j]? else none

/-- The cores a bind includes, by slice and then by core (R393, R398). -/
def State.bindCores (s : State) (slice q : Nat) : List Nat :=
  (s.bindSlices slice q).flatMap fun m =>
    ((List.range 30).filter fun t => (s.bindA slice q).toNat.testBit t).map fun t => sliceCore m t

/-- The clusters all of whose cores a bind includes, each as its cores. -/
def State.bindClusters (s : State) (slice q : Nat) : List (List Nat) :=
  (s.bindSlices slice q).flatMap fun m =>
    ((List.range 5).map fun k => (List.range 6).map fun j => sliceCore m (6 * k + j)).filter fun g =>
      g.all (s.bindCores slice q).contains

/-- The effective priority (R395). -/
def State.effective (s : State) (l : Launch) : Nat :=
  let b := s.bindB l.slice l.rcd.queue
  let hi := fieldOfWord b 10 3
  let lo := fieldOfWord b 7 3
  if hi < lo then hi else min (max l.rcd.prio lo) hi

/-! ### What a cohort needs and a core has (R109, R158, R183, R364) -/

/-- The blocks of a cohort that lie on each core of a cluster (R364). -/
def spreadBlocks (bs : List Nat) : List (List Nat) :=
  (List.range 6).map fun t => (bs.drop (t * bs.length / 6)).take ((t + 1) * bs.length / 6 - t * bs.length / 6)

/-- What some blocks of a launch's cohort need of a core (R158); of a core of its cluster that holds none of its blocks, granules alone
(DESIGN CHOICE, log entry 103). -/
def LaunchRec.need (r : LaunchRec) (nb : Nat) : Need :=
  if nb = 0 then { m := 0, e := 0, strands := 0, spans := 0, w := r.shelfW, a := r.shelfA, c := r.shelfC }
  else { m := nb * r.maxM, e := (nb + 1) * r.maxS, strands := nb, spans := 1, w := r.shelfW, a := r.shelfA, c := r.shelfC }

/-- One is no more than the other in every part. -/
def Need.fits (n f : Need) : Bool :=
  decide (n.m ≤ f.m) && decide (n.e ≤ f.e) && decide (n.strands ≤ f.strands) && decide (n.spans ≤ f.spans)
    && decide (n.w ≤ f.w) && decide (n.a ≤ f.a) && decide (n.c ≤ f.c)

/-- An empty core (R16, R110). -/
def emptyCore : Need := { m := 2048, e := 2048, strands := 512, spans := 64, w := 512, a := 512, c := 256 }

/-- Free granules of a shelf, ascending. -/
def State.freeGrans (s : State) (core space : Nat) : List Nat :=
  let used := (s.shares core).flatMap fun h => h.grans space
  (List.range (if space = 3 then 256 else 512)).filter fun n => !used.contains n

/-- The free resources of a core. -/
def State.freeOf (s : State) (core : Nat) : Need :=
  { m := s.spareM core - s.overM core s.ctxs, e := s.spareS core - s.overS core s.ctxs, strands := s.freeStrands core,
    spans := s.freeSpans core, w := (s.freeGrans core 1).length, a := (s.freeGrans core 2).length,
    c := (s.freeGrans core 3).length }

/-- What the master knows of a core: its own die's as it is, a member's as last reported (R396). -/
def State.knownOf (s : State) (slice core : Nat) : Need :=
  if sliceOf core = s.leader slice then s.freeOf core
  else match s.reports.find? fun r => r.core == core with
    | some r => r.free
    | none => emptyCore

/-- Blocks of a cohort start as one span on a core (R365). -/
def startsAsSpan (r : LaunchRec) (cohort : Nat) (blocks : List Nat) : Bool :=
  isBox r cohort ((cohortItems r cohort).filter fun c => blocks.contains (c / 64))

/-- A pending remainder of a core takes freed places before any new cohort is admitted there (R196). -/
def State.remainderOn (s : State) (core : Nat) : Bool := s.ctxs.any fun x => x.core == core && x.pending.isSome

/-- A member that confirms a reservation on a core tells the master what it has left there (R396). -/
def State.confirm (s : State) (shares : List Share) : State :=
  { s with reports := s.reports.map fun r => if shares.any fun h => h.core == r.core then { r with free := s.freeOf r.core } else r }

/-- Some blocks of a launch's cohort fit on a core (R158, R196, R393): by what whoever places it knows, and confirmed by the
core's own distributor (R396). -/
def State.fitsOn (s : State) (know : Nat → Need) (l : Launch) (cohort core : Nat) (blocks : List Nat) : Bool :=
  let need := l.rcd.need blocks.length
  need.fits (know core) && need.fits (s.freeOf core)
    && !(s.remainderOn core)
    && (blocks.isEmpty || !startsAsSpan l.rcd cohort blocks
        || decide (s.queueSpans core l.slice l.rcd.queue < s.spanLimit l.slice l.rcd.queue))

/-- A share of some blocks on a core, with the first free granules. -/
def State.newShare (s : State) (r : LaunchRec) (core : Nat) (blocks : List Nat) : Share :=
  { core := core, blocks := blocks, maxM := r.maxM, maxS := r.maxS, granW := (s.freeGrans core 1).take r.shelfW, granA := (s.freeGrans core 2).take r.shelfA,
    granC := (s.freeGrans core 3).take r.shelfC }

/-- R398: where a cohort is placed, on cores that a test allows, by the free resources that are known; none when it fits nowhere. -/
def State.placeCohort (s : State) (know : Nat → Need) (l : Launch) (cohort : Nat) (blocks : List Nat) (allowed : Nat → Bool) : Option (List Share) :=
  if l.rcd.spread then
    let ok := (s.bindClusters l.slice l.rcd.queue).filter fun g =>
      g.all allowed && (g.zip (spreadBlocks blocks)).all fun p => s.fitsOn know l cohort p.1 p.2
    (argMax (fun (g : List Nat) => (g.map fun c => (know c).m).sum) ok).map fun g =>
      (g.zip (spreadBlocks blocks)).map fun p => s.newShare l.rcd p.1 p.2
  else
    let ok := (s.bindCores l.slice l.rcd.queue).filter fun c => allowed c && s.fitsOn know l cohort c blocks
    (argMax (fun c => (know c).m) ok).map fun c => [s.newShare l.rcd c blocks]

/-- The blocks of a cohort (R156). -/
def LaunchRec.blocks (r : LaunchRec) (cohort : Nat) : List Nat := blocksOf (cohortItems r cohort)

/-- Cohorts that fit together on one empty core or cluster. -/
def Need.times (n : Need) : Nat :=
  let q (have_ want : Nat) : Nat := if want = 0 then 1025 else have_ / want
  min (min (min (q emptyCore.m n.m) (q emptyCore.e n.e)) (min (q emptyCore.strands n.strands) (q emptyCore.spans n.spans)))
    (min (min (q emptyCore.w n.w) (q emptyCore.a n.a)) (q emptyCore.c n.c))

/-- Reason 0x05: the first cohort and its headroom units do not fit on the bind's empty cores or clusters (R386). -/
def State.tooBig (s : State) (slice : Nat) (r : LaunchRec) : Bool :=
  let bs := r.blocks 0
  let room := if r.spread then
      (s.bindClusters slice r.queue).length * ((spreadBlocks bs).map fun b => (r.need b.length).times).foldl min 1025
    else (s.bindCores slice r.queue).length * (r.need bs.length).times
  decide (room < 1 + r.headroom)

/-! ### Acceptance and refusal (R67, R96, R386, R387, R390, R410) -/

/-- Reasons 0x06 and 0x05, in the order of R386's table; 0 for none. -/
def State.checkBind (s : State) (slice : Nat) (r : LaunchRec) : Nat :=
  if (s.bindCores slice r.queue).isEmpty then 6 else if s.tooBig slice r then 5 else 0

/-- What the checks of a record come to (R386): a reason, or what its header gives, or its header cannot be read yet. -/
inductive RecordEnd where
  | refused (reason : Nat) (s : State)
  | sound (h : Header) (s : State)
  | unread (s : State)

/-- The checks of the record of a launch (R386). A fast-path child's header is checked later (R405). -/
def State.checkRecord (s : State) (slice asid launch : Nat) (bs : List Byte) (late : Bool) : RecordEnd :=
  let r := LaunchRec.ofBytes bs
  let rest (h : Header) (s : State) : RecordEnd := if s.checkBind slice r = 0 then .sound h s else .refused (s.checkBind slice r) s
  if reservedBad bs then .refused 1 s
  else if r.limitBad then .refused 2 s
  else if r.vasBad then .refused 3 s
  else if late then rest { code := 0, words := 0, map := 0 } s
  else match s.kernelHeader slice asid launch r.kobj r.entry with
    | .got (some h) t => rest h t
    | .got none t => .refused 4 t
    | .wait t => .unread t
    | .park _ t => .unread t

/-- A launch number: nonzero, 32 bits, of no launch that has not completed (R387); one whose register writes are still outstanding is
not used again yet (DESIGN CHOICE, log entry 88). -/
def State.newNumber (s : State) : Nat × State :=
  let n := (Config.launchNumber s.free).toNat
  let saved := s.slices.flatMap fun v => match v.folio with
    | some f => f.launches.map Launch.num
    | none => []
  let held := s.cohorts.map Cohort.launch ++ s.ops.map Op.launch
  let all := (List.range (s.launches.length + saved.length + held.length + 1)).map fun k => (n + k) % (2 ^ 32 - 1) + 1
  ((all.find? fun m => (s.launch? m).isNone && !saved.contains m && !held.contains m).getD 1, s.draw)

/-- A launch as its record starts it. -/
def newLaunch (num : Nat) (r : LaunchRec) (slice asid pid : Nat) (parent : Option Nat) (order : Nat) (h : Header)
    (late : Bool) (reason : Nat) : Launch :=
  { num := num, rcd := r, slice := slice, asid := asid, pid := pid, parent := parent, device := parent.isSome, order := order,
    code := h.code, words := h.words, map := h.map, dep := if r.after = 0 then .ready else .waiting, nextCohort := 0,
    passed := 0, ended := 0, status := 0, stopped := false, late := late, lastCycle := 0, reason := reason,
    noToken := false, tokSince := none }

/-- The TOKEN field names a token (R386). -/
def LaunchRec.tokenOk (r : LaunchRec) : Bool := r.token != 0 && !vaBad r.token 16

/-- DST_LERR and DST_LREFCNT note a refusal; without a valid TOKEN its interrupt is raised (R410). -/
def State.noteRefusal (s : State) (slice reason slot : Nat) (dev token : Bool) : State :=
  let e := s.vreg slice 0x200
  let s := if e.toNat.testBit 31 then s
    else s.setVreg slice 0x200 (.ofNat 32 (2 ^ 31 + reason * 2 ^ 16 + if dev then 2 ^ 15 else slot))
  let s := s.count slice 0x204 1
  if token then s else s.interrupt slice 2 0

/-- R390: what the token at AFTER says. A path that stays parked for 40 ms, and a pull that fails, make the token one that cannot be read
(R453, R473). -/
def State.readAfter (s : State) (l : Launch) : DepState × State :=
  let since (t : Option Nat) : State := s.setLaunch l.num fun k => { k with tokSince := t }
  if s.deviceWaits 0 l.num [7] then (.waiting, s)
  else match s.reach l.slice l.asid (l.rcd.after + 4) 2 .load with
  | .ok k =>
    if s.poisoned k 2 then (.failed, s.metBy l.slice k 2)
    else
      let (bs, s) := s.deviceRead l.slice (s.sysPid l.slice) k 2 (s.reachDevice l.slice l.asid (l.rcd.after + 4))
      let st := leNat bs
      let s := s.setLaunch l.num fun k => { k with tokSince := none }
      if st = 0 then (.waiting, s) else if st = 1 || l.rcd.afterAny then (.ready, s) else (.failed, s)
  | .pull p => (.waiting, s.devicePull l.slice l.asid p 0 l.num (l.rcd.after + 4) .load [7])
  | .full => (.waiting, s)
  | .parked k => match l.tokSince with
    | none => (.waiting, since (some s.clock))
    | some t => if s.parkedOut k t then (.failed, since none) else (.waiting, s)
  | _ => (.failed, since none)

/-- Accept a launch (R387, R390): AFTER is read once now. -/
def State.accept (s : State) (l : Launch) : State :=
  let s := s.dropOld.shareOld l.num
  let s : State := { s with launches := s.launches ++ [l] }
  if l.dep == DepState.waiting then
    let (d, s) := s.readAfter l
    s.setLaunch l.num fun l => { l with dep := d }
  else s

/-- R390: an `AFTER` token is read again. -/
def execAfterTokenPoll (launch : Nat) (s : State) : Host.Outcome State Fault Refusal :=
  match s.launch? launch with
  | none => .next s
  | some l =>
    if l.dep == DepState.waiting && !l.unread then
      let (d, s) := s.readAfter l
      .next (s.setLaunch launch fun l => { l with dep := d })
    else .next s

/-! ### Completion (R390 to R392, R403, R502) -/

/-- Writes of a launch that have not been performed (R347, R391). -/
def State.writesLeft (s : State) (n : Nat) : Bool :=
  (s.ops.any fun o => o.launch == n && match o.kind with
    | .ack _ => true
    | _ => false)
  || (s.l1.any fun l => !l.dirty.isEmpty && l.issuer.any fun w => w.1 == n)
  || s.asu.any fun r => r.launch == n

/-- Every item, copy, record and chain of a launch is done, and no further cohort is to come (R392). -/
def State.nothingLeft (s : State) (l : Launch) : Bool :=
  (l.reason != 0 || l.dep == DepState.failed || l.stopped || decide (cohortTotal l.rcd ≤ l.nextCohort))
    && !(s.ctxs.any fun x => x.launch == l.num)
    && !(s.copies.any fun c => c.launch == l.num)
    && !(s.tasks.any fun t => t.launch == l.num)
    && !(s.chains.any fun c => c.launch == l.num)

/-- Every item, copy, record, chain, write and child of a launch is done (R392). -/
def State.launchDone (s : State) (l : Launch) : Bool :=
  s.nothingLeft l && !(s.launches.any fun k => k.parent == some l.num) && !s.writesLeft l.num

/-- The STATUS of a launch that is done (R391). -/
def Launch.final (l : Launch) : Nat :=
  if l.reason != 0 then 2 else if l.dep == DepState.failed then 3 else max l.status 1

/-- The token of a launch (R391). -/
def Launch.tokenBytes (l : Launch) : List Byte :=
  leBytes 4 (if l.num < 2 ^ 32 then l.num else 0) ++ leBytes 2 l.final
    ++ (if l.reason != 0 then leBytes 2 l.reason else leBytes 2 (min l.ended 65535)) ++ leBytes 8 l.lastCycle

/-- Granules of a share are EMPTY again (R113). -/
def State.emptyGrans (s : State) (h : Share) : State :=
  [1, 2, 3].foldl (fun t space => (h.grans space).foldl (fun t n =>
    t.setGran h.core space n fun g => { g with state := .empty, count := 0, rel := false }) t) s

/-- A cohort's granules, its strand registers, entries and places, and its place among the cohorts go; a headroom unit it used is free
for the next child (R158, R401). -/
def State.dropCohort (s : State) (k : Cohort) : State :=
  let s := k.shares.foldl (fun t h => t.emptyGrans h) s
  let units := updWhere (fun u => k.unitOf == some u.id) (fun (u : HeadUnit) => { u with used := false }) s.units
  { s with units := units, cohorts := s.cohorts.filter fun c => !(c.launch == k.launch && c.num == k.num),
           slots := s.slots.filter fun t => !(t.launch == k.launch && t.cohort == k.num) }

/-- A cohort has an item that has not exited. -/
def State.inhabited (s : State) (k : Cohort) : Bool := s.ctxs.any fun x => x.launch == k.launch && x.cohort == k.num

/-- A write of a register of a cohort is outstanding (R161). -/
def State.regsDue (s : State) (k : Cohort) : Bool := s.ops.any fun o => o.launch == k.launch && o.cohort == k.num && !o.dst.isEmpty

/-- A copy, a record or a chain of a cohort is still to complete (R129, R293). -/
def State.workLeft (s : State) (k : Cohort) : Bool :=
  (s.copies.any fun c => c.launch == k.launch && c.cohort == k.num)
    || (s.tasks.any fun t => t.launch == k.launch && t.cohort == k.num)
    || s.chains.any fun c => c.launch == k.launch && c.cohort == k.num

/-- What a cohort whose last item has exited gives up: its strand registers, entries and places once no register write is outstanding
(R158, R161), its granules once its copies, records and chains have completed (R129, R293), and then itself. -/
def State.releaseCohort (s : State) (k : Cohort) : State :=
  if s.inhabited k then s
  else
    let due := s.regsDue k
    let work := s.workLeft k
    if !due && !work then s.dropCohort k
    else
      let s := if work then s else k.shares.foldl (fun t h => t.emptyGrans h) s
      s.setCohort k.launch k.num fun c => { c with shares := c.shares.map fun h =>
        { h with blocks := if due then h.blocks else [], granW := if work then h.granW else [], granA := if work then h.granA else [],
                 granC := if work then h.granC else [] } }

/-- A launch that is done goes, but for the reservations that register writes still hold (R161): its parent's flag clears, and its
failure is kept for the items that asked for it (R392, R403). -/
def State.finish (s : State) (l : Launch) : State :=
  let n := l.num
  let s := (s.cohorts.filter fun k => k.launch == n).foldl (fun t k => t.releaseCohort k) s
  let mine (o : Op) : Bool := match o.kind with
    | .child c _ => c == n
    | _ => false
  let fails := (s.ops.filter mine).filterMap fun o => match o.kind, o.flag with
    | .child _ true, some f => if l.final != 1 then
        some ({ launch := o.launch, cohort := o.cohort, items := o.items, flag := f, child := n } : ChildFail) else none
    | _, _ => none
  let s : State := { s with
    ops := s.ops.filter fun o => !mine o && (o.launch != n || !o.dst.isEmpty),
    launches := s.launches.filter (fun k => k.num != n),
    units := s.units.filter (fun u => u.launch != n),
    consts := s.consts.filter (fun k => k.launch != n),
    childFails := s.childFails.filter (fun f => f.launch != n) ++ fails,
    taskFails := s.taskFails.filter (fun f => f.launch != n) }
  match l.parent with
  | some p => if l.final != 1 then s.setLaunch p fun q => { q with status := max q.status 4 } else s
  | none => s

/-- Complete a launch: its token is written, or the write waits or is dropped, and it is done (R391, R392, R502). A record of the launch
window whose QUEUE is out of range names no ASID; its token is reached through that of the queue it names mod 32 (DESIGN CHOICE, log
entry 104). -/
def State.complete (s : State) (l : Launch) : State :=
  if !l.rcd.tokenOk then s.finish l
  else
    let park (t : State) : State := t.setLaunch l.num fun k => { k with tokSince := some t.clock }
    match s.writeToken l.slice l.asid (s.sysPid l.slice) 0 l.num l.rcd.token .store [0] l.noToken l.tokSince park l.tokenBytes with
    | .wait t => t
    | .done t => t.finish l

/-- R392: a launch completes. -/
def execLaunchComplete (launch : Nat) (s : State) : Host.Outcome State Fault Refusal :=
  match s.launch? launch with
  | none => .next s
  | some l => .next (if s.launchDone l then s.complete l else s)

/-- A refused record (R386, R410): its token is written under the number it has, or under none. -/
def State.refuse (s : State) (l : Launch) (reason slot : Nat) : State :=
  let s := s.noteRefusal l.slice reason slot l.device l.rcd.tokenOk
  let l := { l with reason := reason, dep := .ready }
  let s : State := { s with launches := s.launches ++ [l] }
  s.complete l

/-! ### The launch window (R388, R389) -/

/-- The device refuses work of a slice while it is being cleared (R443). -/
def State.closed (s : State) (slice : Nat) : Bool := (s.slice (s.leader slice)).clearing

/-- R388: a write of SEAL; one that makes it nonzero queues the slot. -/
def execSealWrite (slice slot : Nat) (val : Byte) (s : State) : Host.Outcome State Fault Refusal :=
  if !s.serves slice || 512 ≤ slot || s.closed slice then .next s
  else
    let a := slice * 65536 + 128 * slot + 127
    let was := s.window.read a
    let s : State := { s with window := s.window.write a val }
    .next (if was = 0 ∧ val ≠ 0 then s.setSlice slice fun v => { v with parseQ := v.parseQ ++ [slot] } else s)

/-- A queued slot can be parsed (R388, R427, R438). -/
def State.mayParse (s : State) (slice : Nat) : Bool :=
  s.leader slice == slice && (s.slice slice).tdisp != 1 && (s.slice slice).pre == 0 && !s.closed slice && !(s.slice slice).parseQ.isEmpty

/-- A launch whose header could not be read yet stands among the launches until it has been checked (R386). -/
def State.holdUnread (s : State) (l : Launch) (slot : Nat) : State :=
  { s with launches := s.launches ++ [{ l with unread := true, slot := slot }] }

/-- R386 to R388: the first queued slot is copied, its SEAL cleared, and its record accepted or refused, or kept until its header can be
read. -/
def execLaunchRecordParse (slice : Nat) (s : State) : Host.Outcome State Fault Refusal :=
  match (s.slice slice).parseQ with
  | [] => .next s
  | slot :: rest =>
    if !s.mayParse slice then .next s
    else
      let base := slice * 65536 + 128 * slot
      let bs := s.window.readList base 128
      let r := LaunchRec.ofBytes bs
      let asid := fieldOfWord (s.vreg slice (0x480 + 4 * (r.queue % 32))) 0 8
      let s : State := { s with window := s.window.write (base + 127) 0 }
      let s := s.setSlice slice fun v => { v with parseQ := rest }
      let pid := fieldOfWord (s.vreg slice (0x680 + 4 * (r.queue % 32))) 0 3
      let (order, s) := s.fresh
      let launch (num : Nat) (h : Header) : Launch := newLaunch num r slice asid pid none order h false 0
      let blank : Header := { code := 0, words := 0, map := 0 }
      match s.checkRecord slice asid (2 ^ 32 + order) bs false with
      | .refused reason s => .next (s.refuse (launch (2 ^ 32 + order) blank) reason slot)
      | .unread s => .next (s.holdUnread (launch (2 ^ 32 + order) blank) slot)
      | .sound h s =>
        let (n, s) := s.newNumber
        .next (s.accept (launch n h))

/-! ### Admission (R363 to R365, R387, R397 to R401) -/

/-- The place of an item that has executed nothing: a count of 17 marks an entry that R55 has still to check. -/
def entryPlace : Place := { count := 17, long := 0, setA := 15, setB := 15 }

/-- An item at admission (R147, R365). -/
def newItem (c : Nat) (pc : DWord) (late : Bool) (clock : Nat) : Item :=
  { c := c, pc := pc, wait := if late then .late else .none, region := 0,
    entry := { pc := pc, region := 0, fflags := 0, place := entryPlace }, place := entryPlace, groups := [], objs := [],
    since := clock, parked := false }

/-- A context at admission (R147, R365). -/
def State.newCtx (s : State) (l : Launch) (cohort core : Nat) (kind : CtxKind) (cs : List Nat) (place : Nat) : State :=
  let (id, s) := s.fresh
  let pc : DWord := .ofNat 64 (l.code + 4 * l.rcd.entry)
  let x : Ctx :=
    { id := id, kind := kind, core := core, launch := l.num, cohort := cohort, items := cs.map fun c => newItem c pc l.late s.clock,
      x := [], q := [], p := [], fflags := 0, fctl := 0, region := 0,
      lane := if kind == CtxKind.span then 0 else s.newLane core, split := 0, staged := 0, yielded := none, pending := none,
      held := none, rel := none, acq := 0, place := some place, created := s.clock }
  { s with ctxs := s.ctxs ++ [x] }

/-- The contexts of a cohort on one core (R365): one span when its items form a box, else a strand for each block. -/
def State.startShare (s : State) (l : Launch) (cohort : Nat) (h : Share) : State :=
  let cs := (cohortItems l.rcd cohort).filter fun c => h.blocks.contains (c / 64)
  if cs.isEmpty then s
  else if isBox l.rcd cohort cs then s.newCtx l cohort h.core .span cs 0
  else h.blocks.foldl (fun t j => t.newCtx l cohort h.core .strand (cs.filter fun c => c / 64 == j) j) s

/-- Prefetch a line into a core's L1 and the slice's L2, as `prf` does; it never faults (R385). -/
def State.prefetchLine (s : State) (l : Launch) (core va : Nat) : State :=
  let s := (s.prefetchWalk core l (va / 65536)).2
  match s.translate core l.slice l.asid 0 .load [] [(va, 128)] with
  | .ok ps => match s.checkLinks (sliceOf core) va false (fun _ => false) ps with
    | .ok ps => ps.foldl (fun t p => t.prefetch core l l.nextCohort 0 p) s
    | _ => s
  | _ => s

/-- Prefetch the parameter block (R385). -/
def State.prefetchParams (s : State) (l : Launch) (core : Nat) : State :=
  let first := l.rcd.param / 128
  let lines := if l.rcd.paramBytes = 0 then 0 else (l.rcd.param + l.rcd.paramBytes - 1) / 128 + 1 - first
  (List.range lines).foldl (fun t j => t.prefetchLine l core ((first + j) * 128)) s

/-- A core's first cohort of a launch loads the constant image and prefetches the parameters (R385, R387). -/
def State.firstOn (s : State) (l : Launch) (core : Nat) : State :=
  if s.consts.any fun k => k.core == core && k.launch == l.num then s
  else
    let k : ConstImage :=
      { core := core, launch := l.num, words := if l.rcd.const = 0 then some (List.replicate 1024 0) else none, failed := none }
    ({ s with consts := s.consts ++ [k] } : State).prefetchParams l core

/-- Admit the next cohort of a launch with its shares (R147, R158, R365, R436). -/
def State.admitCohort (s : State) (l : Launch) (shares : List Share) (unitOf : Option Nat) : State :=
  let k : Cohort :=
    { launch := l.num, num := l.nextCohort, shares := shares, phase := .start, unitOf := unitOf }
  let units := updWhere (fun u => unitOf == some u.id) (fun (u : HeadUnit) => { u with used := true }) s.units
  let s := ({ s with cohorts := s.cohorts ++ [k], units := units } : State).confirm shares
  let s := s.setLaunch l.num fun m => { m with nextCohort := l.nextCohort + 1, passed := 0 }
  let s := s.setMembers l.slice fun v => { v with clean := false }
  let s := shares.foldl (fun t h => t.emptyGrans h) s
  let s := shares.foldl (fun t h => if h.blocks.isEmpty then t else t.firstOn l h.core) s
  shares.foldl (fun t h => t.startShare l l.nextCohort h) s

/-- The reservation of a child's cohort within a headroom unit of its parent (R401). -/
def unitShares (parent : LaunchRec) (u : HeadUnit) (r : LaunchRec) (blocks : List Nat) : Option (List Share) :=
  let parts := if r.spread then spreadBlocks blocks else [blocks]
  if parts.length != u.shares.length then none
  else if (u.shares.zip parts).all fun p => (r.need p.2.length).fits (parent.need p.1.blocks.length) then
    some ((u.shares.zip parts).map fun p =>
      { core := p.1.core, blocks := p.2, maxM := r.maxM, maxS := r.maxS, granW := p.1.granW.take r.shelfW, granA := p.1.granA.take r.shelfA,
        granC := p.1.granC.take r.shelfC })
  else none

/-- The free headroom units of the parent in which a child's cohort fits. -/
def State.unitsFor (s : State) (l : Launch) (blocks : List Nat) : List (Nat × List Share) :=
  match l.parent with
  | none => []
  | some p =>
    match s.launch? p with
    | none => []
    | some q =>
      (s.units.filter fun u => u.launch == p && !u.used).filterMap fun u =>
        (unitShares q.rcd u l.rcd blocks).map fun h => (u.id, h)

/-- Reserve headroom units one at a time (R401), by what the master knows; none when they cannot all be placed. -/
def State.reserveUnits (s : State) (l : Launch) (blocks : List Nat) : Nat → Option State
  | 0 => some s
  | n + 1 =>
    match s.placeCohort (s.knownOf l.slice) l 0 blocks (fun _ => true) with
    | none => none
    | some shares =>
      let (id, s) := s.fresh
      let u : HeadUnit := { id := id, launch := l.num, shares := shares, used := false }
      State.reserveUnits (({ s with units := s.units ++ [u] } : State).confirm shares) l blocks n

/-- Admit a cohort with its shares, and with the first one the headroom units of the launch, which are placed with the cohort's own
reservation taken (R401); none when these cannot all be placed. -/
def State.admitWith (s : State) (l : Launch) (blocks : List Nat) (shares : List Share) (unitOf : Option Nat) : Option State :=
  if l.nextCohort = 0 ∧ 0 < l.rcd.headroom then
    let k : Cohort := { launch := l.num, num := 0, shares := shares, phase := .start, unitOf := unitOf }
    ((({ s with cohorts := s.cohorts ++ [k] } : State).confirm shares).reserveUnits l blocks l.rcd.headroom).map fun t =>
      ({ t with cohorts := t.cohorts.filter fun c => !(c.launch == l.num && c.num == 0) } : State).admitCohort l shares unitOf
  else some (s.admitCohort l shares unitOf)

/-- Admit one cohort of a launch, on cores that a test allows, by the free resources that are known (R397, R398, R401); none when it
does not fit there, or a pending remainder stands before it (R196). A headroom unit goes first; the master does not ask whether its
cores are of the child's own queue (DESIGN CHOICE, log entry 105). -/
def State.admitOne (s : State) (know : Nat → Need) (l : Launch) (allowed : Nat → Bool) : Option State :=
  if l.stopped || decide (cohortTotal l.rcd ≤ l.nextCohort) then none
  else
    let blocks := l.rcd.blocks l.nextCohort
    match (s.unitsFor l blocks).filter fun u => u.2.all fun h => allowed h.core with
    | u :: rest => ((u :: rest).find? fun u => u.2.all fun h => !s.remainderOn h.core).bind fun u => s.admitWith l blocks u.2 (some u.1)
    | [] => (s.placeCohort know l l.nextCohort blocks allowed).bind fun shares => s.admitWith l blocks shares none

/-- The launches of a queue whose last cohort has not been admitted, children of resident parents first (R399). Children whose parent
is resident no more stand among the others, by acceptance (DESIGN CHOICE, log entry 89). -/
def State.queueHead (s : State) (slice q : Nat) : Option Launch :=
  let mine := s.launches.filter fun l => s.leader l.slice == slice && l.rcd.queue == q && l.reason == 0 && !l.stopped && !l.unread
    && l.dep != DepState.failed && decide (l.nextCohort < cohortTotal l.rcd)
  let child (l : Launch) : Bool := match l.parent with
    | some p => s.cohorts.any fun k => k.launch == p
    | none => false
  match argMin Launch.order (mine.filter child) with
  | some l => some l
  | none => argMin Launch.order mine

/-- The eligible launches, by queue (R395, R399). -/
def State.eligible (s : State) (slice : Nat) : List Launch :=
  (List.range 32).filterMap fun q =>
    match s.queueHead slice q with
    | some l => if l.dep == DepState.ready && !l.late && (s.bindA slice q).toNat.testBit 31 then some l else none
    | none => none

/-- Serve launches in order, each with at most one cohort: those that admitted one, and the state. -/
def State.serve (s : State) : List Launch → List Launch × State
  | [] => ([], s)
  | l :: rest =>
    match s.admitOne (s.knownOf l.slice) l (fun _ => true) with
    | some t => let (done, t) := State.serve t rest
      (l :: done, t)
    | none => State.serve s rest

/-- The slice admits (R427, R438, R443). -/
def State.mayAdmit (s : State) (slice : Nat) : Bool :=
  s.leader slice == slice && (s.slice slice).tdisp != 3 && (s.slice slice).pre == 0 && !s.closed slice

/-- A round of admissions (R399, R400): none when it would place nothing. -/
def State.round (s : State) (slice : Nat) : Option State :=
  let el := s.eligible slice
  let top := (el.map s.effective).foldl max 0
  let rr := (s.slice slice).rr.getD top 0
  let urgent := el.filter fun l => decide (64 ≤ l.passed)
  let visit := (List.range 32).filterMap fun k => el.find? fun l => l.rcd.queue == (rr + k) % 32 && s.effective l == top && decide (l.passed < 64)
  let (done, t) := s.serve (urgent ++ visit)
  if !s.mayAdmit slice || done.isEmpty then none
  else
    let t := match done.find? fun l => s.effective l == top with
      | some l => t.setSlice slice fun v => { v with rr := v.rr.set top ((l.rcd.queue + 1) % 32) }
      | none => t
    let best := (done.map s.effective).foldl max 0
    let behind := (el.filter fun l => !(done.any fun d => d.num == l.num) && decide (s.effective l < best)).map Launch.num
    some { t with launches := updWhere (fun l => behind.contains l.num) (fun (l : Launch) => { l with passed := l.passed + 1 }) t.launches }

/-- R399. -/
def execAdmissionRound (slice : Nat) (s : State) : Host.Outcome State Fault Refusal := .next ((s.round slice).getD s)

/-- What a field's current limit leaves after its fixed reserve (R478). -/
def State.currentRoom (s : State) (f : Nat) : Nat :=
  fieldOfWord (s.reg 0 (0x140 + 4 * f)) 21 11 - fieldOfWord (s.reg 0 (0x140 + 4 * f)) 15 6

/-- The current granted in a field (R478). -/
def State.currentUsed (s : State) (f : Nat) : Nat := ((s.curReqs.filter fun p => p.granted && fieldOf p.core == f).map CurReq.amps).sum

/-- The reports of a member's cores, as they stand, each with the free current headroom of its field (R396). -/
def State.reportsOf (s : State) (m : Nat) : List Report :=
  (List.range 30).map fun t =>
    let core := sliceCore m t
    { core := core, free := s.freeOf core, amps := s.currentRoom (m / 4) - s.currentUsed (m / 4) }

/-- A member has something to report. -/
def State.reportDue (s : State) (m : Nat) : Bool :=
  s.leader m != m && (s.reportsOf m).any fun r => !s.reports.contains r

/-- R396: a member distributor reports its free resources. -/
def execDistributorReport (member : Nat) (s : State) : Host.Outcome State Fault Refusal :=
  if s.leader member == member then .next s
  else .next { s with reports := (s.reports.filter fun r => sliceOf r.core != member) ++ s.reportsOf member }

/-! ### Constant images (R387) -/

/-- The contexts of a launch on a core end with a fault (R387): each gets its record and is ended. -/
def State.endOnCore (s : State) (l : Launch) (core cause : Nat) : State :=
  let xs := s.ctxs.filter fun x => x.launch == l.num && x.core == core
  let s := xs.foldl (fun t x =>
    let (id, t) := t.fresh
    let pc := ((t.groupPc x).getD ((x.items.head?.map Item.pc).getD 0))
    let f := faultRecord t id x l cause true [] pc x.region (.ofNat 64 l.rcd.const) false
    { t with faults := t.faults ++ [{ f with needs := false }] }) s
  s.endItems (xs.flatMap Ctx.keys) 5

/-- R387: the image arrives, or its read fails for the launch's contexts on that core; a cohort that comes to the core later then reads
zeros (DESIGN CHOICE, log entry 90). -/
def execConstantImageArrival (core launch : Nat) (s : State) : Host.Outcome State Fault Refusal :=
  match s.launch? launch, s.consts.find? fun k => k.core == core && k.launch == launch && k.words.isNone with
  | some l, some k =>
    let last := (l.rcd.const + 4095) / 65536 * 65536
    let put (t : State) (f : ConstImage → ConstImage) : State :=
      { t with consts := updWhere (fun i => i.core == core && i.launch == launch) f t.consts }
    let set (t : State) (ws : List Word) : State := put t fun i => { i with words := some ws, failed := none, since := none }
    let fail (t : State) (cause : Nat) : State := set (t.endOnCore l core cause) (List.replicate 1024 0)
    match k.failed with
    | some cause => .next (fail s cause)
    | none =>
      if s.deviceWaits core launch [1] then .next s
      else
        let n1 := min 4096 (65536 - l.rcd.const % 65536)
        let ps : List (Nat × Nat) := if n1 < 4096 then [(l.rcd.const, n1), (last, 4096 - n1)] else [(l.rcd.const, 4096)]
        let rs := ps.map fun p => (p, s.reach l.slice l.asid p.1 p.2 .load)
        let stop := rs.find? fun r => match r.2 with
          | .ok k => s.poisoned k r.1.2
          | _ => true
        match stop with
        | none =>
          let (bs, s) := rs.foldl (fun (acc : List Byte × State) r => match r.2 with
            | .ok k => let (b, t) := acc.2.deviceRead (sliceOf core) l.pid k r.1.2 (acc.2.reachDevice l.slice l.asid r.1.1)
              (acc.1 ++ b, t)
            | _ => acc) (([] : List Byte), s)
          .next (set s ((List.range 1024).map fun j => .ofNat 32 (leNat ((bs.drop (4 * j)).take 4))))
        | some r => match r.2 with
          | .ok k => .next (fail (s.metBy (sliceOf core) k r.1.2) 0x0A)
          | .bad c => .next (fail s c)
          | .down => .next (fail s 0x0C)
          | .full => .next s
          | .parked byte => match k.since with
            | none => .next (put s fun i => { i with since := some s.clock })
            | some t => if s.parkedOut byte t then .next (fail s 0x0B) else .next s
          | .pull p => .next (s.devicePull l.slice l.asid p core launch r.1.1 .load [1])
          | .absent kind => .next (s.joinFault l.slice l.asid (r.1.1 / 65536) kind .load launch (deviceWaiter core launch r.1.1 .load [1])).2
  | _, _ => .next s

/-! ### launch (R402 to R406) -/

/-- The fast path applies (R404). When the master refills a cluster's block of launch numbers is not said: whether one is left is
free. -/
def State.fastPath (s : State) (slice core : Nat) (r : LaunchRec) : Bool :=
  let a := s.bindA slice r.queue
  Config.blockLeft s.free && a.toNat.testBit 30 && a.toNat.testBit 31 && r.after == 0 && !r.spread
    && (s.bindCores slice r.queue).any fun c => clusterOf c == clusterOf core

/-- Admit a child's cohorts on the bind's cores of its parent's cluster while each fits, by the dispatcher's own counts (R404). -/
def State.admitFast (s : State) (n cluster : Nat) : Nat → State
  | 0 => s
  | fuel + 1 =>
    match s.launch? n with
    | none => s
    | some l =>
      match s.admitOne s.freeOf l (fun c => clusterOf c == cluster && (s.bindCores l.slice l.rcd.queue).contains c) with
      | some t => t.admitFast n cluster fuel
      | none => s

/-- Most cohorts that one cluster can hold at once (R183). -/
def clusterCohorts : Nat := 6 * 64

/-- Accept a child from its record (R403, R404), or keep it until its header can be read. -/
def State.childLaunch (s : State) (i : Issue) (n : Nat) (bs : List Byte) : State :=
  let p := i.launch
  let r := LaunchRec.ofBytes bs
  let fast := !reservedBad bs && !r.limitBad && s.fastPath p.slice i.ctx.core r
  let s := s.draw
  let (order, s) := s.fresh
  let launch (h : Header) : Launch := newLaunch n r p.slice p.asid p.pid (some p.num) order h fast 0
  let blank : Header := { code := 0, words := 0, map := 0 }
  match s.checkRecord p.slice p.asid n bs fast with
  | .refused reason s => s.refuse (launch blank) reason 0
  | .unread s => s.holdUnread (launch blank) 0
  | .sound h s =>
    let s := s.accept (launch h)
    if fast && s.mayAdmit (s.leader p.slice) then s.admitFast n (clusterOf i.ctx.core) clusterCohorts else s

/-- A child has been accepted or refused: the flags of a `launch` without DONE clear (R403). -/
def State.childTaken (s : State) (n : Nat) : State :=
  { s with ops := s.ops.filter fun o => match o.kind with
      | .child c done => c != n || done
      | _ => true }

/-! #### The record of a launch -/

/-- The bytes of a record as its context reads them through L1 (R403): those of its core's L1, else of the home through the slice's
banks (R94, R96), the line then filling L1 but for a page that it may not (R72). -/
def State.readRecord (s : State) (core : Nat) (l : Launch) (p : Piece) : List Byte × State :=
  let own (j : Nat) : Option Byte := s.l1Byte core (p.key + j) true
  if (List.range 128).all fun j => (own j).isSome then ((List.range 128).map fun j => (own j).getD 0, s)
  else
    let (bs, t) := s.deviceRead (sliceOf core) l.pid p.key 128 (p.mt == 2)
    let t := (t.metBy (sliceOf core) p.key 128).mergeFrom core [p.key]
    let t := if p.mt = 0 then t.l1Fill core (lineOf p.key) false ((List.range 128).map fun j => (j, bs.getD j 0)) else t
    ((List.range 128).map fun j => (own j).getD (bs.getD j 0), t)

/-- A sector of a record carries a poison mark, and its core's L1 does not hold it whole (R84). -/
def State.recordBad (s : State) (core : Nat) (p : Piece) : Bool :=
  (List.range 4).any fun q => s.poisoned (p.key + 32 * q) 32 (sliceOf core)
    && !((List.range 32).all fun j => (s.l1Byte core (p.key + 32 * q + j) true).isSome)

/-- The record's line cannot be read yet: its core's own write is on its way to it, the context is acquiring, a write of the line waits
for its holders (R102), or a crossing is gated (R14). -/
def State.recordHeld (s : State) (x : Ctx) (cs : List Nat) (p : Piece) : Bool :=
  s.writePending x.core [lineOf p.key] || s.acquiring x cs || s.atomicPending x cs [lineOf p.key]
    || s.homeWrites.any (fun w => w.sent && w.line == lineOf p.key) || s.gatedTo (sliceOf x.core) p.key

/-- A context finds the path to its record parked: it waits, for at most 40 ms (R319, R471). -/
def State.recordParked (s : State) (x : Ctx) (k : Phys) (pc : DWord) (va : Nat) : State :=
  match x.parkedAt with
  | none => s.modCtx x.id fun y => { y with parkedAt := some s.clock }
  | some t => if s.parkedOut k t then (s.modCtx x.id fun y => { y with parkedAt := none }).faultCtx x.id 0x0B pc (.ofNat 64 va) false else s

/-- R403. -/
def execLaunch (e : Ext) (s : State) : Host.Outcome State Fault Refusal :=
  let m : Meta := { e.info 1 (if e.modBit 0 then 2 else 1) 0 0 with long := true, once := true, whole := true }
  s.issueInstr m fun s i =>
    match i.first with
    | none => s.writeNothing i m
    | some t =>
      let f : MemForm := { e.atomForm (e.modBit 0) with space := 0 }
      let va := s.ea i f t
      let partialX := e.d.toNat < 128 && !i.full
      if i.ctx.kind == CtxKind.span && partialX then .cut
      else if va % 128 != 0 then .set (s.faultCtx i.ctx.id 0x03 i.pc (.ofNat 64 va) false)
      else
        let chk : Chk := if 2 ^ 48 ≤ va then .fault 0x05
          else match s.translate i.ctx.core i.launch.slice i.launch.asid 0 .load (s.lentTo (some i.ctx.id) none) [(va, 128)] with
            | .ok parts => s.checkLinks (sliceOf i.ctx.core) va false (fun _ => false) parts
            | c => c
        s.afterChecks i true .load [{ item := t, va := va, chk := chk }] fun ok =>
          match ok with
          | (_, p :: _) :: _ =>
            if s.recordHeld i.ctx (i.aff.map Item.c) p then .stall
            else if s.path (sliceOf i.ctx.core) p.key 128 == .parked then .set (s.recordParked i.ctx p.key i.pc va)
            else if s.recordBad i.ctx.core p then .set ((s.metBy (sliceOf i.ctx.core) p.key 128).faultCtx i.ctx.id 0x0A i.pc (.ofNat 64 va) false)
            else
              let j := { i with ctx := { i.ctx with parkedAt := none } }
              let (bs, s0) := (s.setCtx j.ctx).readRecord i.ctx.core i.launch p
              let (n, s) := s0.newNumber
              match s.writeOuts j m [{ dst := dstOf e.d, form := some (.u (.ofNat 32 n)), val := fun _ => .ofNat 32 n }] with
              | .advance u =>
                let (id, u) := u.fresh
                let done := e.modBit 1
                let o : Op :=
                  { id := id, issue := id, core := i.ctx.core, launch := i.ctx.launch, cohort := i.ctx.cohort, items := i.aff.map Item.c,
                    flag := i.place.flag, dst := [], kind := .child n done, va := .ofNat 64 va, pc := i.pc, back := none, fl := 0,
                    parkedAt := none, cross := [], nofill := [], ev := false }
                let u := ({ u with ops := u.ops ++ [o] } : State).childLaunch i n bs
                .advance (if u.launches.any fun l => l.num == n && l.unread then u else u.childTaken n)
              -- where the number finds no room nothing is performed (R159)
              | .set _ => .set (s0.noRoom j)
              | a => a
          | _ => .stall

/-- A launch whose header fails (R386, R405): one that waited for it is refused; a fast-path child is ended with STATUS 2. -/
def State.badHeader (s : State) (l : Launch) (reason : Nat) : State :=
  if l.unread then
    (({ s with launches := s.launches.filter fun k => k.num != l.num } : State).childTaken l.num).refuse { l with unread := false } reason l.slot
  else
    let s := s.noteRefusal l.slice reason 0 true l.rcd.tokenOk
    let at' := (s.ctxs.find? fun x => x.launch == l.num).map fun x => s.cycles x.core
    let s := s.setLaunch l.num fun k => { k with late := false, reason := reason, stopped := true, lastCycle := at'.getD 0 }
    { s with ctxs := s.ctxs.filter fun x => x.launch != l.num }

/-- A launch whose header is sound: one that waited for it is checked on and accepted (R386); a fast-path child's contexts go on from
their entry (R405). -/
def State.goodHeader (s : State) (l : Launch) (h : Header) : State :=
  if l.unread then
    let r := s.checkBind l.slice l.rcd
    if r != 0 then s.badHeader l r
    else
      let s := ({ s with launches := s.launches.filter fun k => k.num != l.num } : State).childTaken l.num
      let (n, s) := if l.device then (l.num, s) else s.newNumber
      let (order, s) := s.fresh
      s.accept { l with num := n, unread := false, slot := 0, hdrSince := none, order := order, code := h.code, words := h.words, map := h.map }
  else
    let pc : DWord := .ofNat 64 (h.code + 4 * l.rcd.entry)
    let s := s.setLaunch l.num fun k => { k with late := false, hdrSince := none, code := h.code, words := h.words, map := h.map }
    let go (t : Item) : Item :=
      { t with pc := pc, entry := { t.entry with pc := pc }, wait := match t.wait with
          | .late => .none
          | w => w }
    { s with ctxs := s.ctxs.map fun x => if x.launch == l.num then { x with items := x.items.map go } else x }

/-- R386, R405: the header of a launch is checked after the fact. Reason 0x04 covers every failure of its read, a path that stays parked
for 40 ms (R471) and a pull that fails (R453) among them. -/
def execFastPathLateCheck (launch : Nat) (s : State) : Host.Outcome State Fault Refusal :=
  match s.launch? launch with
  | none => .next s
  | some l =>
    if !(l.late || l.unread) || (l.unread && l.stopped) then .next s
    else if l.hdrFail then .next (s.badHeader l 4)
    else if s.deviceWaits 0 launch [4] then .next s
    else match s.kernelHeader l.slice l.asid launch l.rcd.kobj l.rcd.entry with
      | .got (some h) t => .next (t.goodHeader l h)
      | .got none t => .next (t.badHeader l 4)
      | .wait t => .next t
      | .park k t => match l.hdrSince with
        | none => .next (t.setLaunch launch fun k => { k with hdrSince := some s.clock })
        | some n => .next (if s.parkedOut k n then t.badHeader l 4 else t)

/-- R406: the items that have waited for a child without a cohort, and since when. -/
def State.childWaiters (s : State) (child : Nat) : List (Nat × Item) :=
  s.ops.flatMap fun o => match o.kind, o.flag with
    | .child n true, some f => if n != child then [] else
        s.ctxs.flatMap fun x => if !o.serves x then [] else
          (x.items.filter fun i => match i.wait with
            | .flags mask => mask.toNat.testBit f
            | _ => false).map fun i => (x.id, i)
    | _, _ => []

/-- R406: the watchdog of a child that has had no cohort admitted. -/
def execLaunchDoneWatchdog (child : Nat) (s : State) : Host.Outcome State Fault Refusal :=
  match s.launch? child with
  | none => .next s
  | some l =>
    if l.nextCohort != 0 then .next s
    else
      match argMin (fun w => w.2.since) (s.childWaiters child), l.parent.bind s.launch? with
      | some w, some p =>
        let lim := s.fieldClocks (fieldOf ((s.ctx? w.1).map Ctx.core |>.getD 0)) (2 ^ p.rcd.barLog)
        let s : State := { s with clock := max s.clock (w.2.since + lim) }
        let all := (s.childWaiters child).filter fun v => v.1 == w.1 && v.2.pc == w.2.pc && decide (v.2.since + lim ≤ s.clock)
        let s := s.faultSome w.1 0x09 (all.map fun v => v.2.c) w.2.pc (.ofNat 64 child) false
        .next (s.cancel child)
      | _, _ => .next s

/-! ### Carrel table registers (R393, R394) -/

/-- R394: a host write of CTB_REQnB raises a request event. -/
def execCtbRequestWrite (slice queue : Nat) (val : Word) (s : State) : Host.Outcome State Fault Refusal :=
  if !s.serves slice || 32 ≤ queue then .next s
  else
    let s := s.setVreg slice (0xD04 + 8 * queue) (setField val 13 3 0)
    .next (s.setSlice slice fun v => { v with ctbReqs := v.ctbReqs ++ [queue] })

/-- R393: the Curator writes half of a bind record; its second half answers the oldest request for it. -/
def execCtbBindWrite (slice queue : Nat) (second : Bool) (val : Word) (s : State) : Host.Outcome State Fault Refusal :=
  if !s.serves slice || 32 ≤ queue then .next s
  else if second then
    let s := s.setVreg slice (0xC04 + 8 * queue) (setField val 13 3 0)
    .next (s.setSlice slice fun v => { v with ctbReqs := v.ctbReqs.erase queue })
  else .next (s.setVreg slice (0xC00 + 8 * queue) val)

/-- R394: the shipped Curator firmware writes its default for every queue. -/
def execCuratorDefaultBind (slice : Nat) (s : State) : Host.Outcome State Fault Refusal :=
  if s.leader slice != slice || !(s.slice slice).bindDue then .next s
  else
    let n := (s.members slice).length
    let b : Word := .ofNat 32 ((2 ^ n - 1) * 2 ^ 16 + 7 * 2 ^ 10)
    let s := (List.range 32).foldl (fun t q => (t.setVreg slice (0xC00 + 8 * q) (-1)).setVreg slice (0xC04 + 8 * q) b) s
    .next (s.setSlice slice fun v => { v with bindDue := false })

end Sys2Proof.Machine
end

