-- ==== Sys2Proof/Machine/Shelves.lean ====
section
/-! DEFINITION. The copy engine, shadow windows and the granules of the shelves (05). -/

namespace Sys2Proof.Machine

/-! ### Granules (R113, R114) -/

/-- A copy or drain is accepted with the granule as a destination (R113). -/
def State.fillGran (s : State) (g : Nat × Nat × Nat) : State :=
  s.setGran g.1 g.2.1 g.2.2 fun q => { q with state := .filling, count := if q.state == GranState.filling then q.count + 1 else 1 }

/-- A granule that a `grel` waits for is EMPTY as soon as it is neither filling nor held (R113, R114). -/
def Gran.relax (q : Gran) : Gran :=
  if q.rel && q.state != GranState.filling && q.holds == 0 then { q with state := .empty, rel := false } else q

/-- A copy or drain that fills the granule ends (R113); copies that waited for it to be RESIDENT wait no more. Where a pending `grel`
turns the granule EMPTY at count 0, the spec does not say what the accesses that waited for RESIDENT do: here a load finds it EMPTY
and faults, a store is performed, and a copy's reads go on (DESIGN CHOICE, log entry 92). -/
def State.fillEnd (s : State) (g : Nat × Nat × Nat) : State :=
  let q := s.gran g.1 g.2.1 g.2.2
  if q.state != GranState.filling then s
  else if 1 < q.count then s.setGran g.1 g.2.1 g.2.2 fun q => { q with count := q.count - 1 }
  else
    let s := s.setGran g.1 g.2.1 g.2.2 fun q => ({ q with state := .resident, count := 0 } : Gran).relax
    { s with copies := s.copies.map fun c => { c with src := c.src.filter (· != g) } }

/-- A hold begins (R114). -/
def State.holdGran (s : State) (g : Nat × Nat × Nat) : State :=
  s.setGran g.1 g.2.1 g.2.2 fun q => { q with holds := q.holds + 1 }

/-- A hold ends (R114). -/
def State.unholdGran (s : State) (g : Nat × Nat × Nat) : State :=
  s.setGran g.1 g.2.1 g.2.2 fun q => ({ q with holds := q.holds - 1 } : Gran).relax

/-- The physical granules of a shelf extent (R109). -/
def State.gransOf (s : State) (from_ launch cohort : Nat) (r : LaunchRec) (space addr n : Nat) : List (Nat × Nat × Nat) :=
  let first := addr / 4096
  let last := (addr + n - 1) / 4096
  (List.range (last + 1 - first)).filterMap fun j =>
    (s.shelfOf from_ launch cohort r space ((first + j) * 4096) 1).map fun a => (a.core, a.space, a.off / 4096)

/-! ### Descriptors (R117 to R120) -/

/-- What a descriptor says (R117 to R119). -/
structure Desc5 where
  form : Nat
  dst : Nat
  src : Nat
  ctl : Nat
  len : Nat
  tok : Nat
  rows : Nat
  planes : Nat
  dstr : Nat
  sstr : Nat
  dps : Nat
  sps : Nat
  idx : List Nat
  deriving DecidableEq, Repr

/-- Words of each form (R119). -/
def copyWords (form : Nat) : Nat := if form = 0 then 8 else if form = 2 then 16 else 12

/-- Read a descriptor (R117, R119). -/
def readDesc (form : Nat) (ws : List Word) (idx : List Nat) : Desc5 :=
  let w (j : Nat) : Nat := (ws.getD j 0).toNat
  { form := form, dst := w 0 + w 1 * 2 ^ 32, src := w 2 + w 3 * 2 ^ 32, ctl := w 4, len := w 5, tok := w 6 + w 7 * 2 ^ 32,
    rows := if form = 0 then 1 else if form = 3 then idx.length else w 8, planes := if form = 2 then w 11 else 1,
    dstr := if form = 0 then 0 else if form = 3 then w 8 else w 9,
    sstr := if form = 0 then 0 else if form = 3 then w 9 else w 10,
    dps := if form = 2 then w 12 else 0, sps := if form = 2 then w 13 else 0, idx := idx }

/-- Fields of CTL (R118). -/
def Desc5.scope (d : Desc5) : Nat := match d.ctl / 2 ^ 30 % 4 with
  | 0 => 0
  | 1 => 3
  | 2 => 5
  | _ => 6
def Desc5.shadow (d : Desc5) : Bool := d.ctl.testBit 29
def Desc5.zero (d : Desc5) : Bool := d.ctl.testBit 28
def Desc5.mcast (d : Desc5) : Nat := d.ctl / 2 ^ 22 % 64
def Desc5.dspc (d : Desc5) : Nat := d.ctl / 2 ^ 6 % 4
def Desc5.sspc (d : Desc5) : Nat := d.ctl / 2 ^ 4 % 4

/-- The destination and source of each row in traversal order (R120). -/
def Desc5.rowList (d : Desc5) : List (Nat × Nat) :=
  (List.range d.planes).flatMap fun p => (List.range d.rows).map fun r =>
    (d.dst + p * d.dps + r * d.dstr,
     if d.form = 3 then d.src + d.idx.getD r 0 * d.sstr else d.src + p * d.sps + r * d.sstr)

/-- One past the last byte of the destination. -/
def Desc5.dstEnd (d : Desc5) : Nat := d.dst + (d.planes - 1) * d.dps + (d.rows - 1) * d.dstr + d.len
/-- One past the last byte of the source. -/
def Desc5.srcEnd (d : Desc5) : Nat :=
  if d.form = 3 then d.src + d.idx.foldl max 0 * d.sstr + d.len
  else d.src + (d.planes - 1) * d.sps + (d.rows - 1) * d.sstr + d.len

/-- A destination sector that a copy writes: where its bytes begin, and the source of each 16 of them (R122). -/
structure Chunk where
  dst : Nat
  srcs : List Nat
  deriving DecidableEq, Repr

/-- The bytes of a destination sector. -/
def Chunk.len (k : Chunk) : Nat := 16 * k.srcs.length

/-- 16 bytes more, before those of some sectors: in the first of them, or in a sector of their own. -/
def addUnit (u : Nat × Nat) (l : List Chunk) : List Chunk :=
  match l with
  | k :: rest => if k.dst / 32 == u.1 / 32 then { dst := u.1, srcs := u.2 :: k.srcs } :: rest else { dst := u.1, srcs := [u.2] } :: k :: rest
  | [] => [{ dst := u.1, srcs := [u.2] }]

/-- The destination sectors of a copy in traversal order, each once, whatever rows have a part in it (R120, R122). -/
def Desc5.chunks (d : Desc5) : List Chunk :=
  (d.rowList.flatMap fun r => (List.range (d.len / 16)).map fun j => (r.1 + 16 * j, r.2 + 16 * j)).foldr addUnit []

/-! ### Issue (R116, R121, R133 to R135) -/

/-- A limit of R119 is broken. -/
def Desc5.limitBad (d : Desc5) : Bool :=
  decide (d.len < 16) || decide ((if d.form = 0 then 2 ^ 30 else 2 ^ 21) < d.len)
    || (d.form != 0 && (d.rows == 0 || decide (65536 < d.rows) || (decide (1 < d.rows) && decide (d.dstr < d.len))))
    || (d.form == 2 && (d.planes == 0 || decide (65536 < d.planes)
        || (decide (1 < d.planes) && decide (d.dps < (d.rows - 1) * d.dstr + d.len))))

/-- Words that must be zero (R118, R119, R121). -/
def zeroBad (form : Nat) (ws : List Word) : Bool :=
  let w (j : Nat) : Nat := (ws.getD j 0).toNat
  let tail := if form = 1 then [11] else if form = 2 then [14, 15] else if form = 3 then [10, 11] else []
  w 4 % 16 != 0 || w 4 / 2 ^ 8 % 2 ^ 14 != 0 || tail.any (fun j => w j != 0)
    || (w 4 / 2 ^ 6 % 4 != 0 && w 1 != 0) || (w 4 / 2 ^ 4 % 4 != 0 && w 3 != 0)

/-- The cores a shelf destination is written in, by the CORE field (R118). -/
def Desc5.targets (d : Desc5) : List Nat :=
  d.dst / 2 ^ 24 % 8 :: ((List.range 6).filter fun j => d.mcast.testBit j).map (· + 1)

/-- A shelf address with another CORE field. -/
def withCore (addr f : Nat) : Nat := addr - addr / 2 ^ 24 % 8 * 2 ^ 24 + f * 2 ^ 24

/-- The check of R121: the cause of the first failure. -/
def State.checkCopy (s : State) (x : Ctx) (l : Launch) (ws : List Word) (d : Desc5) : Option Nat :=
  let of (space addr n : Nat) : Bool := (s.shelfOf x.core x.launch x.cohort l.rcd space addr n).isSome
  let gsrc := d.sspc == 0 && !d.zero
  let window := (List.range 16).any fun n =>
    s.window? l.slice l.asid (d.dst / 65536) == some n && s.window? l.slice l.asid ((d.dstEnd - 1) / 65536) == some n
  if zeroBad d.form ws then some 0x05
  else if d.limitBad then some 0x05
  else if d.zero && (d.sspc != 0 || d.src != 0) then some 0x05
  else if [d.dst, d.src, d.len, d.dstr, d.sstr, d.dps, d.sps].any (fun v => v % 16 != 0) then some 0x03
  else if d.tok % 16 != 0 then some 0x03
  else if decide (2 ^ 48 ≤ d.tok) || (d.dspc == 0 && decide (2 ^ 48 < d.dstEnd)) || (gsrc && (decide (2 ^ 48 ≤ d.src) || (d.form != 3 && decide (2 ^ 48 < d.srcEnd)))) then some 0x05
  else if d.form == 3 && decide (2 ^ 48 < d.srcEnd) then some 0x05
  else if (d.dspc != 0 && !of d.dspc d.dst (d.dstEnd - d.dst)) || (d.sspc != 0 && !of d.sspc d.src (d.srcEnd - d.src)) then some 0x05
  else if d.mcast != 0 && (d.dspc == 0 || d.dst / 2 ^ 24 % 8 != 0
      || d.targets.any fun f => !of d.dspc (withCore d.dst f) 1) then some 0x05
  else if d.shadow && (d.dspc != 0 || !window) then some 0x05
  else if d.dspc == 3 || d.sspc == 1 then some 0x07
  else if d.sspc != 0 && d.rowList.any fun r => (s.gransOf x.core x.launch x.cohort l.rcd d.sspc r.2 d.len).any fun g =>
      (s.gran g.1 g.2.1 g.2.2).state == GranState.empty then some 0x07
  else none

/-- Granules some rows touch, each once. -/
def uniq {α : Type} [BEq α] (l : List α) : List α := l.foldl (fun acc g => if acc.contains g then acc else acc ++ [g]) []

/-- The destination granules of a copy (R113, R118). -/
def State.dstGrans (s : State) (core launch cohort : Nat) (r : LaunchRec) (d : Desc5) : List (Nat × Nat × Nat) :=
  if d.dspc = 0 then []
  else uniq (d.targets.flatMap fun f => d.rowList.flatMap fun q => s.gransOf core launch cohort r d.dspc (withCore q.1 f) d.len)

/-- The source granules of a copy that are FILLING (R113). -/
def State.srcGrans (s : State) (core launch cohort : Nat) (r : LaunchRec) (d : Desc5) : List (Nat × Nat × Nat) :=
  if d.sspc = 0 then []
  else (uniq (d.rowList.flatMap fun q => s.gransOf core launch cohort r d.sspc q.2 d.len)).filter fun g =>
    (s.gran g.1 g.2.1 g.2.2).state == GranState.filling

/-- Ask a cluster's arbiter for current (R480): 64 core clocks for a vector burst, at most 512 for another macro-op (R481). -/
def State.askCurrent (s : State) (core kind owner prio : Nat) : State :=
  let amps := Config.current s.free
  let dur := if kind = 2 then 64 else Config.duration s.free % 513
  { s.draw with curReqs := s.curReqs ++ [{ core := core, kind := kind, owner := owner, prio := prio, since := s.fieldClock (fieldOf core),
                                           amps := amps, granted := false, dur := dur }] }

/-- An engine's request has been granted (R480). -/
def State.granted (s : State) (kind owner : Nat) : Bool := s.curReqs.any fun q => q.kind == kind && q.owner == owner && q.granted

/-- A grant is released, or a request withdrawn (R480). -/
def State.endCurrent (s : State) (kind owner : Nat) : State :=
  { s with curReqs := s.curReqs.filter fun q => !(q.kind == kind && q.owner == owner) }

/-- Accept a copy (R116): its sequence number. -/
def State.acceptCopy (s : State) (i : Issue) (ws : List Word) (d : Desc5) : Nat × State :=
  let core := i.ctx.core
  let seq := let n := ((s.coreSt core).copySeq + 1) % 2 ^ 32
    if n = 0 then 1 else n
  let s := s.setCore core fun c => { c with copySeq := seq }
  let (id, s) := s.fresh
  let (opid, s) := s.fresh
  let r := i.launch.rcd
  let grans := s.dstGrans core i.ctx.launch i.ctx.cohort r d
  let src := s.srcGrans core i.ctx.launch i.ctx.cohort r d
  let win := if d.shadow then s.window? i.launch.slice i.launch.asid (d.dst / 65536) else none
  let pub := win.bind fun n => ((s.publs.filter fun p => p.slice == s.leader i.launch.slice && p.win == n).map Publ.id).getLast?
  let c : Copy :=
    { id := id, core := core, slice := i.launch.slice, launch := i.ctx.launch, cohort := i.ctx.cohort, asid := i.launch.asid,
      pid := i.launch.pid, seq := seq, form := d.form, desc := ws, idx := d.idx.map fun n => .ofNat 32 n, items := i.aff.map Item.c,
      dst := grans, win := win, held := pub, fault := none, force := none, pos := 0, src := src, cycle := none, mark := s.nextId,
      noTok := false, tokSince := none, issuer := core }
  let o : Op :=
    { id := opid, issue := opid, core := core, launch := i.ctx.launch, cohort := i.ctx.cohort, items := i.aff.map Item.c,
      flag := i.place.flag, dst := [], kind := .copy id, va := 0, pc := i.pc, back := none, fl := 0,
      parkedAt := none, cross := [], nofill := [], ev := false }
  let s : State := { s with copies := s.copies ++ [c], ops := s.ops ++ [o] }
  let s := grans.foldl (fun t g => t.fillGran g) s
  let s := s.askCurrent core 1 id (s.effective i.launch)
  (seq, s.modCtx i.ctx.id fun x => { x with staged := x.staged + 1 })

/-- R134. -/
def State.copyInstr (s : State) (e : Ext) (form : Nat) : Host.Outcome State Fault Refusal :=
  let n := copyWords form
  let m := { e.info 1 n (if form = 3 then 1 else 0) 0 with long := true, once := true, whole := true }
  s.issueInstr m fun s i =>
    let ws : List Word := (List.range n).map fun j => i.uni (i.ctx.qForm (e.a.toNat - 128 + j))
    let fi := s.src32 i.ctx i.launch.rcd (e.src e.b)
    let idx := if form = 3 then i.aff.map fun t => (fi.at i.launch.rcd i.ctx.cohort t.c).toNat else []
    let d := readDesc form ws idx
    let out (seq : Nat) : Out := { dst := dstOf e.d, form := some (.u (.ofNat 32 seq)), val := fun _ => .ofNat 32 seq }
    if i.parts (dstOf e.d) then .cut
    else match s.checkCopy i.ctx i.launch ws d with
      | some cause => .set (s.faultCtx i.ctx.id cause i.pc 0 false)
      | none =>
        if 64 ≤ (s.copies.filter fun c => c.core == i.ctx.core).length then .stall
        else
          let (seq, t) := s.acceptCopy i ws d
          match s.writeOuts i m [out seq] with
          | .advance _ =>
            -- acceptance changes no register, so the results are written after it
            t.writeOuts { i with ctx := (t.ctx? i.ctx.id).getD i.ctx } m [out seq]
          | a => a

/-- R134, the linear form. -/
def execCpy (e : Ext) (s : State) : Host.Outcome State Fault Refusal := s.copyInstr e 0
/-- R134, two dimensions. -/
def execCpy2 (e : Ext) (s : State) : Host.Outcome State Fault Refusal := s.copyInstr e 1
/-- R134, three dimensions. -/
def execCpy3 (e : Ext) (s : State) : Host.Outcome State Fault Refusal := s.copyInstr e 2
/-- R134, a gather. -/
def execCpyg (e : Ext) (s : State) : Host.Outcome State Fault Refusal := s.copyInstr e 3

/-! ### The engine (R120 to R128) -/

/-- Why a copy's traversal stops before a sector. -/
inductive Halt where
  | walk (va : Nat) (a : Access)
  | pull (page va : Nat) (a : Access)
  | parked
  | wait
  | status (n : Nat)
  deriving DecidableEq, Repr

/-- A sector of a copy ready to be written: its bytes, whether they carry a mark, and where they go: physical keys, which may be of a
device page (R72), or shelf bytes. -/
structure Ready where
  bytes : List Byte
  bad : Bool
  keys : List Phys
  shelf : List ShelfAt
  device : Bool := false
  deriving DecidableEq, Repr

/-- A copy's descriptor. -/
def Copy.desc5 (c : Copy) : Desc5 := readDesc c.form c.desc (c.idx.map BitVec.toNat)

/-- How the path to a byte answers a copy (R14, R126, R462 to R464, R471). -/
def State.farHalt (s : State) (slice va : Nat) (a : Access) (k : Phys) (link : LinkResult) : Option Halt :=
  if k.isLocal then (if s.path slice k 32 == .up then none else some .wait)
  else match link with
    | .down => some (.status 5)
    | .refused => if k.isPeer then some (.status 4) else none
    | .parked => some (.status 6)
    | _ => match s.path slice k 32 with
      | .up => none
      | .parked => some .parked
      | .full => some .wait
      | .down => some (.status 5)
      | .refused => some (.status 4)
      | .poisoned => some (.status 4)
      | .pull p => some (.pull p va a)

/-- Where 16 bytes of a copy lie, and whether on a device page (R72), or why it stops there (R124, R126). -/
def State.copyAddr (s : State) (c : Copy) (va : Nat) (a : Access) (shadow : Bool) (link : LinkResult) : Except Halt (Phys × Bool) :=
  match s.look c.core c.slice c.asid va a shadow (s.lentTo none (some c.id)) with
  | .miss => .error (.walk va a)
  | .pull p => .error (.pull p va a)
  | .bad _ => .error (.status 4)
  | .ok k leaf => match s.farHalt (sliceOf c.core) va a k link with
    | some h => .error h
    | none => .ok (k, leaf.mt == 2)

/-- A source granule that the copy must wait for: FILLING since acceptance by more than itself (R113, R123). A copy that fills its own
source granule does not wait for that fill, which would never end (DESIGN CHOICE, log entry 106). -/
def State.srcWaits (s : State) (c : Copy) (g : Nat × Nat × Nat) : Bool :=
  c.src.contains g && decide ((if c.dst.contains g then 1 else 0) < (s.gran g.1 g.2.1 g.2.2).count)

/-- The granule of a shelf byte. -/
def ShelfAt.gran (a : ShelfAt) : Nat × Nat × Nat := (a.core, a.space, a.off / 4096)

/-- A line of a copy's source may be read at its home now: its core's and its items' earlier writes to it have been performed (R124),
none of its field is still on its way there (R351), and no write of it waits for its holders (R102). -/
def State.srcSettled (s : State) (c : Copy) (line : Nat) : Bool :=
  !s.writePending c.core [line]
    && !(s.asu.any fun r => !r.waiting && r.core == c.core && r.launch == c.launch && r.cohort == c.cohort
          && r.items.any c.items.contains && decide (r.id < c.mark) && lineOf r.key == line)
    && !(s.homeWrites.any fun w => w.sent && w.line == line)
    && !(lineLocal line && homeField (line * 128) != fieldOf c.core && s.crossBehind (fieldOf c.core) line 0 s.nextId)

/-- A byte of a copy's source through its core's L1 (R124): what L1 holds, or what the banks and the home hold. A peer's byte comes
with the link's answer, or from the copy of its line that the slice's banks hold; none where neither has it. -/
def State.srcByte (s : State) (c : Copy) (k : Phys) (sent : Option Byte) : Option Byte :=
  match s.l1Byte c.core k true with
  | some b => some b
  | none =>
    if k.isPeer then sent <|> (s.l2Line? (sliceOf c.core) (lineOf k)).map fun l => l.bytes.getD (k % 128) 0
    else some (s.homeByte (sliceOf c.core) k)

/-- 16 bytes of a copy's source and whether their sector carries a mark (R84, R124, R127). `at'` counts the bytes that a peer sent
before them. -/
def State.copySrc (s : State) (c : Copy) (r : LaunchRec) (d : Desc5) (src : Nat) (link : LinkResult) (at' : Nat) :
    Except Halt (List Byte × Bool) :=
  if d.zero then .ok (List.replicate 16 0, false)
  else if d.sspc != 0 then
    match s.shelfOf c.core c.launch c.cohort r d.sspc src 16 with
    | none => .error (.status 4)
    | some a => if s.srcWaits c a.gran then .error .wait else .ok (s.shelfRead a 16, s.shelfBad a 16)
  else match s.copyAddr c src .copyRead false link with
    | .error h => .error h
    | .ok (k, _) =>
      if !s.srcSettled c (lineOf k) then .error .wait
      else
        let (sent, marks) : List Byte × List Nat := match link with
          | .peer bs marks => (bs.drop at', marks)
          | _ => ([], [])
        match (List.range 16).mapM fun j => s.srcByte c (k + j) sent[j]? with
        | none => .error .wait
        | some bs =>
          -- a sector that the core's own stores have written whole carries no mark (R84)
          let own := (List.range 32).all fun j => (s.l1Byte c.core (k / 32 * 32 + j) true).isSome
          .ok (bs, !own && (s.poisoned k 16 (sliceOf c.core) || (k.isPeer && marks.contains (at' / 32))))

/-- Where a piece of a copy is written (R114, R118, R131). -/
def State.copyDst (s : State) (c : Copy) (r : LaunchRec) (d : Desc5) (dst n : Nat) (link : LinkResult) :
    Except Halt (List Phys × List ShelfAt × Bool) :=
  if d.dspc = 0 then
    match s.copyAddr c dst .copyWrite d.shadow link with
    | .error h => .error h
    | .ok (k, device) => .ok ((List.range n).map fun j => k + j, [], device)
  else
    let as := d.targets.filterMap fun f => s.shelfOf c.core c.launch c.cohort r d.dspc (withCore dst f) n
    if as.any fun a => decide (0 < (s.granAt a).holds) then .error .wait else .ok ([], uniq as, false)

/-- A sector of a copy made ready, or why the copy stops before it. -/
def State.readyChunk (s : State) (c : Copy) (r : LaunchRec) (d : Desc5) (link : LinkResult) (at' : Nat) (k : Chunk) :
    Except Halt Ready :=
  match k.srcs.zipIdx.mapM fun p => s.copySrc c r d p.1 link (at' + 16 * p.2) with
  | .error h => .error h
  | .ok parts =>
    match s.copyDst c r d k.dst k.len link with
    | .error h => .error h
    | .ok w => .ok { bytes := parts.flatMap Prod.fst, bad := parts.any Prod.snd, keys := w.1, shelf := w.2.1, device := w.2.2 }

/-- Make the sectors of a burst ready until one stops it. `at'` counts source bytes. -/
def State.readyList (s : State) (c : Copy) (r : LaunchRec) (d : Desc5) (link : LinkResult) :
    Nat → List Chunk → List Ready × Option Halt
  | _, [] => ([], none)
  | at', k :: rest =>
    match s.readyChunk c r d link at' k with
    | .ok q =>
      let (more, h) := State.readyList s c r d link (at' + k.len) rest
      (q :: more, h)
    | .error h => ([], some h)

/-- The reads of a burst's global sources at L2, which fill and refresh the banks but for device pages (R72), and handle the errors they
meet (R83, R94, R96); what answers from other fields carry is merged (R351). -/
def State.readSources (s : State) (c : Copy) (d : Desc5) (link : LinkResult) (ks : List Chunk) : State :=
  if d.zero || d.sspc != 0 then s
  else
    let keys := ks.flatMap fun k => k.srcs.filterMap fun v => match s.copyAddr c v .copyRead false link with
      | .ok p => if s.srcSettled c (lineOf p.1) then some p else none
      | .error _ => none
    let far (n : Nat) : Bool := keys.any fun k => lineOf k.1 == n && !((List.range 16).all fun j => (s.l1Byte c.core (k.1 + j) true).isSome)
    let lines := (linesOf (keys.map fun k => (k.1, 0))).filter far
    let device (n : Nat) : Bool := keys.any fun k => lineOf k.1 == n && k.2
    let s := lines.foldl (fun t n => t.readL2 (sliceOf c.core) c.pid (n * 128) (device n)) s
    s.mergeFrom c.core (lines.map (· * 128))

/-- The lines that a peer sent for the sources of a burst fill the slice's banks but for device pages (R72, R94); what it sent of a line
beyond the bytes of the copy is not known. -/
def State.fillSources (s : State) (c : Copy) (d : Desc5) (link : LinkResult) (ks : List Chunk) : State :=
  match link with
  | .peer sent _ =>
    let keys := ((ks.flatMap Chunk.srcs).zipIdx).filterMap fun v => match s.copyAddr c v.1 .copyRead false link with
      | .ok (k, false) => if k.isPeer then some (k, (sent.drop (16 * v.2)).take 16) else none
      | _ => none
    let bytes := keys.flatMap fun k => k.2.zipIdx.map fun b => (k.1 + b.2, b.1)
    (linesOf bytes).foldl (fun t n =>
      if (t.l2Line? (sliceOf c.core) n).isSome then t
      else
        let line := (List.range 128).map fun j => lookupD bytes (n * 128 + j) (Config.peerByte t.free (n * 128 + j))
        t.draw.touchL2 (sliceOf c.core) c.pid n false line false) s
  | _ => if d.zero then s else s

/-- Write the sectors of a burst (R88, R112, R122, R124, R127), with their marks (R84); a mark that leaves the package at once, to a peer
or a device page of the host, is the link's poison indication. -/
def State.writeReady (s : State) (c : Copy) (rs : List Ready) : State :=
  let write (t : State) (qs : List Ready) (device : Bool) : State :=
    let cells := qs.flatMap fun q => q.keys.zip q.bytes
    let marks := uniq ((qs.filter Ready.bad).flatMap fun q => q.keys.map sectorOf)
    if cells.isEmpty then t else t.deviceWrite (sliceOf c.core) c.pid cells (some (fieldOf c.core)) device marks
  let s := write (write s (rs.filter fun q => !q.device) false) (rs.filter Ready.device) true
  let lines := linesOf (rs.flatMap fun q => q.keys.zip q.bytes)
  let sent := rs.any fun q => q.bad && q.keys.any fun k => Phys.isPeer k || (q.device && Phys.isHost k)
  let s : State := { s with l1 := s.l1.filter (fun l => !(l.core == c.core && lines.contains l.line)),
                            resp := if sent then some .poison else s.resp }
  rs.foldl (fun t q => q.shelf.foldl (fun u a =>
    let u : State := { u with shelf := u.shelf.writeList a.key q.bytes }
    if q.bad || q.bytes.length == 32 then u.shelfMark (a.key / 32) q.bad else u) t) s

/-- What must happen before a burst's global bytes are written: the core's own dirty bytes of those lines leave first,
peers' copies are invalidated (R102), and stamps are taken (R351); none when the burst must wait for it. -/
inductive Prep where
  | go (s : State)
  | wait (s : State)

def State.prepare (s : State) (c : Copy) (keys : List Phys) : Prep :=
  let lines := linesOf (keys.map fun k => (k, 0))
  let dirty := lines.filter fun n => (s.l1Line? c.core n).any fun l => !l.dirty.isEmpty
  if !dirty.isEmpty then .wait (dirty.foldl (fun t n => t.writeBack c.core n true) s)
  else if s.writePending c.core lines then .wait s
  else match s.clearHolders (sliceOf c.core) lines with
    | some t => .wait t
    | none => match s.crossNow (fieldOf c.core) keys with
      | some t => .go t
      | none => .wait s

/-- Change a copy. -/
def State.setCopy (s : State) (id : Nat) (f : Copy → Copy) : State := { s with copies := updWhere (fun c => c.id == id) f s.copies }

/-- The accesses a copy releases have been performed (R349, R358): the stores that its core held dirty at its acceptance have left and are
acknowledged, and its items' earlier loads and atomics have returned. -/
def State.copyReleased (s : State) (c : Copy) (d : Desc5) : Bool :=
  !(d.scope != 0 && s.l1.any fun l => l.core == c.core && !l.dirty.isEmpty && decide (l.order < c.mark))
    && !(s.ops.any fun o => match o.kind with
      | .ack h => o.core == c.core && decide (o.born < c.mark) && scopeHomes d.scope (fieldOf c.core) h
      | .load _ _ _ _ _ => o.launch == c.launch && o.cohort == c.cohort && o.items.any c.items.contains && decide (o.id < c.mark)
      | .atomic _ _ _ _ => o.launch == c.launch && o.cohort == c.cohort && o.items.any c.items.contains && decide (o.id < c.mark)
      | _ => false)

/-- The shelf bytes of the sectors that a copy has not written. -/
def State.restOf (s : State) (c : Copy) (r : LaunchRec) (d : Desc5) : List ShelfAt :=
  if d.dspc = 0 then []
  else (d.chunks.drop c.pos).flatMap fun q => d.targets.filterMap fun f => s.shelfOf c.core c.launch c.cohort r d.dspc (withCore q.dst f) q.len

/-- A failed copy cannot mark the rest of its shelf destinations yet: a running task holds one of their granules (R114). -/
def State.restHeld (s : State) (c : Copy) (r : LaunchRec) (d : Desc5) : Bool :=
  (s.restOf c r d).any fun a => decide (0 < (s.granAt a).holds)

/-- The sectors a failed copy has not written carry marks in its shelf destinations (R126). -/
def State.markRest (s : State) (c : Copy) (r : LaunchRec) (d : Desc5) : State :=
  ((s.restOf c r d).foldl (fun u a => u.shelfMark (a.key / 32) true) s).setCopy c.id fun k => { k with marked := true }

/-- A copy is complete (R125): fill counts go down, the flag clears, and its status is kept (R139). -/
def State.endCopy (s : State) (c : Copy) (status : Nat) : State :=
  let s : State := { s with copies := s.copies.filter (fun k => k.id != c.id), ops := s.ops.filter fun o => o.kind != .copy c.id }
  let s := c.dst.foldl (fun t g => t.fillEnd g) s
  let s := s.endCurrent 1 c.id
  let done : DoneCopy := { core := c.core, seq := c.seq, status := status, saved := c.resumed }
  let mine := (done :: s.doneCopies.filter fun q => q.core == c.core).take 64
  { s with doneCopies := mine ++ s.doneCopies.filter fun q => q.core != c.core }

/-- The token of a copy (R126). -/
def Copy.token (c : Copy) (status cycle : Nat) : List Byte :=
  leBytes 4 c.seq ++ leBytes 2 status ++ leBytes 2 c.issuer ++ leBytes 8 cycle

/-- End a copy whose status is decided (R125 to R127, R502). The marks of a failed copy wait for the holds of tasks (R114); then its
granules are filled, and its token is written. The CYCLE of a copy that performed no sector is free. -/
def State.finishCopy (s : State) (c : Copy) (r : LaunchRec) (status : Nat) : State :=
  let d := c.desc5
  let fails := status != 1 && status != 2 && !c.marked
  let s := s.setCopy c.id fun k => { k with force := some status }
  if fails && s.restHeld c r d then s
  else
    let s := if fails then s.markRest c r d else s
    if d.tok = 0 then s.endCopy c status
    else
      -- the fill counts fall with the last sector, before the token (R113, R125)
      let s := (c.dst.foldl (fun t g => t.fillEnd g) s).setCopy c.id fun k => { k with dst := [] }
      let c := { c with dst := [] }
      let cycle := c.cycle.getD (Config.copyCycle c.id).toNat
      let park (t : State) : State := t.setCopy c.id fun k => { k with tokSince := some t.clock }
      match s.writeToken (sliceOf c.core) c.asid c.pid c.core c.launch d.tok .copyWrite [3, c.id] c.noTok c.tokSince park (c.token status cycle) with
      | .wait t => t
      | .done t => t.endCopy c status

/-- Note since when a copy's path is parked, for R471. -/
def State.parkCopy (s : State) (c : Copy) : State :=
  { s with ops := updWhere (fun o => o.kind == .copy c.id && o.parkedAt.isNone) (fun o => { o with parkedAt := some s.clock }) s.ops }

/-- A copy as it waits for a translation or a page fault. -/
def Copy.waiter (c : Copy) (va : Nat) (a : Access) : Waiter :=
  { ctx := none, copy := some c.id, items := [], whole := true, core := c.core, launch := c.launch, cohort := c.cohort, access := a,
    va := .ofNat 64 va, pc := 0 }

/-- A copy stops before a sector. -/
def State.haltCopy (s : State) (c : Copy) (r : LaunchRec) (h : Halt) : State :=
  match h with
  | .walk va a =>
    let w := c.waiter va a
    if s.walks.any fun k => k.asid == c.asid && k.page == va / 65536 && k.waiters.any fun v => v.copy == some c.id then s
    else (s.joinWalk c.slice c.asid (va / 65536) w).2
  | .pull p va a =>
    let (fid, s) := s.joinFault c.slice c.asid p 4 a c.launch (c.waiter va a)
    (s.askPull c.slice p).setCopy c.id fun k => { k with fault := some fid }
  | .parked => s.parkCopy c
  | .wait => s
  | .status n => s.finishCopy c r n

/-- A burst of a copy: up to 4 KiB under one grant (R480); the copy completes with its last. -/
def State.burst (s : State) (c : Copy) (r : LaunchRec) (link : LinkResult) : State :=
  let d := c.desc5
  let all := d.chunks
  let next := (all.drop c.pos).take (128 - c.moved)
  let s := (s.readSources c d link next).fillSources c d link next
  let (rs, h) := s.readyList c r d link 0 next
  match s.prepare c (rs.flatMap Ready.keys) with
  | .wait t => t
  | .go t =>
    let pos := c.pos + rs.length
    let t := t.writeReady c rs
    let t : State := if rs.isEmpty then t
      else { t with ops := updWhere (fun o => o.kind == .copy c.id) (fun o => { o with parkedAt := none }) t.ops }
    let full := decide (128 ≤ c.moved + rs.length)
    let c := { c with pos := pos, cycle := if rs.isEmpty then c.cycle else some (t.cycles c.core), moved := if full then 0 else c.moved + rs.length }
    let t := t.setCopy c.id fun k => { k with pos := pos, cycle := c.cycle, moved := c.moved }
    let t := if full && decide (pos < all.length) then
        (t.endCurrent 1 c.id).askCurrent c.core 1 c.id (match t.launch? c.launch with
          | some l => t.effective l
          | none => 0)
      else t
    match h with
    | some h => t.haltCopy c r h
    | none => if all.length ≤ pos then t.finishCopy c r 1 else t

/-- A copy may go on (R127, R131, R358, R480). -/
def State.copyReady (s : State) (c : Copy) : Bool :=
  c.fault.isNone && (c.force.isSome || (c.held.isNone && s.granted 1 c.id && s.copyReleased c c.desc5))

/-- R120 to R127: a copy's engine moves its next burst; with the last it completes, fails or is cancelled. -/
def execCopyComplete (copy : Nat) (link : LinkResult) (s : State) : Host.Outcome State Fault Refusal :=
  match s.copies.find? fun c => c.id == copy with
  | none => .next s
  | some c =>
    match s.launch? c.launch with
    | none => .next s
    | some l =>
      if !s.copyReady c then .next s
      else match c.force with
        | some n => .next (s.finishCopy c l.rcd n)
        | none => .next (s.burst c l.rcd link)

/-! ### ctok, ccan (R138 to R141) -/

/-- The q register or constant that A names. -/
def State.seqOperand (s : State) (i : Issue) (e : Ext) : Word := i.uni (s.src32 i.ctx i.launch.rcd (e.src e.a))

/-- The status of a copy by number (R139); numbers given before a save are not known after it (R128), and 0 never is. -/
def State.copyStatus (s : State) (core seq : Nat) : Nat :=
  if seq = 0 then 0xFFFF
  else if s.copies.any fun c => c.core == core && c.seq == seq && !c.resumed then 0
  else match s.doneCopies.find? fun q => q.core == core && q.seq == seq && !q.saved with
    | some q => q.status
    | none => 0xFFFF

/-- R139. -/
def execCtok (e : Ext) (s : State) : Host.Outcome State Fault Refusal :=
  let m := { e.info 1 1 0 0 with whole := true }
  s.issueInstr m fun s i =>
    let v : Word := .ofNat 32 (s.copyStatus i.ctx.core (s.seqOperand i e).toNat)
    s.writeOuts i m [{ dst := dstOf e.d, form := some (.u v), val := fun _ => v }]

/-- R141. -/
def execCcan (e : Ext) (s : State) : Host.Outcome State Fault Refusal :=
  let m := { e.info 0 1 0 0 with whole := true }
  s.issueInstr m fun s i =>
    let seq := (s.seqOperand i e).toNat
    let stop (c : Copy) : Copy := { c with fault := if c.force.isNone then none else c.fault, force := match c.force with
      | some f => some f
      | none => some 2 }
    ({ s with copies := updWhere (fun (c : Copy) => c.core == i.ctx.core && c.seq == seq && !c.resumed) stop s.copies } : State).writeNothing i m

/-! ### grel, gstat (R142 to R145) -/

/-- The shelf address of `grel` and `gstat`. -/
def State.granAddr (s : State) (i : Issue) (e : Ext) : Nat := (i.uni (s.src32 i.ctx i.launch.rcd (e.src e.a)) + e.imm).toNat

/-- Granules are emptied in ascending order until one must wait for its fills or holds (R113, R114, R143): the granules from it on. -/
def State.releaseGrans (s : State) : List (Nat × Nat × Nat) → State × List (Nat × Nat × Nat)
  | [] => (s, [])
  | g :: rest =>
    let t := s.setGran g.1 g.2.1 g.2.2 fun q => if q.state == GranState.empty then q else ({ q with rel := true } : Gran).relax
    if (t.gran g.1 g.2.1 g.2.2).rel then (t, g :: rest) else t.releaseGrans rest

/-- R143: the granules are emptied in ascending order, each as its fills and holds end; the context waits until the last one is. -/
def execGrel (e : Ext) (s : State) : Host.Outcome State Fault Refusal :=
  let m := { e.info 0 1 0 0 with whole := true }
  s.issueInstr m fun s i =>
    let addr := s.granAddr i e
    let n := e.modBits 2 7 + 1
    let x := i.ctx
    let space := e.modBits 0 2
    if addr % 4096 != 0 || (s.shelfOf x.core x.launch x.cohort i.launch.rcd space addr (n * 4096)).isNone then
      .set (s.faultCtx x.id 0x05 i.pc (.ofNat 64 addr) false)
    else
      let gs := s.gransOf x.core x.launch x.cohort i.launch.rcd space addr (n * 4096)
      -- how many are left, with the one it waits for, when the context already waits here
      let left := match x.rel with
        | some w => if w.pc == i.pc then w.left else 0
        | none => 0
      let at' := gs.drop (gs.length - left)
      let waits := left != 0 && at'.head?.any fun g => (s.gran g.1 g.2.1 g.2.2).rel
      if waits then .stall
      else
        let (t, rest) := s.releaseGrans (if left = 0 then gs else at'.drop 1)
        if rest.isEmpty then (t.modCtx x.id fun y => { y with rel := none }).writeNothing i m
        else
          let (mark, t) := t.fresh
          .set (t.modCtx x.id fun y => { y with rel := some { mark := mark, pc := i.pc, lines := [], left := rest.length } })

/-- R145. -/
def execGstat (e : Ext) (s : State) : Host.Outcome State Fault Refusal :=
  let m := { e.info 1 1 0 0 with whole := true }
  s.issueInstr m fun s i =>
    let addr := s.granAddr i e
    let x := i.ctx
    let space := e.modBits 0 2
    if addr % 4096 != 0 || (shelfCore x.core addr).isNone then .set (s.faultCtx x.id 0x05 i.pc (.ofNat 64 addr) false)
    else
      let code (j : Nat) : Nat :=
        let a := addr + 4096 * j
        if a / 2 ^ 21 != addr / 2 ^ 21 then 3
        else match s.shelfOf x.core x.launch x.cohort i.launch.rcd space a 4096 with
          | none => 3
          | some b => match (s.granAt b).state with
            | .empty => 0
            | .filling => 1
            | .resident => 2
      let v : Word := .ofNat 32 (((List.range 16).map fun j => code j * 4 ^ j).sum)
      s.writeOuts i m [{ dst := dstOf e.d, form := some (.u v), val := fun _ => v }]

/-! ### publ and the shadow windows (R131, R132, R136, R137) -/

/-- Every copy that is not complete: in flight, or recorded in the folio of a slice (R128). -/
def State.allCopies (s : State) : List Copy := s.copies ++ s.slices.flatMap fun v => match v.folio with
  | some f => f.copies
  | none => []

/-- R137: the context waits until its publish is done. -/
def execPubl (e : Ext) (s : State) : Host.Outcome State Fault Refusal :=
  let m := { e.info 0 1 0 0 with once := true, whole := true }
  s.issueInstr m fun s i =>
    let n := (s.seqOperand i e).toNat
    let lead := s.leader i.launch.slice
    let ctl := s.vreg lead (0x804 + 16 * n)
    if 15 < n || !ctl.toNat.testBit 31 || fieldOfWord ctl 16 8 != i.launch.asid then
      .set (s.faultCtx i.ctx.id 0x05 i.pc 0 false)
    else
      let (id, s) := s.fresh
      let before := (s.allCopies.filter fun c => s.leader c.slice == lead && c.win == some n).map Copy.id
      let grp := i.grp.map Item.c
      let p : Publ := { id := id, slice := lead, win := n, ctx := i.ctx.id, items := grp, before := before, flipped := false, ops := [] }
      let s : State := { s with publs := s.publs ++ [p] }
      match s.writeNothing i m with
      | .advance t => .set ((t.advance i m).modCtx i.ctx.id fun x => x.mapItems grp.contains fun t => { t with wait := .publ id })
      | a => a

/-- The publish of a window that is being served (R137). -/
def State.publ? (s : State) (slice win : Nat) : Option Publ :=
  s.publs.find? fun p => p.slice == s.leader slice && p.win == win

/-- The phase of a window may flip (R137). -/
def State.flipDue (s : State) (p : Publ) : Bool :=
  !p.flipped && !(s.allCopies.any fun c => p.before.contains c.id) && s.publ? p.slice p.win == some p

/-- The lines of a window's backing of a phase. -/
def State.windowLines (s : State) (slice win phase : Nat) : Nat → Bool := fun line =>
  let ctl := s.vreg slice (0x804 + 16 * win)
  let base := (s.vreg slice (0x800 + 16 * win)).toNat
  (List.range (fieldOfWord ctl 0 16)).any fun j => match s.walk slice (fieldOfWord ctl 16 8) (base + j) with
    | .leaf l => match s.physOf slice (l.spa + phase * 65536) with
      | some k => decide (lineOf k ≤ line) && decide (line < lineOf k + 512)
      | none => false
    | _ => false

/-- R137, step 3: PHASE inverts; the accesses in flight, and the stores still in dirty lines, are those translated under the old phase.
No core keeps clean bytes that it read of the new backing before (R359). -/
def execPublPhaseFlip (slice win : Nat) (s : State) : Host.Outcome State Fault Refusal :=
  match s.publ? slice win with
  | none => .next s
  | some p =>
    if !s.flipDue p then .next s
    else
      let r := 0x804 + 16 * win
      let ctl := s.vreg slice r
      let phase := 1 - fieldOfWord ctl 30 1
      let mine (core : Nat) : Bool := s.leader (sliceOf core) == p.slice
      let old := (s.ops.filter fun o => mine o.core && o.memory).map Op.id
      let dirty := (s.l1.filter fun l => mine l.core && !l.dirty.isEmpty).map fun l => (l.core, l.line, l.order)
      let s := (uniq ((s.l1.map L1Line.core).filter mine)).foldl (fun t c => t.dropClean c (s.windowLines slice win phase)) s
      let s := s.setVreg slice r (setField ctl 30 1 phase)
      .next { s with publs := updWhere (fun q => q.id == p.id) (fun q => { q with flipped := true, ops := old, lines := dirty }) s.publs }

/-- The accesses of the old phase have been performed (R137). -/
def State.publOver (s : State) (p : Publ) : Bool :=
  p.flipped && !(s.ops.any fun o => p.ops.contains o.id)
    && p.lines.all fun d => !(s.l1.any fun l => l.core == d.1 && l.line == d.2.1 && l.order == d.2.2 && !l.dirty.isEmpty)
        && !s.writePending d.1 [d.2.1]

/-- R137, step 5: the publish is done; its context goes on, and shadow copies that waited for it start. -/
def execPublDone (slice win : Nat) (s : State) : Host.Outcome State Fault Refusal :=
  match s.publ? slice win with
  | none => .next s
  | some p =>
    if !s.publOver p then .next s
    else
      let go (i : Item) : Item := if i.wait == .publ p.id then { i with wait := .none, since := s.clock } else i
      let start (c : Copy) : Copy := { c with held := if c.held == some p.id then none else c.held }
      let free (v : SliceSt) : SliceSt := { v with folio := v.folio.map fun f => { f with copies := f.copies.map start } }
      .next { s with publs := s.publs.filter (fun q => q.id != p.id), ctxs := s.ctxs.map (fun x => { x with items := x.items.map go }),
                     copies := s.copies.map start, slices := s.slices.map free }

/-- A window of a slice, or of its group, whose registers were written against R132 (R9), or no longer so. -/
def State.breakWindow (s : State) (slice win : Nat) (bad : Bool) : State :=
  s.setSlice (s.leader slice) fun v => { v with badWin := if bad then insertNat win v.badWin else v.badWin.filter (· != win) }

/-- A window is disabled while accesses to it are in flight, against R132: they fail, loads and atomics with AccessViolation, its copies
with STATUS 4 (R9; DESIGN CHOICE, log entry 91). -/
def State.cutWindow (s : State) (slice win : Nat) : State :=
  let hit (k : Nat) : Bool := k < 2 ^ 40 && (s.windowLines slice win 0 (lineOf k) || s.windowLines slice win 1 (lineOf k))
  let mine (core : Nat) : Bool := s.leader (sliceOf core) == s.leader slice
  let copies := updWhere (fun (c : Copy) => c.win == some win && mine c.core && c.force.isNone) (fun c => { c with force := some 4, fault := none }) s.copies
  (s.ops.filter fun o => mine o.core).foldl (fun t o => match o.kind with
    | .load parts _ _ _ uni => if parts.any fun p => hit p.1 then t.landFault o uni 0x05 else t
    | .atomic key _ _ uni => if hit key then t.failAtomic o uni 0x05 else t
    | _ => t) { s with copies := copies }

/-- R132: a window's control is written. A write that changes ASID or PAGES while EN is 1 breaks the window until EN is written from
0 to 1, and one that clears EN fails the accesses to the window that are in flight (R9). -/
def execCpeShwctlWrite (slice win : Nat) (val : Word) (s : State) : Host.Outcome State Fault Refusal :=
  let en := val.toNat.testBit 31
  if !s.serves slice || 16 ≤ win || (en && fieldOfWord val 0 16 == 0) then .next s
  else
    let r := 0x804 + 16 * win
    let old := s.vreg slice r
    let was := old.toNat.testBit 31
    let phase := if en && !was then 0 else fieldOfWord old 30 1
    let s := if was && !en then s.cutWindow slice win else s
    let s := if !was then (if en then s.breakWindow slice win false else s)
      else if fieldOfWord val 0 24 != fieldOfWord old 0 24 then s.breakWindow slice win true else s
    .next (s.setVreg slice r (setField (setField val 24 6 0) 30 1 phase))

/-! ### Parked accesses (R356, R471) -/

/-- The bytes of the host or of peers of an operation that is still at this end: its load, its write, its request, or its next sector. -/
def State.keysHere (s : State) (o : Op) : List Phys :=
  let out (l : List Phys) : List Phys := l.filter fun k => !k.isLocal
  match o.kind with
  | .load parts _ _ _ _ => if o.back.isNone then out (parts.map Prod.fst) else []
  | .atomic key _ _ _ => if o.back.isNone then out [key] else []
  | .ack _ => if o.back.isNone then
      out (((s.homeWrites.filter fun w => w.ack == some o.issue).map fun w => w.line * 128) ++ (s.asu.filter fun r => r.issue == o.issue).map AsuReq.key)
    else []
  | _ => []

/-- An operation waits at a parked link now (R471). -/
def State.parkedOp (s : State) (o : Op) : Bool :=
  match o.kind with
  | .copy id => match s.copies.find? (fun c => c.id == id) with
    | none => false
    | some c => match s.launch? c.launch with
      | none => false
      | some l => (s.readyList c l.rcd c.desc5 .ok 0 ((c.desc5.chunks.drop c.pos).take 1)).2 == some .parked
  | _ => (s.keysHere o).any fun k => s.path (sliceOf o.core) k 1 == .parked

/-- A parked operation has been parked for 40 ms, and not by one switch alone (R470, R471). -/
def State.parkedLong (s : State) (o : Op) (at0 : Nat) : Bool :=
  match o.kind with
  | .copy _ => decide (at0 + millis 40 ≤ s.clock) && s.edges.any fun e => e.parks != 0 && decide (at0 + millis 1 ≤ e.began)
  | _ => (s.keysHere o).any fun k => s.parkedOut k at0

/-- An access that is no longer parked forgets since when it was; one that a link parks later begins to count (R471). -/
def State.settleParks (s : State) : State :=
  let mark (o : Op) : Op :=
    match o.kind, o.parkedAt with
    | .copy _, none => o
    | _, none => if s.parkedOp o then { o with parkedAt := some s.clock } else o
    | _, some _ => if s.parkedOp o then o else { o with parkedAt := none }
  { s with ops := s.ops.map mark }

/-- R471: an access that has been parked for 40 ms fails: a load or an atomic with a result faults LinkParked, a store or
reduction is dropped (R356), and a copy ends with status 6. -/
def execParkedAccessTimeout (op : Nat) (s : State) : Host.Outcome State Fault Refusal :=
  match s.ops.find? fun o => o.id == op with
  | none => .next s
  | some o =>
    match o.parkedAt with
    | none => .next s
    | some at0 =>
      let before := s
      let s : State := { s with clock := max s.clock (at0 + millis 40) }
      if !s.parkedLong o at0 then .next before
      else match o.kind with
      | .load _ _ _ _ uni => .next (s.landFault o uni 0x0B)
      | .atomic _ _ _ uni => .next (s.failAtomic o uni 0x0B)
      | .ack _ =>
        let n := s.ackWeight o.issue
        let gone (ack : Option Nat) : Bool := ack == some o.issue
        let s : State := { s with homeWrites := s.homeWrites.filter (fun w => !gone w.ack), asu := s.asu.filter (fun r => r.issue != o.issue),
                                  ops := s.ops.filter fun p => p.id != op }
        .next (s.dropStores (sliceOf o.core) n)
      | .copy id =>
        let late (c : Copy) : Copy := { c with force := match c.force with
          | some f => some f
          | none => some 6 }
        let copies := updWhere (fun (c : Copy) => c.id == id) late s.copies
        .next { s with copies := copies, ops := updWhere (fun (p : Op) => p.id == op) (fun p => { p with parkedAt := none }) s.ops }
      | _ => .next s

end Sys2Proof.Machine
end

