-- ==== Sys2Proof/Machine/Matrix.lean ====
section
/-! DEFINITION. Matrix engines, call desks and tile tasks (10), the arithmetic of a scaled product (R226 to R233), and
the current arbiters (R478 to R481). -/

namespace Sys2Proof.Machine

/-! ### The arithmetic (R215, R225 to R233) -/

/-- Bytes of a row of a K-step (R284). -/
def rowBytes : Nat := 128

/-- Width class of an operand format in bits (R284): formats 0 to 2 are 8-bit, 3 is 4-bit, 4 and 5 are 16-bit. -/
def classOf (fmt : Nat) : Nat := if fmt < 3 then 8 else if fmt = 3 then 4 else 16

/-- Blocks of a K-step (R284). -/
def blocksPer (fmt : Nat) : Nat := if fmt < 3 then 4 else if fmt = 3 then 8 else 2

/-- An operand of the engine by format (R225, R288): 0 E4M3, 1 E5M2, 2 M8, 3 E2M1, 4 BF16, 5 FP16. -/
def operandValue (fmt code : Nat) : FVal :=
  match fmt with
  | 0 => e4m3.value code
  | 1 => e5m2.value code
  | 2 =>
    if code = 0x80 then .nan false code
    else if code = 0 then .fin false 0 0
    else m8Engine.value (m8Engine.round .rn false false (decide (128 ≤ code)) (m8Scaled (code % 128)) 64000000 0).1
  | 3 => e2m1.value code
  | 4 => bf16.value code
  | _ => fp16.value code

/-- Element k of a packed run (R215). -/
def elementAt (fmt : Nat) (bs : List Byte) (k : Nat) : FVal :=
  let code := match classOf fmt with
    | 8 => (bs.getD k 0).toNat
    | 4 => (bs.getD (k / 2) 0).toNat / 16 ^ (k % 2) % 16
    | _ => (bs.getD (2 * k) 0).toNat + 256 * (bs.getD (2 * k + 1) 0).toNat
  operandValue fmt code

/-- A block scale from its container (R226, R227). -/
def scaleValue (container : Nat) : FVal :=
  if 0xFFF ≤ container then .nan false 0
  else if container < 0x10 then .fin false 0 0
  else .fin false (16 + container % 16) ((container / 16 : Nat) - 131)

/-- A product of step 1 or 2 (R231). -/
def engineMul (x y : FVal) : FVal :=
  if x.isNan || y.isNan then .nan false 0 else (mulExact x y).getD (.nan false 0)

/-- Step 1: the exact sum of a block's products (R231). -/
def engineSum (ps : List FVal) : FVal :=
  let inf (b : Bool) : Bool := ps.any fun p => p == .inf b
  if ps.any FVal.isNan || (inf true && inf false) then .nan false 0
  else if inf true then .inf true
  else if inf false then .inf false
  else
    let (v, e) := ps.foldl (fun (acc : Int × Int) p => match p with
      | .fin neg m e => addExact acc.1 acc.2 (signedInt neg m) e
      | _ => acc) (0, 0)
    .fin (decide (v < 0)) v.natAbs e

/-- Step 2 (R231). -/
def engineScale (sum sa sb : FVal) : FVal :=
  let zero (v : FVal) : Bool := match v with
    | .fin _ m _ => m == 0
    | _ => false
  match sum with
  | .fin _ _ _ => if sa.isNan || sb.isNan then .nan false 0 else if zero sa || zero sb then .fin false 0 0 else engineMul (engineMul sum sa) sb
  | _ => if sa.isNan || sb.isNan || zero sa || zero sb then .nan false 0 else sum

/-- Any NaN inside the engine is the canonical one (R231). -/
def engineNan (code : Nat) : Nat := if (fp32.value code).isNan then fp32.canon else code

/-- Steps 3 and 4. -/
def engineAdd (acc : Nat) (v : FVal) : Nat :=
  engineNan (fp32.add .rn false false acc (fp32.roundVal .rn false false v).1).1

/-- One K-step of one element (R230, R299): its blocks in ascending K, each with its two scales. -/
def kStep (afmt bfmt : Nat) (a b : List Byte) (scales : List (FVal × FVal)) (acc : Nat) : Nat :=
  let va := (List.range (128 * 8 / classOf afmt)).map (elementAt afmt a)
  let vb := (List.range (128 * 8 / classOf bfmt)).map (elementAt bfmt b)
  let ps := va.zipWith engineMul vb
  (List.range (blocksPer afmt)).foldl (fun acc j =>
    let (sa, sb) := scales.getD j (.fin false 1 0, .fin false 1 0)
    engineAdd acc (engineScale (engineSum ((ps.drop (32 * j)).take 32)) sa sb)) acc

/-- Step 6's result for one element, with t of step 5 (R230). -/
def drained (t acc : Nat) : Nat := engineNan (fp32.mul .rn false false acc t).1

/-- Step 7: the output code, whether it is a saturation event, and whether it is a NaN event (R230, R233). -/
def outCode (ofmt rm : Nat) (sat : Bool) (o : Nat) : Nat × Bool × Bool :=
  let nan := (fp32.value o).isNan
  let mode := RMode.ofBits rm
  let r := if ofmt < 4 then toNarrow ofmt mode sat o
    else if ofmt = 4 then convert fp32 bf16 mode sat false o
    else if ofmt = 5 then convert fp32 fp16 mode sat false o
    else (o, 0)
  let big := (match fp32.value o with
    | .inf _ => true
    | _ => false) || (r.2 &&& flagOF) != 0
  (r.1, ofmt != 6 && (sat || ofmt == 3) && !nan && big, nan)

/-- Bits of an output element. -/
def outBits (ofmt : Nat) : Nat := if ofmt < 3 then 8 else if ofmt = 3 then 4 else if ofmt < 6 then 16 else 32

/-- A row of codes packed under R215. -/
def packRow (bits : Nat) (codes : List Nat) : List Byte :=
  if bits = 4 then (List.range (codes.length / 2)).map fun j => .ofNat 8 (codes.getD (2 * j) 0 + 16 * codes.getD (2 * j + 1) 0)
  else codes.flatMap fun c => leBytes (bits / 8) c

/-! ### Records (R287, R288) -/

/-- A word of a record. -/
def TaskRec.word (t : TaskRec) (j : Nat) : Nat := (t.words.getD j 0).toNat

/-- Fields of a record's words and format word. -/
def TaskRec.ksteps (t : TaskRec) : Nat := t.word 0 / 2 ^ 20
def TaskRec.mcast (t : TaskRec) : Nat := t.word 0 / 2 ^ 12 % 64
def TaskRec.rel (t : TaskRec) : Bool := (t.word 0).testBit 5
def TaskRec.afmt (t : TaskRec) : Nat := t.fmt.toNat % 16
def TaskRec.bfmt (t : TaskRec) : Nat := t.fmt.toNat / 16 % 16
def TaskRec.ofmt (t : TaskRec) : Nat := t.fmt.toNat / 256 % 16
def TaskRec.rm (t : TaskRec) : Nat := t.fmt.toNat / 4096 % 4
def TaskRec.sat (t : TaskRec) : Bool := t.fmt.toNat.testBit 14

/-- A shelf area of a record: its space, address, pitch, rows and bytes of each row. -/
structure Area where
  space : Nat
  addr : Nat
  pitch : Nat
  rows : Nat
  bytes : Nat
  deriving DecidableEq, Repr

/-- Bytes from the first to the last of an area. -/
def Area.extent (a : Area) : Nat := (a.rows - 1) * a.pitch + a.bytes

/-- An area named by an address word and a space word. -/
def areaOf (addr spaceWord rows bytes : Nat) : Area :=
  { space := spaceWord / 2 ^ 30, addr := addr, pitch := spaceWord % 2 ^ 22, rows := rows, bytes := bytes }

/-- Operand A, operand B and, in a scaled class, their scale areas (R285, R286). -/
def mmaAreas (ws : List Word) (afmt : Nat) : List Area :=
  let w (j : Nat) : Nat := (ws.getD j 0).toNat
  let k := w 0 / 2 ^ 20
  let scale (j : Nat) : Area := { space := w (j + 1) / 2 ^ 30, addr := w j, pitch := 0, rows := 1, bytes := 256 * k * blocksPer afmt }
  [areaOf (w 2) (w 3) 128 (k * rowBytes), areaOf (w 4) (w 5) 128 (k * rowBytes)]
    ++ (if classOf afmt = 16 then [] else [scale 6, scale 8])

/-- The destination of a DRAIN (R289, R301). -/
def drainArea (ws : List Word) (ofmt : Nat) : Area :=
  areaOf (ws.getD 2 0).toNat (ws.getD 3 0).toNat 128 (16 * outBits ofmt)

/-- The record's input areas. -/
def TaskRec.inputs (t : TaskRec) : List Area := if t.kind = 0 then mmaAreas t.words t.afmt else []

/-- The check of R289: the cause of the first failure. -/
def State.checkTask (s : State) (x : Ctx) (r : LaunchRec) (ws : List Word) (fmt : Word) : Option Nat :=
  let w (j : Nat) : Nat := (ws.getD j 0).toNat
  let f := fmt.toNat
  let kind := w 0 % 16
  let afmt := f % 16
  let bfmt := f / 16 % 16
  let ofmt := f / 256 % 16
  let k := w 0 / 2 ^ 20
  let mcast := w 0 / 2 ^ 12 % 64
  let zero (js : List Nat) : Bool := js.all fun j => w j == 0
  let low (n j : Nat) : Bool := w j % 2 ^ 30 / 2 ^ n == 0
  let unused := match kind with
    | 0 => (w 0).testBit 5 || !zero [10, 11] || !low 22 3 || !low 22 5 || !low 0 7 || !low 0 9
    | 1 => (w 0).testBit 5 || mcast != 0 || !zero [2, 3, 4, 5, 6, 7, 8, 9, 10, 11]
    | _ => mcast != 0 || !zero [4, 5, 6, 7, 8, 9] || !low 22 3
  let areas := if kind = 0 then mmaAreas ws afmt else if kind = 2 then [drainArea ws ofmt] else []
  let of (a : Area) : Bool := (s.shelfOf x.core x.launch x.cohort r a.space a.addr a.extent).isSome
  let narrow (a : Area) : Bool := a.rows != 1 && (a.pitch % 64 != 0 || decide (a.pitch < a.bytes))
  if 2 < kind || w 0 / 2 ^ 18 % 4 != 0 || w 0 / 2 ^ 6 % 64 != 0 || !zero [1, 12, 13, 14, 15] || unused then some 0x05
  else if 2 ^ 15 ≤ f || 6 < ofmt || 5 < bfmt || 5 < afmt || classOf afmt != classOf bfmt || (ofmt == 2 && f / 4096 % 4 != 0) then some 0x05
  else if (if kind = 0 then k == 0 || decide (2048 < k) else k != 0) then some 0x05
  else if kind == 0 && classOf afmt == 16 && !zero [6, 7, 8, 9] then some 0x05
  else if areas.any fun a => a.space == 0 then some 0x05
  else if areas.any fun a => a.addr % 64 != 0 || narrow a then some 0x03
  else if !areas.all of then some 0x05
  else if mcast != 0 && (!mcast.testBit (x.core % 6)
      || (List.range 6).any fun j => mcast.testBit j && (s.share? x.launch x.cohort (6 * clusterOf x.core + j)).isNone) then some 0x05
  else if kind == 2 && w 3 / 2 ^ 30 != 3 then some 0x07
  else none

/-- The launch record a task was posted under. -/
def State.taskRcd (s : State) (t : TaskRec) : Option LaunchRec := (s.launch? t.launch).map Launch.rcd

/-- The granules of the extents of some areas, each once. -/
def State.areaGrans (s : State) (t : TaskRec) (as : List Area) : List (Nat × Nat × Nat) :=
  match s.taskRcd t with
  | none => []
  | some r => uniq (as.flatMap fun a => s.gransOf t.core t.launch t.cohort r a.space a.addr a.extent)

/-- Input granules of a task (R295). -/
def State.inGrans (s : State) (t : TaskRec) : List (Nat × Nat × Nat) := s.areaGrans t t.inputs

/-- Destination granules of a DRAIN: those its rows lie in (R294). -/
def State.outGrans (s : State) (t : TaskRec) : List (Nat × Nat × Nat) :=
  if t.kind != 2 then []
  else
    let a := drainArea t.words t.ofmt
    s.areaGrans t ((List.range a.rows).map fun m => { a with addr := a.addr + m * a.pitch, rows := 1 })

/-! ### Slots, chains, order (R290 to R292) -/

/-- The slot is the one of this cohort, core and number. -/
def SlotSt.is (q : SlotSt) (core launch cohort acc : Nat) : Bool :=
  q.core == core && q.launch == launch && q.cohort == cohort && q.acc == acc

/-- A slot of a cohort on a core. -/
def State.slot (s : State) (core launch cohort acc : Nat) : SlotSt :=
  (s.slots.find? fun q => q.is core launch cohort acc).getD
    { core := core, launch := launch, cohort := cohort, acc := acc, bank := none, chain := none }

/-- Change a slot; one that is unbound and has no open chain is not listed. -/
def State.setSlot (s : State) (q : SlotSt) : State :=
  let rest := s.slots.filter fun p => !p.is q.core q.launch q.cohort q.acc
  { s with slots := if q.bank.isNone && q.chain.isNone then rest else q :: rest }

/-- The slot of a task. -/
def State.taskSlot (s : State) (t : TaskRec) : SlotSt := s.slot t.core t.launch t.cohort t.acc

/-- Change a task. -/
def State.setTask (s : State) (id : Nat) (f : TaskRec → TaskRec) : State := { s with tasks := updWhere (fun t => t.id == id) f s.tasks }
/-- Change a chain. -/
def State.setChain (s : State) (id : Nat) (f : Chain → Chain) : State := { s with chains := updWhere (fun c => c.id == id) f s.chains }

/-- Close the open chain of a slot as a `che` without a report does (R291, R293). -/
def State.closeChain (s : State) (q : SlotSt) : State :=
  match q.chain with
  | none => s
  | some c => (s.setChain c fun c => { c with closed := true }).setSlot { q with chain := none }

/-- The record orders its slot (R292, step 1). -/
def TaskRec.orders (t : TaskRec) : Bool := t.kind != 0 || t.solo

/-- Two records act on the same slot. -/
def TaskRec.sameSlot (t u : TaskRec) : Bool := t.core == u.core && t.launch == u.launch && t.cohort == u.cohort && t.acc == u.acc

/-- R292 allows a record to start. -/
def State.taskAllowed (s : State) (t : TaskRec) : Bool :=
  let earlier := s.tasks.filter fun u => u.sameSlot t && decide (u.id < t.id)
  if t.orders then earlier.isEmpty else !(earlier.any TaskRec.orders)

/-- The readiness test (R295, R297); a record that has started, and was saved, has passed it (R308). -/
def State.taskReady (s : State) (t : TaskRec) : Bool :=
  let drains := s.tasks.filter fun u => u.core == t.core && u.kind == 2 && decide (t.id < u.id)
  t.holding || (s.inGrans t).all fun g =>
    let q := s.gran g.1 g.2.1 g.2.2
    q.state == GranState.resident
      || (q.state == GranState.filling && decide (q.count ≤ (drains.filter fun u => (s.outGrans u).contains g).length))

/-- A DRAIN waits for earlier MMAs of its desk that read its destination (R297). -/
def State.drainBehind (s : State) (t : TaskRec) : Bool :=
  t.kind == 2 && s.tasks.any fun u => u.core == t.core && u.kind == 0 && decide (u.id < t.id)
    && u.state != TaskState.readsDone && (s.inGrans u).any (s.outGrans t).contains

/-! ### Engines (R290, R296, R298) -/

/-- A bank is bound to no slot. -/
def State.bankFree (s : State) (engine bank : Nat) : Bool := !(s.slots.any fun q => q.bank == some (engine, bank))

/-- The lowest free bank of an engine. -/
def State.freeBank (s : State) (engine : Nat) : Option Nat := (List.range 2).find? (s.bankFree engine)

/-- The engine a record may go to (R296): its slot's; else its own core's, when that has a free bank; else the lowest of
the cluster that has one. -/
def State.engineOf (s : State) (t : TaskRec) : Option Nat :=
  match (s.taskSlot t).bank with
  | some (e, _) => some e
  | none =>
    if (s.freeBank t.core).isSome then some t.core
    else ((List.range 6).map fun j => 6 * clusterOf t.core + j).find? fun e => (s.freeBank e).isSome

/-- A record that may be chosen by an engine: R292 allows it, and it is ready. -/
def State.taskWilling (s : State) (t : TaskRec) : Bool :=
  t.state == TaskState.posted && decide (t.kind < 8) && s.taskAllowed t && s.taskReady t && !s.drainBehind t

/-- An engine would take one record before another (R296). -/
def TaskRec.before (t u : TaskRec) : Bool :=
  decide (t.stamp < u.stamp) || (t.stamp == u.stamp && (decide (t.core < u.core) || (t.core == u.core && decide (t.id < u.id))))

/-- The engine that takes a record now, if one does (R296). -/
def State.startable (s : State) (t : TaskRec) : Option Nat :=
  if !s.taskWilling t then none
  else match s.engineOf t with
    | none => none
    | some e =>
      if s.tasks.any fun u => u.state == TaskState.running && u.engine == some e then none
      else if s.tasks.any fun u => s.taskWilling u && s.engineOf u == some e && u.before t then none
      else some e

/-- The bytes of B and its scales as two members of a multicast set see them (R298). -/
def State.sameB (s : State) (t u : TaskRec) : Bool :=
  let place (v : TaskRec) : List (Option ShelfAt) := match s.taskRcd v with
    | none => []
    | some r => (v.inputs[1]?.toList ++ v.inputs[3]?.toList).map fun (a : Area) => s.shelfOf v.core v.launch v.cohort r a.space a.addr a.extent
  place t == place u && t.ksteps == u.ksteps && t.bfmt == u.bfmt && t.word 5 % 2 ^ 22 == u.word 5 % 2 ^ 22

/-- The partner of a multicast MMA in another core's call desk (R298). -/
def State.partner (s : State) (t : TaskRec) (core : Nat) : Option TaskRec :=
  s.tasks.find? fun u => u.core == core && u.kind == 0 && u.state == TaskState.posted && u.launch == t.launch && u.mcast == t.mcast
    && s.sameB t u

/-- A record starts now, by itself: chosen and granted (R295). -/
def State.mayStart (s : State) (t : TaskRec) : Bool := (s.startable t).isSome && s.granted 0 t.id

/-- The other members of a full multicast set, each able to start (R298). -/
def State.fullSet (s : State) (t : TaskRec) : Option (List TaskRec) :=
  let cores := ((List.range 6).filter fun j => t.mcast.testBit j).map fun j => 6 * clusterOf t.core + j
  (cores.filter (· != t.core)).foldl (fun acc c => match acc, s.partner t c with
    | some us, some u => if s.mayStart u then some (us ++ [u]) else none
    | _, _ => none) (some [])

/-! ### Banks (R290, R293, R299 to R301) -/

/-- A bank. -/
def State.bank (s : State) (at' : Nat × Nat) : Bank :=
  (s.banks.find? fun b => b.core == at'.1 && b.num == at'.2).getD { core := at'.1, num := at'.2, elems := [], poison := false }

/-- Change a bank. -/
def State.setBank (s : State) (b : Bank) : State :=
  let rest := s.banks.filter fun c => !(c.core == b.core && c.num == b.num)
  { s with banks := if b.elems.isEmpty && !b.poison then rest else b :: rest }

/-- A slot is released: its bank is free (R293). -/
def State.releaseSlot (s : State) (q : SlotSt) : State :=
  let s := match q.bank with
    | none => s
    | some b => s.setBank { core := b.1, num := b.2, elems := [], poison := false }
  s.setSlot { q with bank := none }

/-- The inputs of a task are held until its reads are complete (R114). -/
def State.holdInputs (s : State) (t : TaskRec) : State :=
  if t.holding then s
  else ((s.inGrans t).foldl (fun u g => u.holdGran g) s).setTask t.id fun t => { t with holding := true }

/-- The holds of a task end (R114). -/
def State.unholdInputs (s : State) (t : TaskRec) : State :=
  if !t.holding then s
  else ((s.inGrans t).foldl (fun u g => u.unholdGran g) s).setTask t.id fun t => { t with holding := false }

/-- A task starts on an engine: its slot is bound (R290) and its inputs are held (R114). -/
def State.startTask (s : State) (t : TaskRec) (e : Nat) : State :=
  let q := s.taskSlot t
  let s := if q.bank.isSome then s
    else
      let b := (e, (s.freeBank e).getD 0)
      (s.setBank { core := b.1, num := b.2, elems := [], poison := false }).setSlot { q with bank := some b }
  (s.holdInputs t).setTask t.id fun t => { t with state := .running, started := s.clock, engine := some e }

/-! ### Issue (R294, R309 to R312) -/

/-- Records of a core's call desk (R294). -/
def State.deskFull (s : State) (core : Nat) : Bool := decide (32 ≤ (s.tasks.filter fun t => t.core == core).length)

/-- Accept a record (R291, R294). -/
def State.acceptTask (s : State) (i : Issue) (kind acc : Nat) (ws : List Word) (fmt : Word) (flag : Option Nat)
    (report : Option Nat) : State :=
  let x := i.ctx
  let item := match i.first with
    | some t => t.c
    | none => 0
  let newChain (s : State) (closed : Bool) : Nat × State :=
    let (id, s) := s.fresh
    let c : Chain := { id := id, core := x.core, launch := x.launch, cohort := x.cohort, acc := acc, closed := closed,
                       tasks := 0, sats := 0, nans := 0, status := 1, report := none, noReport := false, tokSince := none, item := item }
    (id, { s with chains := s.chains ++ [c] })
  let slot (s : State) : SlotSt := s.slot x.core x.launch x.cohort acc
  let (chain, solo, s) :=
    if kind = 8 then
      let (id, s) := newChain (s.closeChain (slot s)) false
      (id, false, s.setSlot { slot s with chain := some id })
    else match (slot s).chain with
      | some c => (c, false, s)
      | none =>
        let (id, s) := newChain s true
        (id, true, s)
  let s := s.setChain chain fun c => if kind < 8 then { c with tasks := c.tasks + 1 } else c
  let s := if kind = 9 then (s.setChain chain fun c => { c with closed := true, report := report }).setSlot { slot s with chain := none } else s
  let (id, s) := s.fresh
  let t : TaskRec :=
    { id := id, core := x.core, slice := i.launch.slice, launch := x.launch, cohort := x.cohort, kind := kind, acc := acc, words := ws,
      fmt := fmt, flag := flag, stamp := s.clock, chain := chain, solo := solo, item := item, state := .posted, started := 0,
      readySince := none, allowedSince := none, engine := none, poisoned := false }
  let s : State := { s with tasks := s.tasks ++ [t] }
  let s := (s.outGrans t).foldl (fun u g => u.fillGran g) s
  if kind < 8 then
    let o : Op :=
      { id := id, issue := id, core := x.core, launch := x.launch, cohort := x.cohort, items := i.aff.map Item.c, flag := flag, dst := [],
        kind := .task id, va := 0, pc := i.pc, back := none, fl := 0, parkedAt := none,
        cross := [], nofill := [], ev := false }
    { s with ops := s.ops ++ [o] }
  else s

/-- R310. -/
def execTpost (e : Ext) (s : State) : Host.Outcome State Fault Refusal :=
  let m := { e.info 0 16 1 0 with long := true, once := true, whole := true }
  s.issueInstr m fun s i =>
    let r := i.launch.rcd
    let f := s.src32 i.ctx r (e.src e.b)
    let vs := i.aff.map fun t => f.at r i.ctx.cohort t.c
    let fmt := vs.headD 0
    if vs.any (· != fmt) then .set (s.faultCtx i.ctx.id 0x06 i.pc 0 false)
    else
      let ws : List Word := (List.range 16).map fun j => i.uni (i.ctx.qForm (e.a.toNat - 128 + j))
      match s.checkTask i.ctx r ws fmt with
      | some cause => .set (s.faultCtx i.ctx.id cause i.pc 0 false)
      | none =>
        if s.deskFull i.ctx.core then .stall
        else
          let w0 := (ws.getD 0 0).toNat
          (s.acceptTask i (w0 % 16) (w0 / 16 % 2) ws fmt i.place.flag none).writeNothing i m

/-- R312: a chain begins. -/
def execChb (e : Ext) (s : State) : Host.Outcome State Fault Refusal :=
  let m := { e.info 0 0 0 0 with once := true, whole := true }
  s.issueInstr m fun s i =>
    if s.deskFull i.ctx.core then .stall
    else (s.acceptTask i 8 (e.modBits 0 1) [] 0 none none).writeNothing i m

/-- A failure of a slot that its holder has not taken yet (R304, R312). -/
def State.slotFail (s : State) (x : Ctx) (acc : Nat) : Option TaskFail :=
  s.taskFails.find? fun t => t.core == x.core && t.launch == x.launch && t.cohort == x.cohort && t.acc == acc && x.cs.contains t.item

/-- R312: a chain ends. A pending failure of the slot is taken first. -/
def execChe (e : Ext) (s : State) : Host.Outcome State Fault Refusal :=
  let rep := e.modBit 1
  let m := { e.info 0 (if rep then 2 else 0) 0 0 with once := true, whole := true }
  s.issueInstr m fun s i =>
    let acc := e.modBits 0 1
    let half (f : XForm) : Nat := (i.uni f).toNat
    let va := half (s.src32 i.ctx i.launch.rcd (e.src e.a)) + half (s.srcHi i.ctx i.launch.rcd (e.src e.a) false) * 2 ^ 32
    match s.slotFail i.ctx acc with
    | some t =>
      let s : State := { s with taskFails := s.taskFails.filter fun u => u != t }
      .set (s.faultCtx i.ctx.id t.cause i.pc 0 false)
    | none =>
      if rep && va % 16 != 0 then .set (s.faultCtx i.ctx.id 0x03 i.pc (.ofNat 64 va) false)
      else if rep && decide (2 ^ 48 ≤ va) then .set (s.faultCtx i.ctx.id 0x05 i.pc (.ofNat 64 va) false)
      else if (s.slot i.ctx.core i.ctx.launch i.ctx.cohort acc).chain.isNone then s.writeNothing i m
      else if s.deskFull i.ctx.core then .stall
      else (s.acceptTask i 9 acc [] 0 none (if rep then some va else none)).writeNothing i m

/-! ### Running (R295 to R302) -/

/-- R295, R298: a record that an engine takes and whose current is granted starts, a multicast one with its partners or
alone when it has waited for them. -/
def execTaskStart (task : Nat) (s : State) : Host.Outcome State Fault Refusal :=
  match s.tasks.find? fun t => t.id == task with
  | none => .next s
  | some t =>
    match s.startable t with
    | none => .next s
    | some e =>
      let begin' (u : State) (v : TaskRec) : State := match u.engineOf v with
        | some f => u.startTask v f
        | none => u
      let waited := match t.readySince with
        | some n => decide (n + s.fieldClocks (fieldOf t.core) 1024 ≤ s.clock)
        | none => false
      if !s.granted 0 t.id then .next s
      else if t.mcast = 0 then .next (s.startTask t e)
      else match s.fullSet t with
        | some us => .next (us.foldl begin' (s.startTask t e))
        | none => if waited then .next (s.startTask t e) else .next s

/-- R298: the wait for a multicast set ends; the member starts alone. -/
def execMulticastPartnerTimeout (task : Nat) (s : State) : Host.Outcome State Fault Refusal :=
  match s.tasks.find? fun t => t.id == task with
  | none => .next s
  | some t =>
    match t.readySince, s.startable t with
    | some n, some _ => if t.mcast = 0 || !s.granted 0 task then .next s else execTaskStart task { s with clock := max s.clock (n + s.fieldClocks (fieldOf t.core) 1024) }
    | _, _ => .next s

/-- One row of an area at a byte offset: its bytes, and whether a sector of them carries a mark. -/
def State.areaRead (s : State) (t : TaskRec) (r : LaunchRec) (a : Area) (off n : Nat) : List Byte × Bool :=
  let parts := (List.range (n / 64)).map fun j => match s.shelfOf t.core t.launch t.cohort r a.space (a.addr + off + 64 * j) 64 with
    | none => (List.replicate 64 0, false)
    | some p => (s.shelfRead p 64, s.shelfBad p 64)
  (parts.flatMap Prod.fst, parts.any Prod.snd)

/-- The order an engine adds K-steps in (R232): every one of some once. -/
def stepOrder (free : Nat) : List Nat → Nat → List Nat
  | _, 0 => []
  | l, fuel + 1 =>
    match l with
    | [] => []
    | x :: xs =>
      let k := (x :: xs).getD (Config.kOrder free % (xs.length + 1)) x
      k :: stepOrder (free + 1) ((x :: xs).filter (· != k)) fuel

/-- The K-steps of an MMA that are not in its bank yet (R299, R308). -/
def TaskRec.left (t : TaskRec) : List Nat := (List.range t.ksteps).filter fun j => !t.added.contains j

/-- The bytes that some K-steps of a task read of one of its areas, row by row, and whether a sector of them carries a mark (R285,
R286, R304). -/
def State.stepRows (s : State) (t : TaskRec) (r : LaunchRec) (area : Nat) (step : Nat) : List (List Byte × Bool) :=
  match t.inputs[area]? with
  | none => []
  | some a =>
    if area < 2 then (List.range 128).map fun m => s.areaRead t r a (m * a.pitch + 128 * step) 128
    else [s.areaRead t r a (256 * blocksPer t.afmt * step) (256 * blocksPer t.afmt)]

/-- The bank after an MMA has added some K-steps (R299). -/
def State.addMma (s : State) (t : TaskRec) (r : LaunchRec) (order : List Nat) (elems : List (Nat × Word)) : List (Nat × Word) :=
  let per := blocksPer t.afmt
  let scale (bs : List Byte) (b m : Nat) : FVal := scaleValue (leNat ((bs.drop (2 * (128 * b + m))).take 2))
  let steps := order.map fun j => ((s.stepRows t r 0 j).map Prod.fst, (s.stepRows t r 1 j).map Prod.fst,
    (s.stepRows t r 2 j).flatMap Prod.fst, (s.stepRows t r 3 j).flatMap Prod.fst)
  ((List.range 128).flatMap fun m => (List.range 128).map fun n =>
    let acc := steps.foldl (fun acc k =>
      let scales := if t.inputs.length = 4 then (List.range per).map fun b => (scale k.2.2.1 b m, scale k.2.2.2 b n) else []
      kStep t.afmt t.bfmt (k.1.getD m []) (k.2.1.getD n []) scales acc)
      (lookupD elems (128 * m + n) (0 : Word)).toNat
    (128 * m + n, (.ofNat 32 acc : Word))).filter fun p => p.2 != 0

/-- A K-step of an MMA reads a sector that carries a mark (R304). -/
def State.stepPoison (s : State) (t : TaskRec) (r : LaunchRec) (step : Nat) : Bool :=
  (List.range t.inputs.length).any fun a => (s.stepRows t r a step).any Prod.snd

/-- The zero operands of a K-step: the elements of its A and B rows that are zero (R482). -/
def State.stepZeros (s : State) (t : TaskRec) (r : LaunchRec) (step : Nat) : Nat :=
  let zeros (fmt area : Nat) : Nat := ((s.stepRows t r area step).map fun row =>
    ((List.range (128 * 8 / classOf fmt)).filter fun k => match elementAt fmt row.1 k with
      | .fin _ 0 _ => true
      | _ => false).length).sum
  zeros t.afmt 0 + zeros t.bfmt 1

/-- An engine counts the operand bit toggles and the zero operands of the K-steps it performs (R303, R482). -/
def State.countSteps (s : State) (t : TaskRec) (r : LaunchRec) (engine : Nat) (order : List Nat) : State :=
  let bytes (area step : Nat) : List Byte := (s.stepRows t r area step).flatMap Prod.fst
  let togs := (order.zipIdx.map fun k => Config.bitToggles (s.free + k.2) (bytes 0 k.1) (bytes 1 k.1)).sum
  let zeros := (order.map (s.stepZeros t r)).sum
  s.setCore engine fun c => { c with toggles := c.toggles + togs, zeros := c.zeros + zeros }

/-- An engine performs some K-steps of an MMA, in an order: they are added to the bank of its slot, unless that carries a mark (R299,
R304), and counted (R303). -/
def State.addSteps (s : State) (t : TaskRec) (r : LaunchRec) (at' : Nat × Nat) (order : List Nat) : State :=
  let bank := s.bank at'
  let s := if bank.poison then s else s.setBank { bank with elems := s.addMma t r order bank.elems }
  let s := s.countSteps t r at'.1 order
  { s with free := s.free + order.length }.setTask t.id fun u => { u with added := u.added ++ order }

/-- The record is complete: its flag clears (R302). -/
def State.endTask (s : State) (t : TaskRec) : State :=
  let s : State := { s with tasks := s.tasks.filter (fun u => u.id != t.id), ops := s.ops.filter fun o => o.kind != .task t.id }
  s.endCurrent 0 t.id

/-- A task fails (R304, R306). A bank that is not bound yet carries no mark. -/
def State.failTask (s : State) (t : TaskRec) (cause : Nat) : State :=
  let s := match (s.taskSlot t).bank with
    | some b => s.setBank { s.bank b with poison := true }
    | none => s
  let code := if cause = 0x0A then 2 else 3
  let old := match s.chains.find? fun c => c.id == t.chain with
    | some c => c.status
    | none => 1
  let (code, s) := if old == 1 || old == code then (code, s) else
    let (c, s) := s.choose [old, code]
    (c.getD code, s)
  let s := s.setChain t.chain fun c => { c with status := code }
  let fail : TaskFail := { core := t.core, launch := t.launch, cohort := t.cohort, acc := t.acc, flag := t.flag, item := t.item, cause := cause }
  ({ s with taskFails := s.taskFails ++ [fail] } : State).endTask t

/-- The next K-step run of an MMA: up to 8 of the K-steps it has left, in the engine's order (R299, R480). -/
def TaskRec.run (t : TaskRec) (free : Nat) : List Nat := (stepOrder free t.left t.left.length).take 8

/-- The effective priority of a task's launch, at which it asks for current (R480). -/
def State.taskPrio (s : State) (t : TaskRec) : Nat :=
  match s.launch? t.launch with
  | some l => s.effective l
  | none => 0

/-- R114, R299, R304, R480: a granted K-step run of an MMA ends: its operands are read and its sums are in the bank. After the last one
the operand reads are complete; before each other one the engine reserves current anew. -/
def execTaskOperandReadsComplete (task : Nat) (s : State) : Host.Outcome State Fault Refusal :=
  match s.tasks.find? fun t => t.id == task && t.kind == 0 && t.state == TaskState.running with
  | none => .next s
  | some t =>
    match s.taskRcd t, (s.taskSlot t).bank with
    | some r, some b =>
      let run := t.run s.free
      if !s.granted 0 task then .next s
      else if run.any (s.stepPoison t r) then .next ((s.unholdInputs t).failTask t 0x0A)
      else
        let u := (s.addSteps t r b run).endCurrent 0 task
        if t.left.length ≤ 8 then .next ((u.unholdInputs t).setTask task fun t => { t with state := .readsDone })
        else .next (u.askCurrent t.core 0 task (u.taskPrio t))
    | _, _ => .next s

/-- Write the bank's rows (R301, R304, R305). -/
def State.writeDrain (s : State) (t : TaskRec) (r : LaunchRec) (bank : Bank) (bad : Bool) : State :=
  let a := drainArea t.words t.ofmt
  let scale := engineNan (fp32.mul .rn false false (t.word 10) (t.word 11)).1
  let outs (m : Nat) : List (Nat × Bool × Bool) := (List.range 128).map fun n =>
    outCode t.ofmt t.rm t.sat (drained scale (lookupD bank.elems (128 * m + n) (0 : Word)).toNat)
  (List.range 128).foldl (fun u m =>
    let row := outs m
    let bs := packRow (outBits t.ofmt) (row.map Prod.fst)
    let u := (List.range (bs.length / 32)).foldl (fun u j =>
      match u.shelfOf t.core t.launch t.cohort r a.space (a.addr + m * a.pitch + 32 * j) 32 with
      | none => u
      | some p => ({ u with shelf := u.shelf.writeList p.key ((bs.drop (32 * j)).take 32) } : State).shelfMark (p.key / 32) bad) u
    let sats := (row.filter fun o => o.2.1).length
    let nans := (row.filter fun o => o.2.2).length
    u.setChain t.chain fun c => { c with sats := min (c.sats + sats) 0xFFFFFFFF, nans := min (c.nans + nans) 0xFFFFFFFF }) s

/-- A DRAIN ends: its destination granules have been filled, and with REL its slot is released (R293, R302). -/
def State.endDrain (s : State) (t : TaskRec) : State :=
  let s := (s.outGrans t).foldl (fun u g => u.fillEnd g) s
  let s := if t.rel then s.releaseSlot (s.taskSlot t) else s
  s.endTask t

/-- The destination of a DRAIN is held by no task (R297). -/
def State.drainFree (s : State) (t : TaskRec) : Bool := (s.outGrans t).all fun g => (s.gran g.1 g.2.1 g.2.2).holds == 0

/-- A chain commits when it is closed and its records are complete (R305). -/
def State.chainDue (s : State) (c : Chain) : Bool := c.closed && !(s.tasks.any fun t => t.chain == c.id)

/-- A chain report (R306). -/
def Chain.bytes (c : Chain) : List Byte :=
  leBytes 4 c.tasks ++ leBytes 2 c.status ++ leBytes 2 c.core ++ leBytes 4 c.sats ++ leBytes 4 c.nans

/-- A chain's counts are added to the counters of its slice (R305, R307). -/
def State.commitChain (s : State) (c : Chain) : State :=
  let slice := sliceOf c.core
  let s : State := { s with chains := s.chains.filter fun d => d.id != c.id }
  (s.count slice 0xA00 c.sats).count slice 0xA04 c.nans

/-- R305, R306: a chain's counts are committed and its report is written. -/
def State.chainEnd (s : State) (c : Chain) : State :=
  match c.report, s.launch? c.launch with
  | some va, some l =>
    let park (t : State) : State := t.setChain c.id fun d => { d with tokSince := some t.clock }
    match s.writeToken (sliceOf c.core) l.asid l.pid c.core c.launch va .copyWrite [2, c.id] c.noReport c.tokSince park c.bytes with
    | .wait t => t
    | .done t => t.commitChain c
  | _, _ => s.commitChain c

/-- R302, R305: a record completes; the number of a chain whose records are complete commits it. -/
def execTaskComplete (task : Nat) (s : State) : Host.Outcome State Fault Refusal :=
  match s.tasks.find? fun t => t.id == task with
  | none =>
    match s.chains.find? fun c => c.id == task with
    | some c => .next (if s.chainDue c then s.chainEnd c else s)
    | none => .next s
  | some t =>
    match t.kind, t.state with
    | 0, .readsDone => .next (s.endTask t)
    | 1, .running =>
      match (s.taskSlot t).bank with
      | some b => .next ((s.setBank { core := b.1, num := b.2, elems := [], poison := false }).endTask t)
      | none => .next s
    | 2, .running =>
      match s.taskRcd t, (s.taskSlot t).bank with
      | some r, some b => .next (if s.drainFree t then (s.writeDrain t r (s.bank b) ((s.bank b).poison || t.poisoned)).endDrain t else s)
      | _, _ => .next s
    | 8, .posted => .next (if s.taskAllowed t then s.endTask t else s)
    | 9, .posted => .next (if s.taskAllowed t then s.endTask t else s)
    | _, _ => .next s

/-- R295, R304: an MMA that R292 has allowed to start has not been ready for 2^BARLOG2 cluster clocks. -/
def execTaskReadinessWatchdog (task : Nat) (s : State) : Host.Outcome State Fault Refusal :=
  match s.tasks.find? fun t => t.id == task && t.kind == 0 && t.state == TaskState.posted with
  | none => .next s
  | some t =>
    match t.allowedSince, s.taskRcd t with
    | some n, some r =>
      if s.taskReady t then .next s
      else .next (({ s with clock := max s.clock (n + s.fieldClocks (fieldOf t.core) (2 ^ r.barLog)) } : State).failTask t 0x09)
    | _, _ => .next s

/-- What follows at once for the call desks: since when R292 allows a record and it is ready, and the requests for
current of the records that engines would take (R294, R295, R480). -/
def State.settleTasks (s : State) : State :=
  let mark (t : TaskRec) : TaskRec :=
    if t.state != TaskState.posted then t
    else
      let allowed := if t.allowedSince.isNone && s.taskAllowed t then some s.clock else t.allowedSince
      let ready := if t.readySince.isNone && t.kind == 0 && s.taskReady t then some s.clock else t.readySince
      { t with allowedSince := allowed, readySince := ready }
  let s : State := if s.tasks.isEmpty then s else { s with tasks := s.tasks.map mark }
  let stale (q : CurReq) : Bool := q.kind == 0 && match s.tasks.find? fun t => t.id == q.owner with
    | some t => t.state == TaskState.posted && (s.startable t).isNone
    | none => true
  let s : State := { s with curReqs := s.curReqs.filter fun q => !stale q }
  s.tasks.foldl (fun u t =>
    if (u.startable t).isSome && !(u.curReqs.any fun q => q.kind == 0 && q.owner == t.id) then
      u.askCurrent t.core 0 t.id (u.taskPrio t)
    else u) s

/-- The last context of a cohort on a core has ended: its open chains close, and once its records are complete its slots
are released (R293). -/
def State.endDesk (s : State) (core launch cohort : Nat) : State :=
  let mine (q : SlotSt) : Bool := q.core == core && q.launch == launch && q.cohort == cohort
  let s := (s.slots.filter mine).foldl (fun u q => u.closeChain (u.slot q.core q.launch q.cohort q.acc)) s
  if s.tasks.any fun t => t.core == core && t.launch == launch && t.cohort == cohort then s
  else (s.slots.filter mine).foldl (fun u q => u.releaseSlot q) s

/-- The chains of a cohort on a core that certain items opened are discarded (R305; whose a chain is, log entry 110): their DRAINs poison
what they have not written and complete, the other records are dropped, and no counts are committed. -/
def State.discardChains (s : State) (core launch cohort : Nat) (of : Nat → Bool) : State :=
  let ids := (s.chains.filter fun c => c.core == core && c.launch == launch && c.cohort == cohort && of c.item).map Chain.id
  let s := (s.tasks.filter fun t => ids.contains t.chain).foldl (fun u t =>
    let u := u.unholdInputs t
    match t.kind, u.taskRcd t with
    | 2, some r =>
      let a := drainArea t.words t.ofmt
      let u := (List.range 128).foldl (fun v m => (List.range (a.bytes / 32)).foldl (fun v j =>
        match v.shelfOf t.core t.launch t.cohort r a.space (a.addr + m * a.pitch + 32 * j) 32 with
        | some p => v.shelfMark (p.key / 32) true
        | none => v) v) u
      ((u.outGrans t).foldl (fun v g => v.fillEnd g) u).endTask t
    | _, _ => u.endTask t) s
  { s with chains := s.chains.filter (fun c => !ids.contains c.id),
           slots := s.slots.map fun q => if q.chain.any ids.contains then { q with chain := none } else q,
           taskFails := s.taskFails.filter fun f => !(f.core == core && f.launch == launch && f.cohort == cohort && of f.item) }

/-- All that a cohort has at the call desk of a core is discarded, and its slots are released. -/
def State.discardDesk (s : State) (core launch cohort : Nat) : State :=
  let s := s.discardChains core launch cohort fun _ => true
  (s.slots.filter fun q => q.core == core && q.launch == launch && q.cohort == cohort).foldl (fun u q => u.releaseSlot q) s

/-! ### The current arbiter (R478, R480, R481) -/

/-- The priority of a request (R480). -/
def State.rank (s : State) (q : CurReq) : Nat := min 7 (q.prio + (s.fieldClock (fieldOf q.core) - q.since) / 1024)

/-- Requests in the order an arbiter takes them (R480). -/
def State.goesBefore (s : State) (p q : CurReq) : Bool :=
  let a := s.rank p
  let b := s.rank q
  decide (b < a) || (a == b && (decide (p.since < q.since) || (p.since == q.since &&
    (decide (p.core < q.core) || (p.core == q.core && decide (p.kind < q.kind))))))

/-- A request fits its field's limit, or is granted alone (R478, R481). -/
def State.fitsCurrent (s : State) (q : CurReq) : Bool :=
  let room := s.currentRoom (fieldOf q.core)
  let used := s.currentUsed (fieldOf q.core)
  if room < q.amps then used == 0 else decide (used + q.amps ≤ room)

/-- The request a cluster's arbiter grants next (R480). -/
def State.nextGrant (s : State) (cluster : Nat) : Option CurReq :=
  let rs := s.curReqs.filter fun q => !q.granted && clusterOf q.core == cluster && s.fitsCurrent q
  rs.find? fun q => rs.all fun p => p == q || !s.goesBefore p q

/-- R480. -/
def execCurrentGrant (cluster : Nat) (s : State) : Host.Outcome State Fault Refusal :=
  match s.nextGrant cluster with
  | none => .next s
  | some q => .next { s with curReqs := updWhere (fun p => p == q) (fun p => { p with granted := true, began := s.cycles q.core }) s.curReqs }

end Sys2Proof.Machine
end

