-- ==== Sys2Proof/Machine/Settle.lean ====
section
/-! DEFINITION. What follows at once from any instruction or event, whatever it was: faults that the policy ends (R420), joins
that are tested again (R194), groups that have begun to wait (R191), entries that are spilled (R160), cohorts whose reservation
ends (R129, R158, R161, R293), requests of the call desks (R294 to R296), translations of an uncached walk that have been used
(R81), bursts of the lanes (R480), transfers that no group can carry (R468), accesses that a link parks or lets go (R471), old code that nobody may fetch any more (R57),
and the usage count (R444). -/

namespace Sys2Proof.Machine

/-- The keys of some items of a fault. -/
def Fault15.keys (f : Fault15) : List ItemKey := f.items.map fun c => { launch := f.launch, cohort := f.cohort, c := c }

/-- R420: items whose fault the policy ends are ended at once. -/
def State.settleFaults (s : State) : State :=
  (s.faults.filter fun f => f.auto && !f.items.isEmpty).foldl (fun t f =>
    let t := t.endItems f.keys 5
    { t with faults := updWhere (fun g => g.id == f.id) (fun (g : Fault15) => { g with items := [] }) t.faults }) s

/-- Chains of cores a cohort has left are closed, and a cohort without items gives up what nothing of it still needs (R129, R158, R161,
R293). -/
def State.settleCohorts (s : State) : State :=
  s.cohorts.foldl (fun t k =>
    let t := k.shares.foldl (fun u h =>
      if u.ctxs.any fun x => x.core == h.core && x.launch == k.launch && x.cohort == k.num then u
      else u.endDesk h.core k.launch k.num) t
    match t.cohort? k.launch k.num with
    | some k => t.releaseCohort k
    | none => t) s

/-- A context is in a release: its executing group waits at the instruction for what it covers (R346). -/
def State.releasing (s : State) (x : Ctx) : Bool :=
  match x.rel with
  | some r => r.left == 0 && r.lines.isEmpty && s.groupPc x == some r.pc
  | none => false

/-- A context has a group that does not wait, and its slice is not being saved; in SAVE a release that is in progress goes on until it is
complete (R189, R357, R427, R428). -/
def State.active (s : State) (x : Ctx) : Bool :=
  let pre := (s.slice (s.leader (sliceOf x.core))).pre
  (s.groupPc x).isSome && (decide (pre < 2) || (pre == 2 && s.releasing x))

/-- A lane as the arbiter knows it. -/
def Ctx.laneKey (x : Ctx) : Nat := x.core * 64 + x.lane

/-- The vector bursts (R480): each lane that has an active context reserves current for a burst; one that has been granted ends when its
lane has no active context, after 64 core clocks, or at some earlier time, which is free. -/
def State.settleBursts (s : State) : State :=
  let lanes := s.ctxs.filter fun x => x.kind != .span && s.active x
  let goesOn (q : CurReq) : Bool := q.kind != 2 || ((lanes.any fun x => x.laneKey == q.owner) && !(q.granted && (Config.burstOver s.free q.owner || decide (q.began + q.dur ≤ s.cycles q.core))))
  let s : State := if s.curReqs.all goesOn then s else { s.draw with curReqs := s.curReqs.filter goesOn }
  lanes.foldl (fun t x =>
    if t.curReqs.any fun q => q.kind == 2 && q.owner == x.laneKey then t
    else match t.launch? x.launch with
      | some l => t.askCurrent x.core 2 x.laneKey (t.effective l)
      | none => t) s

/-- A slice's send allowance on a group, in KiB (R466). -/
def State.allowance (s : State) (n slice : Nat) : Nat := fieldOfWord (s.reg 0 (0x2200 + 4 * (16 * n + slice))) 0 20

/-- A group can carry the slice's scale-out packets (R468). -/
def State.uePath (s : State) (slice : Nat) : Bool :=
  (List.range 16).any fun n => (s.edge n).state == 0 && (s.edge n).mode == 3 && s.allowance n slice != 0

/-- A transfer that no group can carry counts from when that began (R468). -/
def State.settleDescs (s : State) : State :=
  { s with descs := s.descs.map fun d => { d with stuck := if s.uePath d.slice then none else some (d.stuck.getD s.clock) } }

/-- Everything that follows at once. -/
def State.settle (s : State) : State :=
  s.settleFaults.settleFaultEntries.settleJoins.settleStarts.settleSpills.settleCohorts.settleTasks.settleLent.settleParks.settleDescs.settleBursts.dropOld

/-- A slice group is charged for the time that passes (R444). -/
def State.inUse (s : State) (slice : Nat) : Bool :=
  let mine (n : Nat) : Bool := s.leader n == slice
  let ofLaunch (n : Nat) : Bool := match s.launch? n with
    | some l => mine l.slice
    | none => false
  (s.slice slice).clearing || (s.cohorts.any fun k => ofLaunch k.launch) || (s.copies.any fun c => mine c.slice)
    || s.tasks.any fun t => mine t.slice

/-- The usage counts after some time, in cluster clocks of the slices' fields, which wrap at 64 bits (R444). -/
def State.charge (s : State) (before : State) : State :=
  let more (v : SliceSt) (k : Nat) : SliceSt :=
    { v with usage := (if s.leader k == k && s.inUse k then v.usage + (s.fieldClock (k / 4) - before.fieldClock (k / 4)) else v.usage) % 2 ^ 64 }
  { s with slices := s.slices.zipIdx.map fun p => more p.1 p.2 }

end Sys2Proof.Machine
end

