-- ==== Sys2Proof/Machine/Traps.lean ====
section
/-! DEFINITION. Fault records and their actions, system calls, breakpoints, pre-emption and the folio (15). -/

namespace Sys2Proof.Machine

/-! ### brk and trap (R423 to R426) -/

/-- R426. -/
def execBrk (e : Ext) (s : State) : Host.Outcome State Fault Refusal :=
  let m := { e.info 0 0 0 0 with whole := true }
  s.issueInstr m fun s i =>
    let code := e.imm.toNat % 2 ^ 16
    if !(s.vreg i.launch.slice 0xE94).toNat.testBit 0 then .advance s
    else .set ((s.advance i m).faultCtx i.ctx.id 0x10 i.pc (.ofNat 64 code) true)

/-- R424: the release is done; the record waits for room in the ring, and the affected items wait at the next
instruction. -/
def State.postCall (s : State) (i : Issue) (m : Meta) (code : BitVec 16) (arg : DWord) : State :=
  let (id, s) := s.fresh
  let cs := i.aff.map Item.c
  let first := i.ctx.cs.headD 0
  let c : Syscall :=
    { id := id, slice := s.leader i.launch.slice, seq := none, code := code, launch := i.ctx.launch, cohort := i.ctx.cohort, core := i.ctx.core,
      cfirst := first, mask := maskOf first cs, region := i.ctx.region, pc := wordIndex i.launch i.pc, arg := arg, items := cs, ctx := i.ctx.id }
  let o : Op :=
    { id := id, issue := id, core := i.ctx.core, launch := i.ctx.launch, cohort := i.ctx.cohort, items := cs, flag := i.place.flag, dst := [],
      kind := .syscall id, va := 0, pc := i.pc, back := none, fl := 0, parkedAt := none,
      cross := [], nofill := [], ev := false }
  let s : State := { s with syscalls := s.syscalls ++ [c], ops := s.ops ++ [o] }
  (s.advance i m).modCtx i.ctx.id fun x => x.mapItems cs.contains fun t => { t with wait := .syscall id }

/-- R424. -/
def execTrap (e : Ext) (s : State) : Host.Outcome State Fault Refusal :=
  let m := { e.info 0 (if e.modBit 0 then 2 else 0) 0 0 with long := true, once := true }
  s.issueInstr m fun s i =>
    if i.ctx.kind == CtxKind.span then .cut
    else
      let half (f : XForm) : Nat := (i.uni f).toNat
      let arg := if e.modBit 0 then
          half (s.src32 i.ctx i.launch.rcd (e.src e.a)) + half (s.srcHi i.ctx i.launch.rcd (e.src e.a) false) * 2 ^ 32 else 0
      s.releaseThen i 6 fun s =>
        let i := { i with ctx := (s.ctx? i.ctx.id).getD i.ctx }
        .set (s.postCall i m (.ofNat 16 e.imm.toNat) (.ofNat 64 arg))

/-- The syscall ring of a slice has room (R424). -/
def State.callRoom (s : State) (slice : Nat) : Bool :=
  (fieldOfWord (s.vreg slice 0xE28) 0 6 + 1) % 64 != fieldOfWord (s.vreg slice 0xE2C) 0 6

/-- A syscall record (R424). -/
def Syscall.bytes (c : Syscall) (seq : Nat) : List Byte :=
  leBytes 2 seq ++ [1, 0] ++ leBytes 2 c.code.toNat ++ leBytes 2 c.core ++ leBytes 4 c.launch ++ leBytes 4 c.region.toNat
    ++ leBytes 8 c.mask.toNat ++ leBytes 8 c.arg.toNat ++ leBytes 2 c.cfirst ++ leBytes 2 0 ++ leBytes 4 c.cohort ++ leBytes 4 c.pc
    ++ leBytes 20 0

/-- R424: a syscall's record is written into the ring in host memory, and interrupt source 5 is raised. -/
def execSyscallRecordWrite (call : Nat) (s : State) : Host.Outcome State Fault Refusal :=
  match s.syscalls.find? fun c => c.id == call && c.seq.isNone with
  | none => .next s
  | some c =>
    if !s.callRoom c.slice || !s.hostUp then .next s
    else
      let seq := (s.slice c.slice).scSeq
      let head := fieldOfWord (s.vreg c.slice 0xE28) 0 6
      let base := fieldOfWord (s.vreg c.slice 0xE20) 12 20 * 4096 + (s.vreg c.slice 0xE24).toNat * 2 ^ 32
      let s := s.deviceWrite c.slice (s.sysPid c.slice) (cellsFrom (s.hostPhys c.slice (base + 64 * head)) (c.bytes seq))
      let s := s.setSlice c.slice fun v => { v with scSeq := (v.scSeq + 1) % 65536 }
      let s := s.setVreg c.slice 0xE28 (setField (s.vreg c.slice 0xE28) 0 6 (head + 1))
      let s : State := { s with syscalls := updWhere (fun d => d.id == call) (fun (d : Syscall) => { d with seq := some seq }) s.syscalls }
      .next (s.interrupt c.slice 5 seq)

/-- R424: the host completes a syscall. A nonzero RESULT faults its items; the record's DETAIL is then RESULT, as R424's steps say, and
not the code that R418's table names for a Trap (DESIGN CHOICE, log entry 109). -/
def execSyscallDone (slice seq : Nat) (result : Byte) (s : State) : Host.Outcome State Fault Refusal :=
  match s.syscalls.find? fun c => c.slice == slice && c.seq == some seq with
  | none => .next s
  | some c =>
    let s : State := { s with syscalls := s.syscalls.filter (fun d => d.id != c.id), ops := s.ops.filter fun o => o.kind != .syscall c.id }
    let mine (x : Ctx) : List Nat := (x.items.filter fun i => i.wait == .syscall c.id).map Item.c
    let held := s.ctxs.filter fun x => !(mine x).isEmpty
    let pc (x : Ctx) : DWord := match s.launch? x.launch with
      | some l => .ofNat 64 (l.code + 4 * c.pc)
      | none => 0
    .next (held.foldl (fun t x =>
      if result = 0 then
        (t.acquired x.id 6).modCtx x.id fun y => y.mapItems (mine x).contains fun i => { i with wait := .none, since := t.clock }
      else t.faultItems x.id 0x0F (mine x) (pc x) (.ofNat 64 result.toNat) true) s)

/-! ### Fault records (R418 to R422) -/

/-- The fault ring of a slice has room (R418). -/
def State.faultRoom (s : State) (slice : Nat) : Bool :=
  (fieldOfWord (s.vreg slice 0xE04) 0 7 + 1) % 128 != fieldOfWord (s.vreg slice 0xE08) 0 7

/-- A fault record (R418). -/
def Fault15.bytes (f : Fault15) (seq : Nat) : List Byte :=
  leBytes 2 seq ++ leBytes 1 f.cause ++ leBytes 1 (f.scope + if f.auto then 128 else 0) ++ leBytes 4 f.launch ++ leBytes 4 f.cohort
    ++ leBytes 2 f.core ++ leBytes 2 f.cfirst ++ leBytes 8 f.mask.toNat ++ leBytes 4 f.pc ++ leBytes 4 f.region.toNat
    ++ leBytes 8 f.detail.toNat ++ leBytes 4 f.ctx ++ leBytes 20 0

/-- R418: a fault's record is written into the fault ring when it has room and no peer holds its lines (R102), and interrupt source 1 is
raised; one that needs no action is then done with (R420). -/
def execFaultRecordWrite (fault : Nat) (s : State) : Host.Outcome State Fault Refusal :=
  match s.faults.find? fun f => f.id == fault && f.seq.isNone with
  | none => .next s
  | some f =>
    let seq := (s.slice f.slice).fltSeq
    let head := fieldOfWord (s.vreg f.slice 0xE04) 0 7
    let base := (s.vreg f.slice 0xE00).toNat % 2 ^ 28 * 2 ^ 12
    if !s.faultRoom f.slice then .next s
    else match s.holdersOf f.slice (base + 64 * head) 64 with
    | some t => .next t
    | none =>
      let s := s.writeLocal f.slice (base + 64 * head) (f.bytes seq)
      let s := s.setSlice f.slice fun v => { v with fltSeq := (v.fltSeq + 1) % 65536 }
      let s := s.setVreg f.slice 0xE04 (.ofNat 32 ((head + 1) % 128))
      let s : State := if f.needs then { s with faults := updWhere (fun g => g.id == fault) (fun (g : Fault15) => { g with seq := some seq }) s.faults }
        else { s with faults := s.faults.filter fun g => g.id != fault }
      .next (s.interrupt f.slice 1 seq)

/-- The pending record that an action names (R419). -/
def State.pendingFault (s : State) (slice seq : Nat) : Option Fault15 :=
  s.faults.find? fun f => f.slice == s.leader slice && f.seq == some seq && f.needs

/-- R419, RESUME: each item of the record goes on from its resume point. -/
def State.resumeFault (s : State) (f : Fault15) : State :=
  let s : State := { s with faults := s.faults.filter fun g => g.id != f.id }
  s.ctxs.foldl (fun t x =>
    let whole := x.held == some f.id
    let cs := if whole then x.cs else (x.items.filter fun i => i.wait == .fault f.id).map Item.c
    if cs.isEmpty then t else t.resumeItems x cs f.next whole) s

/-- R419. -/
def execFaultResume (slice seq : Nat) (s : State) : Host.Outcome State Fault Refusal :=
  match s.pendingFault slice seq with
  | none => .next s
  | some f => .next (s.resumeFault f)

/-- R419. -/
def execFaultEnd (slice seq : Nat) (s : State) : Host.Outcome State Fault Refusal :=
  match s.pendingFault slice seq with
  | none => .next s
  | some f => .next (({ s with faults := s.faults.filter fun g => g.id != f.id } : State).endItems f.keys 5)

/-- The further record of a KILL (R419). Killed never waits for an action (R420); its AUTO bit is 0 whatever SLC_FLTPOL holds, as the
launch was ended by an action and not under SLC_FLTPOL (DESIGN CHOICE, log entry 113). -/
def killedRecord (id : Nat) (f : Fault15) : Fault15 :=
  { f with id := id, seq := none, cause := 0x13, scope := 2, auto := false, mask := 0, pc := 0, region := 0, detail := 0, items := [],
           next := false, needs := false }

/-- R419: the launch is killed, and one further record says so. -/
def execFaultKill (slice seq : Nat) (s : State) : Host.Outcome State Fault Refusal :=
  match s.pendingFault slice seq with
  | none => .next s
  | some f =>
    let s : State := { s with faults := s.faults.filter fun g => g.id != f.id }
    let s := s.cancel f.launch
    let (id, s) := s.fresh
    .next { s with faults := s.faults ++ [killedRecord id f] }

/-! ### The folio (R431, R505) -/

/-- Bytes of a length that begin with it, the others the implementation's (R505). -/
def freeRecord (free n : Nat) : List Byte := leBytes 4 n ++ (List.range (n - 4)).map fun j => Config.folioByte (free + j)

/-- Logical core t of a slice group (R431). -/
def State.logicalCore (s : State) (core : Nat) : Nat :=
  30 * (s.members (sliceOf core)).idxOf (sliceOf core) + coreIndex core

/-- A context record: the fixed prefix of R505, and a rest of the implementation's own. `pcOf` gives the PC recorded for
an item. -/
def State.ctxRecord (s : State) (x : Ctx) (pcOf : Item → DWord) : List Byte :=
  let span := x.kind == CtxKind.span
  let items := if span then x.items.take 1 else x.items
  let n := items.length
  let index (i : Item) : Nat := match s.launch? x.launch with
    | some l => wordIndex l (pcOf i)
    | none => 0
  let fixed := 32 + 6 * n
  let len := (fixed + 7) / 8 * 8 + 8 * Config.folioPart 2
  leBytes 4 len ++ leBytes 4 x.number ++ leBytes 4 x.launch ++ leBytes 4 x.cohort ++ leBytes 2 (s.logicalCore x.core)
    ++ leBytes 1 x.kind.code ++ leBytes 1 0 ++ leBytes 2 (x.cs.headD 0) ++ leBytes 2 n ++ leBytes 8 (2 ^ n - 1)
    ++ items.flatMap (fun i => leBytes 4 (index i)) ++ items.flatMap (fun i => leBytes 2 i.c)
    ++ (List.range (len - fixed)).map fun j => Config.folioByte (s.free + j)

/-- A section of a folio: type, whether it is required, records, bytes. -/
structure Section where
  type : Nat
  required : Bool
  count : Nat
  bytes : List Byte
  deriving DecidableEq, Repr

/-- A section of some records whose layout is the implementation's. -/
def freeSection (free type n : Nat) : Section :=
  { type := type, required := type == 1, count := n, bytes := (List.range n).flatMap fun j => freeRecord (free + j) (8 + 8 * Config.folioPart type) }

/-- The sections of a folio (R431); a fault dump has those that name its context, its groups and its flags (R419, R495). -/
def State.sections (s : State) (f : Folio) (pcOf : Item → DWord) : List Section :=
  let count (type : Nat) : Nat := match type with
    | 1 => f.launches.length
    | 3 => f.groups.length + f.asu.length
    | 4 => f.ctxs.length
    | 5 => f.copies.length
    | 6 => (f.slots.filter fun q => q.bank.isSome).length
    | 7 => f.tasks.length + f.chains.length
    | 8 => f.grans.length
    | 9 => f.ctxs.length
    | _ => f.faults.length + f.fails.length + f.childFails.length
  let ctxs : Section := { type := 2, required := true, count := f.ctxs.length, bytes := f.ctxs.flatMap fun x => s.ctxRecord x pcOf }
  let types := if f.kind = 2 then [3, 4, 9] else [3, 4, 5, 6, 7, 8, 9, 10]
  let free := types.map fun t => freeSection s.free t (count t)
  freeSection s.free 1 (count 1) :: ctxs :: free

/-- Up to the next multiple of 64. -/
def pad64 (n : Nat) : Nat := (n + 63) / 64 * 64

/-- The directory of some sections from an offset on, and their bytes (R431). -/
def layOut : List Section → Nat → List Byte × List Byte
  | [], _ => ([], [])
  | x :: xs, off =>
    let n := x.bytes.length
    let (dir, body) := layOut xs (off + pad64 n)
    (leBytes 2 (x.type + if x.required then 2 ^ 15 else 0) ++ leBytes 2 1 ++ leBytes 4 x.count ++ leBytes 4 off ++ leBytes 4 n ++ dir,
     x.bytes ++ leBytes (pad64 n - n) 0 ++ body)

/-- A folio as it stands in memory (R431). Its STAMP is the count of cluster clocks of the slice's field, by which the command processor's
cores count too (DESIGN CHOICE, log entry 111). -/
def State.folioBytes (s : State) (f : Folio) (slice : Nat) (pcOf : Item → DWord) : List Byte :=
  let secs := s.sections f pcOf
  let start := pad64 (64 + 16 * secs.length)
  let (dir, body) := layOut secs start
  let mem := (s.members slice).length
  let stamp := leBytes 8 (s.fieldClock (s.leader slice / 4))
  leBytes 4 0x4F494C46 ++ leBytes 2 1 ++ leBytes 2 secs.length ++ leBytes 1 f.kind ++ leBytes 1 slice ++ leBytes 2 (2 ^ mem - 1)
    ++ leBytes 4 (start + body.length) ++ stamp ++ leBytes 40 0 ++ dir ++ leBytes (start - 64 - dir.length) 0 ++ body

/-- The folio area of a slice, or its dump area: its local offset and its bytes; none when it is not wholly in the slice's
memory (R433, R501). -/
def State.area (s : State) (slice base size : Nat) : Option (Nat × Nat) :=
  let off := fieldOfWord (s.vreg slice base) 0 28 * 4096
  let n := fieldOfWord (s.vreg slice size) 0 20 * 4096
  if off + n ≤ s.localSize slice then some (off, n) else none

/-- A folio holds nothing. -/
def Folio.blank (kind lead clock : Nat) : Folio :=
  { kind := kind, lead := lead, clock := clock, ctxs := [], cohorts := [], units := [], launches := [], groups := [], ops := [], asu := [],
    copies := [], tasks := [], slots := [], banks := [], chains := [], grans := [], shelf := [], shelfPoison := [], faults := [], fails := [],
    childFails := [] }

/-- Write bytes into an area; none when they do not fit (R430, R501). -/
def State.writeArea (s : State) (bs : List Byte) (slice base size : Nat) : Option State :=
  match s.area slice base size with
  | none => none
  | some (off, n) => if n < bs.length then none else some (s.draw.writeLocal slice off bs)

/-- Write a folio into an area; none when it does not fit (R430, R501). -/
def State.writeFolio (s : State) (f : Folio) (slice base size : Nat) (pcOf : Item → DWord) : Option State :=
  s.writeArea (s.folioBytes f slice pcOf) slice base size

/-- The faulting PC of an item that a record holds: that of the instruction that faulted it; any other item's own (R419). -/
def State.faultingPc (s : State) (f : Fault15) (i : Item) : DWord :=
  match s.launch? f.launch with
  | none => i.pc
  | some l =>
    let pc : DWord := .ofNat 64 (l.code + 4 * f.pc)
    if i.wait == .fault f.id || f.grp.contains i.c || (f.next && i.pc == pc + 12) then pc else i.pc

/-- R419: a dump of the record's context is written before the action. -/
def execFaultDump (slice seq : Nat) (s : State) : Host.Outcome State Fault Refusal :=
  match s.pendingFault slice seq with
  | none => .next s
  | some f =>
    let mine (x : Ctx) : Bool := x.held == some f.id || x.items.any fun i => i.wait == .fault f.id
    let members := s.groups.filter fun g => g.launch == f.launch && g.members.any fun k => k.cohort == f.cohort
    let folio := { Folio.blank 2 f.slice s.clock with
      ctxs := s.ctxs.filter mine, groups := members, launches := s.launches.filter (fun l => l.num == f.launch), faults := [f] }
    let note (t : State) (bad : Bool) : State := t.setSlice f.slice fun v => { v with dumpErr := bad }
    match s.writeFolio folio f.slice 0xE14 0xE18 (s.faultingPc f) with
    | some t => .next (note t false)
    | none => .next (note s true)

/-! ### Pre-emption (R427 to R430) -/

/-- The contexts of a slice group. -/
def State.ctxsOf (s : State) (slice : Nat) : List Ctx := s.ctxs.filter fun x => s.leader (sliceOf x.core) == slice

/-- The launches of a slice group. -/
def State.launchesOf (s : State) (slice : Nat) : List Launch := s.launches.filter fun l => s.leader l.slice == slice

/-- A cohort of the slice group is resident. -/
def State.anyCohort (s : State) (slice : Nat) : Bool :=
  s.cohorts.any fun k => (s.launchesOf slice).any fun l => l.num == k.launch

/-- Enter a state of the machine of R427. -/
def State.enter (s : State) (slice st : Nat) : State := s.setSlice slice fun v => { v with pre := st }

/-- Enter a state that sets DONE and raises interrupt source 3 (R427). -/
def State.enterDone (s : State) (slice st : Nat) : State :=
  let s := s.enter slice st
  (s.setVreg slice 0xE88 (setField (s.vreg slice 0xE88) 31 1 1)).interrupt slice 3 0

/-- Set ERR and raise interrupt source 3 (R427, R430, R432). -/
def State.preError (s : State) (slice err : Nat) : State := (s.setSlice slice fun v => { v with preErr := err }).interrupt slice 3 0

/-- Every dirty L1 line of a slice group's cores is on its way (R451). -/
def State.cleanL1 (s : State) (slice : Nat) : Bool :=
  !(s.l1.any fun l => s.leader (sliceOf l.core) == slice && !l.dirty.isEmpty)

/-- R427: a GO with RESUME 0. -/
def execPreempt (slice : Nat) (s : State) : Host.Outcome State Fault Refusal :=
  if s.leader slice != slice || (s.slice slice).pre != 0 || s.closed slice then .next s
  else .next (s.setSlice slice fun v => { v with pre := 1, preErr := 0, nreset := 0, preSince := s.clock })

/-- R427, R451: the last cohort has gone. A migration source has no dirty L1 line then. -/
def State.drained? (s : State) (slice : Nat) : Bool :=
  s.leader slice == slice && (s.slice slice).pre == 1 && !s.anyCohort slice
    && (fieldOfWord (s.reg 0 (sliceReg slice 0x10)) 30 2 != 1 || s.cleanL1 slice)

/-- R427. -/
def execPreemptDrainComplete (slice : Nat) (s : State) : Host.Outcome State Fault Refusal :=
  if s.drained? slice then .next (s.enterDone slice 5) else .next s

/-- The deadlines of SLC_PREDL in clocks (R433). -/
def State.t2 (s : State) (slice : Nat) : Nat := max 1 (fieldOfWord (s.vreg slice 0xE84) 16 16) * 10 * 940
def State.t1 (s : State) (slice : Nat) : Nat := min (s.t2 slice) (fieldOfWord (s.vreg slice 0xE84) 0 16 * 940)

/-- An item's wait lasts through a forced save (R428). -/
def Item.savable (i : Item) : Bool :=
  match i.wait with
  | .none => false
  | .walk _ => false
  | .pageFault _ => false
  | .quiet => false
  | .late => false
  | .syscall _ => false
  | _ => true

/-- The item stands at a header with RGN = 1 that it has not issued (R428). -/
def State.atRegion (s : State) (x : Ctx) (i : Item) : Bool :=
  match s.launch? x.launch with
  | none => false
  | some l => match s.fetchAt x.core l i.pc.toNat 4 (s.lentTo (some x.id) none) with
    | .ok w => isHeader w && w.toNat.testBit 3
    | _ => false

/-- A request waits at its object: in the owner's hands, or in a peer's. -/
def AsuReq.waits (r : AsuReq) : Bool := r.waiting || (Phys.isPeer r.key && r.kind.waits.isSome)

/-- A context may be recorded now: its releases, its values and its system calls have completed (R357, R414, R428). What it waits for
in a barrier or a signal, here or at a peer, is no matter. -/
def State.mayRecord (s : State) (x : Ctx) : Bool :=
  !(s.ops.any fun o => o.serves x && match o.kind with
    | .load _ _ _ _ _ => true
    | .atomic _ _ _ _ => true
    | .ack _ => true
    | .syscall _ => true
    | _ => false)
    && !(s.asu.any fun r => r.core == x.core && r.launch == x.launch && r.cohort == x.cohort && r.items.any x.cs.contains && !r.waits)
    && !(s.l1.any fun l => !l.dirty.isEmpty && l.issuer.any fun w => w.1 == x.launch && w.2.1 == x.cohort && x.cs.contains w.2.2)
    && !(x.items.any fun i => i.wait == .late)
    && !s.releasing x

/-- A fault record of the slice holds this item or the whole context. -/
def State.faulted (s : State) (x : Ctx) (i : Item) : Bool :=
  (match x.held with
    | some n => s.faults.any fun f => f.id == n
    | none => false) || match i.wait with
    | .fault _ => true
    | _ => false

/-- A context at its save point (R428): an item that waits, or stands at a header with RGN, stays, and so do those that wait in a
`grel`; any other is rolled back to its region entry. What its region has staged is behind the entry and stands (R415). The count of a
`wait.clk` ends (R209). -/
def State.savePoint (s : State) (x : Ctx) : Ctx :=
  let grel (i : Item) : Bool := i.wait == .none && match x.rel with
    | some r => r.left != 0 && r.pc == i.pc
    | none => false
  let stays (i : Item) : Bool := i.savable || s.faulted x i || grel i || (i.wait == .none && s.atRegion x i)
  let moved := x.items.filter fun i => !stays i
  let pageHeld := match x.held with
    | some n => !(s.faults.any fun f => f.id == n)
    | none => false
  let x := match moved with
    | i :: _ => { x with region := i.entry.region, fflags := i.entry.fflags }
    | [] => x
  let rel := if x.items.any grel then x.rel else none
  let keep (i : Item) : Item := match i.wait with
    | .clock _ => { i with wait := .none }
    | _ => i
  { x with held := if pageHeld then none else x.held, rel := rel, pending := none, yielded := none,
           items := x.items.map fun i => if stays i then keep i else { i.rollback with wait := .none, parked := false } }

/-- The engines of a slice group stop (R308): each running MMA has added some of its K-steps, none of which reads a marked sector, and
is posted again with the rest; a ZERO or a DRAIN that runs is finished. -/
def State.stopEngines (s : State) (slice : Nat) : State :=
  (s.tasks.filter fun t => s.leader t.slice == slice && t.state != TaskState.posted).foldl (fun u t =>
    let again (v : State) : State := v.setTask t.id fun k => { k with state := .posted, engine := none }
    match t.kind, u.taskRcd t, (u.taskSlot t).bank with
    | 0, some r, some b =>
      if t.state == TaskState.readsDone then u.endTask t
      else
        let order := (stepOrder u.free t.left t.left.length).takeWhile fun j => !u.stepPoison t r j
        again ((u.addSteps t r b (order.take (Config.stepsDone u.free % (order.length + 1)))).draw)
    | 1, _, some b => (u.setBank { core := b.1, num := b.2, elems := [], poison := false }).endTask t
    | 2, some r, some b => if u.drainFree t then (u.writeDrain t r (u.bank b) ((u.bank b).poison || t.poisoned)).endDrain t else again u
    | _, _, _ => again u) s

/-- Nothing of a launch is left, nor of its children, but for writes on their way: a forced save leaves it to complete (R429). -/
def State.spent (s : State) : Nat → Launch → Bool
  | 0, _ => false
  | n + 1, l =>
    s.nothingLeft l && (s.launches.filter fun k => k.parent == some l.num).all (s.spent n)

/-- The registers of a cohort to which writes are still outstanding stay reserved, though its contexts are gone (R161). -/
def State.reserved (s : State) (k : Cohort) : Option Cohort :=
  if s.regsDue k then
    some { k with shares := k.shares.map (fun h => { h with granW := [], granA := [], granC := [] }), unitOf := none }
  else none

/-- What belongs to the launches of a slice group goes into a folio, and leaves the machine (R308, R428, R431), but for launches of which
nothing is left (R429) and for accesses of contexts that have been reset, which go on (R161). -/
def State.collect (s : State) (slice kind : Nat) : Folio × State :=
  let left := (s.launchesOf slice).filter fun l => !s.spent (s.launches.length + 1) l
  let ls := left.map Launch.num
  let mine (n : Nat) : Bool := ls.contains n
  let xs := s.ctxsOf slice
  let waiting (r : AsuReq) : Bool := mine r.launch && r.waits
  let own (core : Nat) : Bool := s.leader (sliceOf core) == slice
  let inGran (k : Nat) : Bool := s.grans.any fun g => own g.core && g.state != GranState.empty
    && (g.core * 4 + g.space) * 512 + g.num == k / 4096
  let banks := s.slots.filterMap fun q => if mine q.launch then q.bank.map fun b => s.bank b else none
  let ops := s.ops.filter fun o => mine o.launch && match o.kind with
    | .copy _ => true
    | .task _ => true
    | .child _ _ => true
    | _ => false
  let call (o : Op) : Bool := match o.kind with
    | .syscall _ => true
    | _ => false
  let f : Folio :=
    { kind := kind, lead := slice, clock := s.clock, ctxs := xs.map s.savePoint, cohorts := s.cohorts.filter fun k => mine k.launch,
      units := s.units.filter fun u => mine u.launch, launches := left, groups := s.groups.filter fun g => mine g.launch,
      ops := ops, asu := s.asu.filter waiting, copies := s.copies.filter fun c => mine c.launch,
      tasks := s.tasks.filter fun t => mine t.launch, slots := s.slots.filter fun q => mine q.launch, banks := banks,
      chains := s.chains.filter fun c => mine c.launch, grans := s.grans.filter fun g => own g.core,
      shelf := s.shelf.filter fun c => inGran c.1, shelfPoison := s.shelfPoison.filter fun m => inGran (m.1 * 32),
      faults := s.faults.filter fun f => f.slice == slice && f.needs, fails := s.taskFails.filter fun t => mine t.launch,
      childFails := s.childFails.filter fun c => mine c.launch }
  let free (w : Waiter) : Bool := match w.ctx, w.copy with
    | some c, _ => !(xs.any fun x => x.id == c)
    | _, some c => !(f.copies.any fun k => k.id == c)
    | _, _ => true
  let s : State := { s with
    ctxs := s.ctxs.filter (fun x => s.leader (sliceOf x.core) != slice),
    cohorts := s.cohorts.filterMap (fun k => if mine k.launch then s.reserved k else some k),
    units := s.units.filter (fun u => !mine u.launch), launches := s.launches.filter (fun l => !mine l.num),
    groups := s.groups.filter (fun g => !mine g.launch), ops := s.ops.filter (fun o => !(ops.contains o || (mine o.launch && call o))),
    asu := s.asu.filter (fun r => !waiting r), copies := s.copies.filter (fun c => !mine c.launch),
    tasks := s.tasks.filter (fun t => !mine t.launch), slots := s.slots.filter (fun q => !mine q.launch),
    banks := s.banks.filter (fun b => !(banks.any fun c => c.core == b.core && c.num == b.num)), chains := s.chains.filter (fun c => !mine c.launch),
    grans := s.grans.filter (fun g => !own g.core), faults := s.faults.filter (fun g => !(g.slice == slice && g.needs)),
    taskFails := s.taskFails.filter (fun t => !mine t.launch), childFails := s.childFails.filter (fun c => !mine c.launch),
    syscalls := s.syscalls.filter (fun c => !mine c.launch), consts := s.consts.filter (fun k => !mine k.launch),
    curReqs := s.curReqs.filter (fun q => !own q.core),
    walks := s.walks.map (fun w => { w with waiters := w.waiters.filter free }),
    pfaults := s.pfaults.map (fun p => { p with waiters := p.waiters.filter free }),
    doneCopies := s.doneCopies.map fun d => if own d.core then { d with saved := true } else d }
  -- a signal at which they waited last has no waiter any more (R373)
  (f, (f.asu.filter fun r => match r.kind with
    | .sigw _ _ _ => true
    | _ => false).foldl (fun t r => t.askObject r.core r.launch r.key .idle) s)

/-- The record of a context that is reset (R429). -/
def State.resetRecord (s : State) (x : Ctx) : State :=
  match s.launch? x.launch with
  | none => s
  | some l =>
    let (id, s) := s.fresh
    let pc := match s.groupPc x with
      | some p => p
      | none => (x.items.head?.map Item.pc).getD 0
    let f := faultRecord s id x l 0x13 true [] pc x.region 0 false
    { s with faults := s.faults ++ [{ f with auto := false, needs := false, items := [] }] }

/-- Reset some contexts of a slice group (R305, R308, R429): a record each when `records`, their items ended as END gives, their copies
ended with STATUS 0x0008, their chains discarded. A launch of which nothing is left completes with STATUS 6, and its children are
cancelled (R406). -/
def State.resetCtxs (s : State) (xs : List Ctx) (records : Bool) : State :=
  let s := if records then xs.foldl (fun t x => t.resetRecord x) s else s
  let s := xs.foldl (fun t x =>
    let hit (c : Copy) : Bool := c.launch == x.launch && c.cohort == x.cohort && c.items.any x.cs.contains
    let t : State := { t with copies := t.copies.map fun c => if hit c && c.force.isNone then { c with force := some 8, fault := none } else c,
                              syscalls := t.syscalls.filter (fun c => !(c.ctx == x.id)) }
    t.discardChains x.core x.launch x.cohort x.cs.contains) s
  let others := s.ctxs.filter fun x => !(xs.any fun y => y.id == x.id)
  let left (l : Launch) : Bool := (!l.stopped && decide (l.nextCohort < cohortTotal l.rcd)) || (others.any fun x => x.launch == l.num)
  let ended := (uniq (xs.map Ctx.launch)).filter fun n => match s.launch? n with
    | some l => !left l
    | none => false
  let s := ended.foldl (fun t n => t.setLaunch n fun l => { l with status := max l.status 6 }) s
  let s := s.endItems (xs.flatMap Ctx.keys) 5
  let kids := (s.launches.filter fun l => l.parent.any ended.contains).map Launch.num
  kids.foldl (fun t n => t.cancel n) s

/-- Copies whose status a reset has decided end now (R126, R429). -/
def State.endForced (s : State) : State :=
  (s.copies.filter fun c => c.force.isSome).foldl (fun t c => match t.launch? c.launch, c.force with
    | some l, some n => t.finishCopy c l.rcd n
    | _, _ => t) s

/-- R427: T1. SAVE begins: contexts of the slice stop issuing. -/
def execPreemptT1Expiry (slice : Nat) (s : State) : Host.Outcome State Fault Refusal :=
  if s.leader slice != slice || (s.slice slice).pre != 1 then .next s
  else
    let s : State := { s with clock := max s.clock ((s.slice slice).preSince + s.t1 slice) }
    .next (s.enter slice 2)

/-- Every context can be recorded (R357, R428), and each DRAIN that has started is done (R308). -/
def State.mayFolio (s : State) (slice : Nat) : Bool :=
  (s.ctxsOf slice).all s.mayRecord && s.cleanL1 slice
    && !(s.tasks.any fun t => s.leader t.slice == slice && (t.state == TaskState.readsDone || (t.kind == 2 && t.state == TaskState.running)))

/-- The folio of a slice group is written to its area and leaves the machine; none when it does not fit (R430, R501). -/
def State.putFolio (s : State) (slice kind : Nat) : Option State :=
  let (f, t) := s.collect slice kind
  let bs := s.folioBytes f slice Item.pc
  (t.writeArea bs slice 0xE8C 0xE90).map fun u => u.setSlice slice fun v => { v with folio := some f, image := bs }

/-- Stop the engines (R308), write the folio of a slice group and enter SAVED; when it does not fit, with ERR 1 and every context reset
first (R427, R430, R501). -/
def State.save (s : State) (slice kind : Nat) : State :=
  let s := s.stopEngines slice
  match s.putFolio slice kind with
  | some t => t.enterDone slice 4
  | none =>
    let n := (s.ctxsOf slice).length
    let s := ((s.preError slice 1).resetCtxs (s.ctxsOf slice) true).endForced
    let s := s.setSlice slice fun v => { v with nreset := min (v.nreset + n) 65535, folio := none }
    ((s.putFolio slice kind).getD s).enterDone slice 4

/-- The slice is the source of a migration (R451). -/
def State.sends (s : State) (slice : Nat) : Bool := fieldOfWord (s.reg 0 (sliceReg slice 0x10)) 30 2 == 1

/-- T1 lies at T2 or beyond: SAVE begins at T2, and RESET follows at once (R433). -/
def State.noSave (s : State) (slice : Nat) : Bool := (s.slice slice).ckState != 1 && decide (s.t2 slice ≤ s.t1 slice)

/-- The folio may be written: in SAVE once every context has come to its save point; in RESET at once, though at a migration's source no
dirty L1 line may be left (R427, R451). -/
def State.saveDue (s : State) (slice : Nat) : Bool :=
  match (s.slice slice).pre with
  | 2 => s.mayFolio slice && !s.noSave slice
  | 3 => !s.sends slice || s.cleanL1 slice
  | _ => false

/-- R429: T2, counted from a GO write. Every context that cannot be recorded yet is reset; the others are saved. -/
def execPreemptT2Expiry (slice : Nat) (s : State) : Host.Outcome State Fault Refusal :=
  if s.leader slice != slice || (s.slice slice).pre != 2 || (s.slice slice).ckState = 1 then .next s
  else
    let s : State := { s with clock := max s.clock ((s.slice slice).preSince + s.t2 slice) }
    let xs := (s.ctxsOf slice).filter fun x => s.noSave slice || !s.mayRecord x
    let n := xs.length
    let s := (s.resetCtxs xs true).endForced
    let s := s.setSlice slice fun v => { v with pre := 3, nreset := min (v.nreset + n) 65535 }
    .next (if s.saveDue slice then s.save slice 1 else s)

/-! ### Resuming (R195, R432) -/

/-- A little-endian number within some bytes. -/
def natAt (bs : List Byte) (off k : Nat) : Nat := leNat ((bs.drop off).take k)

/-- A field of a folio's directory entry. -/
def entryAt (bs : List Byte) (j off k : Nat) : Nat := natAt bs (64 + 16 * j + off) k

/-- The context records of a folio: the offset of each (R505). -/
def ctxOffsets (bs : List Byte) : Nat → Nat → List Nat
  | 0, _ => []
  | n + 1, a => a :: ctxOffsets bs n (a + natAt bs a 4)

/-- The directory entry of the contexts section. -/
def ctxSection (bs : List Byte) : Option Nat :=
  (List.range (min (natAt bs 6 2) 64)).find? fun j => entryAt bs j 0 2 % 2 ^ 15 == 2

/-- The context records of a folio. -/
def ctxRecords (bs : List Byte) : List Nat :=
  match ctxSection bs with
  | some j => ctxOffsets bs (entryAt bs j 4 4) (entryAt bs j 8 4)
  | none => []

/-- The fixed prefix of a context record is within its limits (R505), the record ending before `last`. -/
def goodRecord (bs : List Byte) (cores last a : Nat) : Bool :=
  let len := natAt bs a 4
  let kind := natAt bs (a + 0x12) 1
  let n := natAt bs (a + 0x16) 2
  let item (j : Nat) : Nat := natAt bs (a + 0x20 + 4 * n + 2 * j) 2
  len % 8 == 0 && decide (0x20 + 6 * n ≤ len) && decide (a + len ≤ last)
    && decide (kind ≤ 2) && natAt bs (a + 0x13) 1 == 0 && decide (natAt bs (a + 0x10) 2 < cores)
    && decide (1 ≤ n) && (if kind = 0 then n == 1 else decide (n ≤ 64))
    && item 0 == natAt bs (a + 0x14) 2 && (List.range (n - 1)).all fun j => decide (item j < item (j + 1))

/-- What a resume finds wrong with the fixed parts of a folio (R432): its ERR, 0 for none. `cores` is the number of the group's logical
cores. -/
def folioError (bs : List Byte) (cores : Nat) : Nat :=
  let nsect := natAt bs 6 2
  let sects := List.range (min nsect 64)
  let len := natAt bs 0xC 4
  let type (j : Nat) : Nat := entryAt bs j 0 2
  let inside (j : Nat) : Bool := entryAt bs j 8 4 % 64 == 0 && decide (entryAt bs j 8 4 + entryAt bs j 0xC 4 ≤ len)
  if natAt bs 0 4 != 0x4F494C46 || natAt bs 4 2 != 1 then 2
  else if sects.any fun j => 2 ^ 15 ≤ type j && (type j == 2 ^ 15 || decide (2 ^ 15 + 10 < type j) || entryAt bs j 2 2 != 1) then 3
  else if nsect = 0 ∨ 64 < nsect ∨ natAt bs 8 1 = 0 ∨ 4 < natAt bs 8 1 ∨ 15 < natAt bs 9 1 ∨ bs.length < len
      ∨ (bs.drop 0x18).take 40 ≠ leBytes 40 0 then 4
  else if !sects.all inside then 4
  else match ctxSection bs with
    | none => 4
    | some j => if (ctxRecords bs).all (goodRecord bs cores (entryAt bs j 8 4 + entryAt bs j 0xC 4)) then 0 else 4

/-- The bytes of a folio that software may edit: the PCs and active bits of each context record (R505), each as an offset and a length. -/
def editable (bs : List Byte) : List (Nat × Nat) := (ctxRecords bs).map fun a => (a + 0x18, 8 + 4 * natAt bs (a + 0x16) 2)

/-- The bytes of a folio without what software may edit. -/
def unedited (bs : List Byte) : List Byte :=
  let es := editable bs
  (bs.take (natAt bs 0xC 4)).zipIdx.map fun b => if es.any fun e => decide (e.1 ≤ b.2) && decide (b.2 < e.1 + e.2) then 0 else b.1

/-- The bytes of a slice's folio area. -/
def State.folioArea (s : State) (slice : Nat) : Option (List Byte) :=
  (s.area slice 0xE8C 0xE90).map fun a => s.readLocal slice a.1 a.2

/-- The folios that this device has written and that may come back, with their bytes: those of a slice first (R431, R451, R456). -/
def State.keptFolios (s : State) (slice : Nat) : List (Folio × List Byte) :=
  (s.slice slice :: s.slices).flatMap fun v => (match v.folio with
    | some f => [(f, v.image)]
    | none => []) ++ v.ckFolios.map Prod.snd

/-- What the folio in some bytes holds: what this device wrote, where the bytes are those it wrote, but for edits; else what the
implementation makes of them (R431, R505). -/
def State.folioIn (s : State) (slice : Nat) (bs : List Byte) : Option Folio :=
  match (s.keptFolios slice).find? fun p => unedited bs == unedited p.2 with
  | some p => some p.1
  | none => Config.folioOf s.nextId (unedited bs)

/-- The PCs and active bits of a context's record in a folio, by item, as software may have left them (R505); the one PC and
bit of a span hold for each of its items. -/
def edited (bs : List Byte) (x : Ctx) : List (Nat × Nat × Bool) :=
  match (ctxRecords bs).find? fun a => natAt bs (a + 4) 4 == x.number && natAt bs (a + 8) 4 == x.launch with
  | none => []
  | some a =>
    let on (j : Nat) : Bool := (natAt bs (a + 24) 8).testBit j
    if x.kind == CtxKind.span then x.cs.map fun c => (c, natAt bs (a + 32) 4, on 0)
    else x.items.mapIdx fun j i => (i.c, natAt bs (a + 32 + 4 * j) 4, on j)

/-- The core of a slice group with a logical number (R432); none when the group has none. -/
def State.coreAt (s : State) (slice t : Nat) : Option Nat :=
  ((s.members slice)[t / 30]?).map fun m => sliceCore m (t % 30)

/-- The same place in another slice group. -/
def State.moveCore (s : State) (from_ dest core : Nat) : Option Nat :=
  s.coreAt dest (30 * (s.members from_).idxOf (sliceOf core) + coreIndex core)

/-- An item goes on after a save (R195): at the PC that its record gives. -/
def Item.edit (i : Item) (pc : DWord) : Item :=
  if i.pc = pc then i
  else { i with pc := pc, place := entryPlace, wait := match i.wait with
    | .fault n => .fault n
    | _ => .none }

/-- A resumed item's deadline at a join runs on from where it stood (R431); that of a `sigw` has run all the while (R376). -/
def Item.later (i : Item) (d : Nat) : Item :=
  { i with since := i.since + d, starts := i.starts + d, wait := match i.wait with
    | .join t n left => .join (t + d) n left
    | w => w }

/-- A phase's deadline runs on. -/
def Phase.later (p : Phase) (d : Nat) : Phase := { p with since := p.since.map (· + d) }

/-- Some items wait in a barrier or a signal no longer. -/
def State.leaveObjects (s : State) (x : Ctx) (cs : List Nat) : State :=
  s.forgetWaits ((x.items.filter fun i => cs.contains i.c && match i.wait with
    | .barw _ => true
    | .sigw _ _ => true
    | _ => false).map fun i => x.key i.c)

/-- R195, step 1: the items of a resumed context whose active bit is clear exit. -/
def State.editActive (s : State) (id : Nat) (edits : List (Nat × Nat × Bool)) : State :=
  match s.ctx? id, (edits.filter fun e => !e.2.2).map Prod.fst with
  | some x, c :: cs =>
    let s := (s.leaveObjects x (c :: cs)).setLaunch x.launch fun l => { l with lastCycle := s.cycles x.core }
    match s.ctx? id with
    | some y => s.exitItems y (c :: cs)
    | none => s
  | _, _ => s

/-- The items of a resumed context whose PCs have been rewritten. -/
def Ctx.rewritten (x : Ctx) (code : Nat) (edits : List (Nat × Nat × Bool)) : List Nat :=
  (x.items.filter fun i => edits.any fun e => e.1 == i.c && (BitVec.ofNat 64 (code + 4 * e.2.1) != i.pc)).map Item.c

/-- The items of a context that is resumed stand at the PCs that its record gives. -/
def Ctx.editPcs (x : Ctx) (code : Nat) (edits : List (Nat × Nat × Bool)) : Ctx :=
  x.mapItems (fun _ => true) fun i => match edits.find? fun e => e.1 == i.c with
    | some (_, n, _) => i.edit (.ofNat 64 (code + 4 * n))
    | none => i

/-- A context whose items no longer all stand at its join leaves W (R195, step 4). -/
def Ctx.leaveJoin (x : Ctx) : Ctx :=
  if x.joinTill.isSome then x
  else x.mapItems (fun _ => true) fun i => match i.wait with
    | .join _ _ _ => { i with wait := .none }
    | _ => i

/-- R195, step 2: each rewritten PC of a context is checked as the target of a transfer is; one that fails faults the context, and one
whose check must wait for its page is checked when its group issues. A context that already waits for a fault's action is checked
then. -/
def State.checkPcs (s : State) (id : Nat) (l : Launch) (cs : List Nat) : State :=
  match s.ctx? id with
  | none => s
  | some x =>
    (uniq ((x.items.filter fun i => cs.contains i.c).map Item.pc)).foldl (fun t pc => match t.target x.core l pc [] with
      | .ok => t.modCtx id fun y => y.mapItems cs.contains fun i => if i.pc = pc then { i with place := { entryPlace with count := 0 } } else i
      | .wrong => match t.ctx? id with
        | some y => if y.held.isSome then t else t.faultCtx id 0x02 pc 0 false
        | none => t
      | .wait _ => t) s

/-- R195, steps 2 to 4, for a context. -/
def State.editPcs (s : State) (id : Nat) (edits : List (Nat × Nat × Bool)) : State :=
  match s.ctx? id with
  | none => s
  | some x => match s.launch? x.launch with
    | none => s
    | some l =>
      let cs := x.rewritten l.code edits
      if cs.isEmpty then s
      else ((s.leaveObjects x cs).modCtx id fun y => (y.editPcs l.code edits).leaveJoin).checkPcs id l cs

/-- A context has been rewritten in its folio. -/
def State.isEdited (s : State) (x : Ctx) (edits : List (Nat × Nat × Bool)) : Bool :=
  (edits.any fun e => !e.2.2) || match s.launch? x.launch with
    | some l => !(x.rewritten l.code edits).isEmpty
    | none => false

/-- A resumed context that waits at a join is tested against the others there at once, its deadline unchanged (R195, step 5). -/
def State.retestJoin (s : State) (id : Nat) : State :=
  match s.ctx? id with
  | none => s
  | some x => match x.joinTill, x.items, s.launch? x.launch with
    | some till, i :: _, some l => s.arriveJoin l id i.pc (some till)
    | _, _, _ => s

/-- What software has rewritten takes effect (R195): over all contexts, each step before the next. Only where a context of a cohort and
core has been rewritten are those that wait at a join there tested again (R197). -/
def State.applyEdits (s : State) (xs : List Ctx) (edits : Ctx → List (Nat × Nat × Bool)) : State :=
  let hit := xs.filter fun x => s.isEdited x (edits x)
  let near (x : Ctx) : Bool := hit.any fun y => y.launch == x.launch && y.cohort == x.cohort && y.core == x.core
  let t := xs.foldl (fun t x => t.editActive x.id (edits x)) s
  let t := xs.foldl (fun t x => t.editPcs x.id (edits x)) t
  (xs.filter near).foldl (fun t x => t.retestJoin x.id) t

/-- A copy goes on after a save (R128): its number is not known any more, and its token counts on the core it resumes on. A publish
that ended meanwhile holds it no longer. -/
def State.resumeCopy (s : State) (c : Copy) (core slice : Nat) : Copy :=
  { c with core := core, slice := slice, fault := none, resumed := true, cycle := c.cycle.map fun _ => s.cycles core,
           held := c.held.filter fun n => s.publs.any fun p => p.id == n }

/-- The byte of another slice group's memory at the same local offset (R66). -/
def State.moveKey (s : State) (from_ dest : Nat) (k : Phys) : Phys :=
  if k.isLocal && s.leader (k / 2 ^ 36) == from_ then s.localPhys dest (s.localOffset k) else k

/-- A slot that was bound is bound afresh (R296, R308): to its core's engine, when that has a free bank, else to the lowest of the cluster
that has one, and the bank's values go there. -/
def State.rebind (s : State) (q : SlotSt) (b : Option Bank) : State :=
  let e := if (s.freeBank q.core).isSome then some q.core
    else ((List.range 6).map fun j => 6 * clusterOf q.core + j).find? fun e => (s.freeBank e).isSome
  match b, e with
  | some b, some e =>
    let n := (s.freeBank e).getD 0
    (s.setBank { b with core := e, num := n }).setSlot { q with bank := some (e, n) }
  | _, _ => s.setSlot { q with bank := none }

/-- What a share of a cohort takes of its core (R158). -/
def Share.need (h : Share) : Need :=
  let n := h.blocks.length
  { m := n * h.maxM, e := if n = 0 then 0 else (n + 1) * h.maxS, strands := n, spans := if n = 0 then 0 else 1,
    w := h.granW.length, a := h.granA.length, c := h.granC.length }

/-- Two needs together. -/
def Need.add (p q : Need) : Need :=
  { m := p.m + q.m, e := p.e + q.e, strands := p.strands + q.strands, spans := p.spans + q.spans, w := p.w + q.w, a := p.a + q.a,
    c := p.c + q.c }

/-- The place that a context holds beyond its cohort's reservation (R183). -/
def Ctx.extra (x : Ctx) : Need :=
  let n := if x.place.isNone then 1 else 0
  { m := 0, e := 0, strands := if x.kind == CtxKind.span then 0 else n, spans := if x.kind == CtxKind.span then n else 0, w := 0, a := 0, c := 0 }

/-- The reservations of a folio fit on the cores of a slice group (R158, R432), granules being those of the same numbers. -/
def State.folioFits (s : State) (slice : Nat) (f : Folio) : Bool :=
  let inUnit (k : Cohort) : Bool := f.units.any fun u => k.unitOf == some u.id
  let shares := (f.cohorts.flatMap fun k => if inUnit k then [] else k.shares) ++ f.units.flatMap HeadUnit.shares
  let cores := uniq (shares.map Share.core ++ f.ctxs.map Ctx.core)
  cores.all fun c => match s.moveCore f.lead slice c with
    | none => false
    | some core =>
      let mine := shares.filter fun h => h.core == c
      let need := (mine.map Share.need ++ (f.ctxs.filter fun x => x.core == c).map Ctx.extra).foldl Need.add
        { m := 0, e := 0, strands := 0, spans := 0, w := 0, a := 0, c := 0 }
      need.fits (s.freeOf core) && [1, 2, 3].all fun space =>
        let ns := mine.flatMap fun h => h.grans space
        ns.all (s.freeGrans core space).contains && (uniq ns).length == ns.length

/-- Restore a folio on a slice group (R308, R357, R432): its contexts, and all that belongs to them, on the cores with the same
logical numbers; group records keep their generations (R367), each bound slot is bound afresh, and the inputs of MMAs that have started
are held again (R114). What stands at a place of the slice's memory stands at the same place of the new one. A constant image is not
part of a folio: a launch's cores read theirs anew (DESIGN CHOICE, log entry 112). -/
def State.restore (s : State) (slice : Nat) (f : Folio) (edits : Ctx → List (Nat × Nat × Bool)) : State :=
  let moved (core : Nat) : Nat := (s.moveCore f.lead slice core).getD core
  let d := s.clock - f.clock
  let lead := slice
  let sl (n : Nat) : Nat := (s.members slice).getD ((s.members f.lead).idxOf n) lead
  let share (h : Share) : Share := { h with core := moved h.core }
  let key (k : Nat) : Nat := (moved (k / 2 ^ 23) * 4 + k / 2 ^ 21 % 4) * 2 ^ 21 + k % 2 ^ 21
  let gran (g : Nat × Nat × Nat) : Nat × Nat × Nat := (moved g.1, g.2)
  let gone (n : Nat) : Bool := !(s.publs.any fun p => p.id == n)
  let byte (k : Phys) : Phys := s.moveKey f.lead slice k
  let item (i : Item) : Item :=
    let i := { i.later d with objs := i.objs.map fun o => 2 * byte (o / 2) + o % 2 }
    match i.wait with
    | .publ n => if gone n then { i with wait := .none } else i
    | .bar (.record core slot) h pd => { i with wait := .bar (.record (moved core) slot) h pd }
    | _ => i
  let ctx (x : Ctx) : Ctx :=
    { x with core := moved x.core, items := x.items.map item, acq := s.nextId, created := x.created + d, spill := .home }
  let again (k : Cohort) : Bool := f.cohorts.any fun c => c.launch == k.launch && c.num == k.num
  let tasks := f.tasks.map fun t => { t with core := moved t.core, slice := sl t.slice, engine := none, allowedSince := none, readySince := none }
  let s : State := { s with
    ctxs := s.ctxs ++ f.ctxs.map ctx,
    cohorts := s.cohorts.filter (fun k => !again k) ++ f.cohorts.map (fun k => { k with shares := k.shares.map share, phase := k.phase.later d }),
    units := s.units ++ f.units.map (fun u => { u with shares := u.shares.map share }),
    launches := s.launches ++ f.launches.map (fun l => { l with slice := sl l.slice }),
    groups := s.groups ++ f.groups.map (fun g => { g with core := moved g.core, phase := g.phase.later d }),
    grpGens := f.groups.foldl (fun m g => storeKey m (moved g.core, g.slot) g.gen) s.grpGens,
    ops := s.ops ++ f.ops.map (fun o => { o with core := moved o.core }),
    asu := s.asu ++ f.asu.map (fun r => { r with core := moved r.core, key := byte r.key,
                                                 cluster := s.ownerCluster (sliceOf (moved r.core)) (lineOf (byte r.key)),
                                                 waiting := false, seq := 0, stamp := [] }),
    copies := s.copies ++ f.copies.map (fun c =>
      { s.resumeCopy c (moved c.core) (sl c.slice) with dst := c.dst.map gran, src := c.src.map gran }),
    tasks := s.tasks ++ tasks,
    chains := s.chains ++ f.chains.map (fun c => { c with core := moved c.core }),
    grans := s.grans ++ f.grans.map (fun g => { g with core := moved g.core, holds := 0 }),
    shelf := f.shelf.foldl (fun m c => Memory.write m (key c.1) c.2) s.shelf,
    shelfPoison := f.shelfPoison.map (fun m => (key (m.1 * 32) / 32, m.2)) ++ s.shelfPoison.filter (fun m => !(f.shelfPoison.any fun p => key (p.1 * 32) / 32 == m.1)),
    faults := s.faults ++ f.faults.map (fun g => { g with slice := lead, core := moved g.core, seq := none }),
    taskFails := s.taskFails ++ f.fails.map (fun t => { t with core := moved t.core }), childFails := s.childFails ++ f.childFails }
  let s := f.slots.foldl (fun t q =>
    let b := q.bank.bind fun b => (f.banks.find? fun c => c.core == b.1 && c.num == b.2)
    let q' := { q with core := moved q.core }
    if q.bank.isSome then t.rebind q' b else t.setSlot q') s
  let s := f.cohorts.foldl (fun t k => k.shares.foldl (fun u h => match u.launch? k.launch with
    | some l => if h.blocks.isEmpty then u else u.firstOn l (moved h.core)
    | none => u) t) s
  let s := (tasks.filter TaskRec.holding).foldl (fun t k => (t.inGrans k).foldl (fun u g => u.holdGran g) t) s
  let s := f.copies.foldl (fun t c => t.askCurrent (moved c.core) 1 c.id (match t.launch? c.launch with
    | some l => t.effective l
    | none => 0)) s
  let s := f.ctxs.foldl (fun t x => (t.dropClean (moved x.core) fun _ => true).setCore (moved x.core) fun c => { c with acq := t.nextId }) s
  (s.applyEdits (f.ctxs.map ctx) edits).settleJoins

/-- R432: a GO with RESUME 1. What the folio area holds is checked, and what it holds is restored. A slice that has been cut resumes only
by the commit (R456). -/
def execPreemptResume (slice : Nat) (s : State) : Host.Outcome State Fault Refusal :=
  let st := (s.slice slice).pre
  let cut := (s.slice slice).ckState
  let may := (st == 4 || st == 5 || (st == 0 && (s.launchesOf slice).isEmpty)) && (cut == 0 || cut == 4)
  if s.leader slice != slice || !may || s.closed slice then .next s
  else
    let s := s.setSlice slice fun v => { v with preErr := 0 }
    let run (t : State) : Host.Outcome State Fault Refusal := .next ((t.setSlice slice fun v => { v with folio := none, image := [] }).enterDone slice 0)
    if fieldOfWord (s.vreg slice 0xE90) 0 20 = 0 then run s
    else match s.folioArea slice with
      | none => .next (s.preError slice 4)
      | some bs => match folioError bs (30 * (s.members slice).length), s.folioIn slice bs with
        | 0, some f => if s.folioFits slice f then run (s.restore slice f (edited bs)) else .next (s.preError slice 5)
        | 0, none => .next (s.preError slice 4)
        | n, _ => .next (s.preError slice n)

end Sys2Proof.Machine
end

