-- ==== Sys2Proof/Machine/Registers.lean ====
section
/-! DEFINITION. The registers of BAR0: what each reads, what a write of one stores, the counters that clear when they are
read, and the writes that act on the L2 banks (00 R5, R6, 01 R24, R25, 03 R85, 04 R89, R99, R107, 05 R132, 11 R335, 15 R433,
R501, 16 R436, 17 R476, R477, R500, 18 R484, R487). -/

namespace Sys2Proof.Machine

/-! ### Quiesced slices (R437) -/

/-- R437. -/
def State.quiesced (s : State) (slice : Nat) : Bool :=
  let mine (n : Nat) : Bool := s.leader n == s.leader slice
  let work (l : Launch) : Bool := l.reason == 0
  !((s.launchesOf (s.leader slice)).any work) && ((s.slice (s.leader slice)).parseQ).isEmpty
    && (s.ctxsOf (s.leader slice)).isEmpty
    && !(s.copies.any fun c => mine c.slice) && !(s.tasks.any fun t => mine t.slice)
    && !(s.chains.any fun c => mine (sliceOf c.core)) && !(s.descs.any fun d => mine d.slice)
    && !(s.syscalls.any fun c => mine c.slice)
    && !(s.pfaults.any fun p => mine p.slice && !p.waiters.isEmpty)

/-! ### Views (R5) -/

/-- DST_CAP0, DST_CAP1 and DST_CAPFLD0 to 3 (R24, R25). -/
def State.capability (s : State) (off : Nat) : Word :=
  if !s.valid then 0
  else
    let slices := (List.range 16).filter s.present
    let fields := (List.range 4).filter s.part.fields.toNat.testBit
    let clusters := (fields.map fun f => onesBelow 21 (s.part.clusters.getD f 0).toNat).sum
    let mask := (slices.map fun n => 2 ^ n).sum
    if off = 0x100 then
      .ofNat 32 (2 ^ 31 + s.part.fields.toNat * 2 ^ 24 + clusters * 2 ^ 16 + slices.length * 2 ^ 8 + onesBelow 16 s.part.stackMask.toNat)
    else if off = 0x104 then .ofNat 32 (mask * 2 ^ 16 + s.part.stackMask.toNat)
    else if 0x110 ≤ off ∧ off < 0x120 ∧ off % 4 = 0 then
      (if s.part.fields.toNat.testBit ((off - 0x110) / 4) then .ofNat 32 (s.part.clusters.getD ((off - 0x110) / 4) 0).toNat else 0)
    else 0

/-- SLC_IDENT (R436); of an absent slice only LEADER reads nonzero. -/
def State.ident (s : State) (slice : Nat) : Word :=
  let v := s.slice slice
  let lead := s.leader slice
  if !s.present slice then .ofNat 32 (slice % 16 * 2 ^ 24)
  else .ofNat 32 (2 ^ 31 + (if lead ≠ slice then 2 ^ 30 else 0) + lead * 2 ^ 24 + v.tdisp * 2 ^ 16 + v.rstgen)

/-- SLC_RSTs (R436). -/
def State.rstView (s : State) (slice : Nat) : Word :=
  let v := s.slice slice
  .ofNat 32 ((if v.clearing then 2 ^ 30 else 0) + (if v.clean then 2 ^ 29 else 0) + v.tdisp * 2 ^ 16 + v.rstgen)

/-- SLC_PRESTAT (R433). -/
def State.preView (s : State) (slice : Nat) : Word :=
  let v := s.slice slice
  .ofNat 32 (fieldOfWord (s.vreg slice 0xE88) 31 1 * 2 ^ 31 + v.pre * 2 ^ 28 + (if s.quiesced slice then 2 ^ 27 else 0)
    + v.preErr * 2 ^ 16 + v.nreset)

/-- Halves and lines that a partition owns in some banks (R99). -/
def State.owned (s : State) (pid : Nat) (here : L2Line → Bool) : Nat × Nat :=
  let ls := s.l2.filter fun l => l.owner == pid && here l
  ((ls.map fun l => halvesOf l.enc).sum, ls.length)

/-- L2B_OCCDATA and L2B_OCCSUM (R107). -/
def State.occupancy (s : State) (slice off : Nat) : Word :=
  let sel := s.vreg slice 0x624
  let pid := fieldOfWord sel 0 3
  let mem := s.members slice
  if off = 0x628 then
    match mem[fieldOfWord sel 8 11 / 80]? with
    | none => 0
    | some m =>
      let (h, n) := s.owned pid fun l => l.slice == m && l.bank == fieldOfWord sel 8 11 % 80
      .ofNat 32 (n * 2 ^ 16 + h)
  else .ofNat 32 (s.owned pid fun l => mem.contains l.slice).1

/-- CPE_SHWSTATn (R132): a pending `publ`, and the shadow copies outstanding. -/
def State.shadowView (s : State) (slice win : Nat) : Word :=
  let lead := s.leader slice
  let busy := s.publs.any fun p => s.leader p.slice == lead && p.win == win
  let out := (s.allCopies.filter fun c => s.leader c.slice == lead && c.win == some win).length
  .ofNat 32 ((if busy then 2 ^ 31 else 0) + out % 2 ^ 16)

/-- The slice is present and a member of another's group (R436). -/
def State.absorbed (s : State) (slice : Nat) : Bool := s.present slice && s.leader slice != slice

/-- What a read of a register of a slice's VF returns (R24, R436): of an absorbed one SLC_IDENT alone reads nonzero. -/
def State.readVf (s : State) (slice off : Nat) : Word :=
  if 0x100 ≤ off ∧ off < 0x120 then (if s.absorbed slice then 0 else s.capability off)
  else if off = 0x1000 then s.ident slice
  else if !s.serves slice then 0
  else if off = 0xE88 then s.preView slice
  else if off = 0xE0C then (if (s.slice slice).dumpErr then 16 else 0)
  else if off = 0x628 ∨ off = 0x634 then s.occupancy slice off
  else if 0x800 ≤ off ∧ off < 0x900 ∧ off % 16 = 8 then s.shadowView slice ((off - 0x800) / 16)
  else if off = 0x1110 then .ofNat 32 ((s.vreg slice off).toNat / 2 * 2 + if s.portH then 0 else 1)
  else s.vreg slice off

/-- A register of a slice's block in PF0 (R436, R444, R448, R455). -/
def State.readBlock (s : State) (slice off : Nat) : Word :=
  let v := s.slice slice
  let lead := s.slice (s.leader slice)
  let r := s.reg 0 (sliceReg slice off)
  if off = 4 then s.rstView slice
  else if off = 8 then .ofNat 32 lead.usage
  else if off = 0xC then .ofNat 32 (lead.usage / 2 ^ 32)
  else if off = 0x10 then .ofNat 32 (r.toNat + if (s.vreg slice 0x1004).toNat.testBit 0 then 2 ^ 28 else 0)
  else if off = 0x20 then .ofNat 32 ((if v.migOp != 0 then 2 ^ 31 else 0) + (if v.migDone then 2 ^ 30 else 0) + v.migErr * 2 ^ 16)
  else if off = 0x24 then setField r 28 3 v.ckState
  else if off = 0x30 then .ofNat 32 v.ckGen
  else r

/-- EDG_STATn (R476). -/
def EdgeSt.view (e : EdgeSt) : Word :=
  .ofNat 32 ((if e.busy then 2 ^ 31 else 0) + e.state * 2 ^ 28 + e.mode * 2 ^ 26 + e.err * 2 ^ 8)

/-- What a read of a register of PF0 returns (R24, R25, R436, R476, R484, R487). -/
def State.readPf (s : State) (off : Nat) : Word :=
  if 0x100 ≤ off ∧ off < 0x120 then s.capability off
  else if off = 0x30 then .ofNat 32 ((if s.fwBusy then 2 ^ 31 else 0) + s.fwErr * 2 ^ 16 + s.fwStep * 2 ^ 8)
  else if 0x20 ≤ off ∧ off < 0x30 then s.reg 0 off
  else if !s.valid then 0
  else if 0x140 ≤ off ∧ off < 0x150 then
    setField (s.reg 0 off) 0 15 (s.fields.getD ((off - 0x140) / 4) FieldSt.reset).est.toNat
  else if 0x2000 ≤ off ∧ off < 0x2100 ∧ off % 16 = 4 then (s.edge ((off - 0x2000) / 16)).view
  else if 0x4000 ≤ off ∧ off < 0x4400 then s.readBlock ((off - 0x4000) / 0x40) ((off - 0x4000) % 0x40)
  else s.reg 0 off

/-! ### Writes (R5, R6) -/

/-- Replace the bits of a mask. -/
def mergeBits (old val mask : Word) : Word := (old &&& ~~~mask) ||| (val &&& mask)

/-- Store the bits of a mask in a register; reserved and read-only bits of the value are discarded (R5, R6). -/
def State.storeBits (s : State) (fn off : Nat) (val mask : Word) : State := s.setReg fn off (mergeBits (s.reg fn off) val mask)

/-- Bits of a register of a VF that a plain write stores (R85, R107, R132, R394, R433, R436, R477). -/
def vfStored (off : Nat) : Word :=
  if off % 4 ≠ 0 then 0
  else if off = 0x408 then 0xFFFF0000
  else if off = 0x40C then 0xFFFF
  else if off = 0x410 then 0x000300FF
  else if off = 0x428 then 0xFF
  else if off = 0x620 then 7
  else if off = 0x624 then 0x0007FF07
  else if 0x680 ≤ off ∧ off < 0x700 then 7
  else if 0x800 ≤ off ∧ off < 0x900 ∧ off % 16 = 0 then 0xFFFFFFFF
  else if 0xD00 ≤ off ∧ off < 0xE00 ∧ off % 8 = 0 then 0xFFFFFFFF
  else if off = 0xE08 then 0x7F
  else if off = 0xE10 then 0x000FFFFE
  else if off = 0xE14 ∨ off = 0xE8C then 0x0FFFFFFF
  else if off = 0xE18 ∨ off = 0xE90 then 0x000FFFFF
  else if off = 0xE20 then 0xFFFFF000
  else if off = 0xE24 then 0xFFFFFFFF
  else if off = 0xE2C then 0x3F
  else if 0xE40 ≤ off ∧ off < 0xE80 then 3
  else if off = 0xE84 then 0xFFFFFFFF
  else if off = 0xE94 then 1
  else if off = 0x1004 then 1
  else if off = 0x1100 ∨ off = 0x1104 ∨ off = 0x1108 ∨ off = 0x1114 ∨ off = 0x1118 then 0x0FFFFFFF
  else if off = 0x110C then 0x000FFFFF
  else 0

/-- Bits of a register of a VF that a write of 1 clears (R85, R410, R433, R477). -/
def vfCleared (off : Nat) : Word :=
  if off = 0x200 then 0x80000000
  else if off = 0x414 then 2
  else if off = 0xE88 then 0x80000000
  else if off = 0x1110 then 2
  else 0

/-- Who may write a register of a VF (R394, R477). -/
def vfMayWrite (who : Writer) (off : Nat) : Bool :=
  if off = 0x1100 ∨ off = 0x1104 ∨ off = 0x1118 then who == .curator
  else if 0xD00 ≤ off ∧ off < 0xE00 then who != .curator && who != .fabric
  else true

/-- The bytes that a ring or table based at a register takes, where a base beyond the slice's memory is discarded (R85,
R501). -/
def ringBytes (off : Nat) : Nat := if off = 0x400 then 2048 else if off = 0x420 then 4096 else 8192

/-- A write of CPE_SHWBASEn while the window is enabled breaks the window (R9, R132). -/
def State.baseWritten (s : State) (slice off : Nat) : State :=
  let n := (off - 0x800) / 16
  if 0x800 ≤ off ∧ off < 0x900 ∧ off % 16 = 0 ∧ (s.vreg slice (0x804 + 16 * n)).toNat.testBit 31 = true then s.breakWindow slice n true else s

/-- A write of a register of a slice's VF (R85, R436, R437, R501). -/
def State.writeVf (s : State) (who : Writer) (slice off : Nat) (val : Word) : State :=
  if !s.serves slice || !vfMayWrite who off then s
  else if off = 0x400 ∨ off = 0x420 ∨ off = 0xE00 then
    let mask : Word := if off = 0xE00 then 0x0FFFFFFE else 0x0FFFFFFF
    let inside := decide ((val &&& mask).toNat * 4096 + ringBytes off ≤ s.localSize slice)
    if !inside || (off != 0xE00 && !s.quiesced slice) then s else s.storeBits (slice + 1) off val mask
  else if 0x480 ≤ off ∧ off < 0x500 ∧ off % 4 = 0 then
    if s.quiesced slice then s.storeBits (slice + 1) off val 0xFF else s
  else
    let s := (s.baseWritten slice off).storeBits (slice + 1) off val (vfStored off)
    s.storeBits (slice + 1) off 0 (val &&& vfCleared off)

/-- Every logical plane that is in use is parked (R471, R476): each plane below the count that some group carries. -/
def State.allParked (s : State) : Bool := (List.range 8).all fun p => (s.planeGroups p).isEmpty || s.parkedClass p

/-- Bits of a register of PF0 that a plain write stores (R436, R448, R455, R476, R487). -/
def pfStored (off : Nat) : Word :=
  if off % 4 ≠ 0 then 0
  else if off = 0x20 then 0xFFFFF000
  else if off = 0x24 ∨ off = 0x28 then 0xFFFFFFFF
  else if 0x2200 ≤ off ∧ off < 0x2600 then 0x000FFFFF
  else if 0x4000 ≤ off ∧ off < 0x4400 then
    (match (off - 0x4000) % 0x40 with
      | 0x18 => 0xFFFFF000
      | 0x1C => 0xFFFFFFFF
      | 0x24 => 0x8FFFC000
      | 0x28 => 0x0FFFFFFF
      | 0x2C => 0x001FFFFF
      | _ => 0)
  else 0

/-- The host, or the Curator of the lowest present slice for the fabric manager (R470, R500). -/
def fabricWrites (w : Writer) : Bool := w != .cmd

/-- A write of a register of PF0 (R436, R463, R476, R478, R484, R487, R500). -/
def State.writePf (s : State) (who : Writer) (off : Nat) (val : Word) : State :=
  if !s.valid then
    if 0x20 ≤ off ∧ off < 0x2C then s.storeBits 0 off val (pfStored off) else s
  else if 0x140 ≤ off ∧ off < 0x150 ∧ off % 4 = 0 then
    s.storeBits 0 off val (if who == .curator then 0xFFFF8000 else 0x001F8000)
  else if 0x2000 ≤ off ∧ off < 0x2100 ∧ off % 16 = 0 then
    if val.toNat.testBit 31 then s else s.storeBits 0 off val 0x0FF00000
  else if off = 0x2100 then if s.allParked then s.storeBits 0 off val 3 else s
  else if off = 0x2104 then if fabricWrites who && s.allParked then s.storeBits 0 off val 0x800003FF else s
  else if 0x2110 ≤ off ∧ off < 0x2130 ∧ off % 4 = 0 then
    let p := (off - 0x2110) / 4
    if (s.planeGroups p).isEmpty || s.parkedClass p then s.storeBits 0 off val 0xFFFF else s
  else if 0x4000 ≤ off ∧ off < 0x4400 ∧ off % 0x40 = 0x20 then
    if val.toNat.testBit 30 then s.setSlice ((off - 0x4000) / 0x40) fun v => { v with migDone := false } else s
  else s.storeBits 0 off val (pfStored off)

/-! ### Registers that act on the L2 banks (R89, R99) -/

/-- The banks of a slice group write back every dirty line and drop every line (R89). -/
def State.emptyBanks (s : State) (slice : Nat) : State :=
  (s.l2.filter fun l => s.leader l.slice == s.leader slice).foldl (fun t l => t.dropLine l) s

/-- R89. -/
def execL2bHashctlWrite (slice : Nat) (val : Word) (s : State) : Host.Outcome State Fault Refusal :=
  let bad := val.toNat.testBit 31 && decide (79 < fieldOfWord val 0 7)
  if !s.serves slice || !s.quiesced slice || bad then .next s
  else .next ((s.emptyBanks slice).storeBits (slice + 1) 0x630 val 0x8000007F)

/-- R99: a partition's new mask holds for every later search. -/
def execL2bPidmaskWrite (slice pid : Nat) (val : Word) (s : State) : Host.Outcome State Fault Refusal :=
  if !s.serves slice || 8 ≤ pid then .next s
  else .next (s.storeBits (slice + 1) (0x600 + 4 * pid) val 0xFFFF)

/-! ### Counters that clear when they are read (R5) -/

/-- A read of a register of a slice's VF, after which some of its fields clear (R5). -/
def State.readClear (s : State) (slice off : Nat) (mask : Word) : State :=
  let t := s.reply (.word (s.readVf slice off))
  if s.serves slice then t.storeBits (slice + 1) off 0 mask else t

/-- R85. -/
def execSlcEcccorRead (slice : Nat) (s : State) : Host.Outcome State Fault Refusal := .next (s.readClear slice 0x440 (-1))
/-- R85. -/
def execSlcEccuncRead (slice : Nat) (s : State) : Host.Outcome State Fault Refusal := .next (s.readClear slice 0x444 (-1))
/-- R107. -/
def execL2bRecallRead (slice : Nat) (s : State) : Host.Outcome State Fault Refusal := .next (s.readClear slice 0x62C (-1))
/-- R307. -/
def execMxeSatcntRead (slice : Nat) (s : State) : Host.Outcome State Fault Refusal := .next (s.readClear slice 0xA00 (-1))
/-- R307. -/
def execMxeNancntRead (slice : Nat) (s : State) : Host.Outcome State Fault Refusal := .next (s.readClear slice 0xA04 (-1))
/-- R335. -/
def execSlcDropcntRead (slice : Nat) (s : State) : Host.Outcome State Fault Refusal := .next (s.readClear slice 0x448 (-1))
/-- R410. -/
def execDstLrefcntRead (slice : Nat) (s : State) : Host.Outcome State Fault Refusal := .next (s.readClear slice 0x204 (-1))
/-- R433. -/
def execCpeCpycntRead (slice : Nat) (s : State) : Host.Outcome State Fault Refusal := .next (s.readClear slice 0xEA0 (-1))
/-- R433: NDROP clears. -/
def execSlcScrheadRead (slice : Nat) (s : State) : Host.Outcome State Fault Refusal := .next (s.readClear slice 0xE28 0xFF00)
/-- R477: STRANDED and LOST clear, and the next stranded line goes to the start of the area. -/
def execSlcLinkevtRead (slice : Nat) (s : State) : Host.Outcome State Fault Refusal :=
  .next ((s.readClear slice 0x1110 0xFFFFFF00).setSlice slice fun v => { v with stranded := if s.serves slice then 0 else v.stranded })

end Sys2Proof.Machine
end

