-- ==== Sys2Proof/Machine/Slices.lean ====
section
/-! DEFINITION. Slices and slice groups, TDISP, attestation, clearing and containment (16 R434 to R447, 20 R497, R498). -/

namespace Sys2Proof.Machine

/-! ### Slice-only reset and clearing (R443 to R446) -/

/-- Migration control of a slice (R448). -/
def State.migCtl (s : State) (slice : Nat) : Word := s.reg 0 (sliceReg slice 0x10)
/-- ROLE: 0 none, 1 source, 2 destination. -/
def State.role (s : State) (slice : Nat) : Nat := fieldOfWord (s.migCtl slice) 30 2

/-- The other side of a migration, when it lies in this package (R448). -/
def State.migPeer (s : State) (slice : Nat) : Option Nat :=
  let id := s.reg 0 0x2104
  let c := s.migCtl slice
  let p := fieldOfWord c 20 4
  if id.toNat.testBit 31 && fieldOfWord id 0 10 == fieldOfWord c 10 10 && s.present p && p != slice then some p else none

/-- Clearing starts on a slice group (R443). -/
def State.startClearing (s : State) (slice : Nat) : State :=
  s.setMembers slice fun v => { v with clearing := true, clean := false }

/-- The migration command of a source that sends to a slice ends with ERR 3, its destination being gone (R452; DESIGN CHOICE, log
entry 114). -/
def State.loseDestination (s : State) (d : Nat) : State :=
  match s.migPeer d with
  | some a =>
    if s.role d = 2 ∧ s.role a = 1 ∧ s.migPeer a = some d ∧ 2 ≤ (s.slice a).migOp then
      s.setSlice a fun v => { v with migErr := 3, migOp := 0, sendLeft := PageSet.none, sendPart := [] }
    else s
  | none => s

/-- A slice-only reset of one group (R446, R452): a migration of it ends with ERR 6, its interface leaves CONFIG_LOCKED or RUN
for ERROR, and clearing starts. -/
def State.resetOne (s : State) (slice : Nat) : State :=
  let lead := s.leader slice
  let s := if s.role lead = 0 then s else
    (s.loseDestination lead).setSlice lead fun v => { v with migErr := 6, migOp := 0, sendLeft := PageSet.none, sendPart := [] }
  (s.startClearing slice).setMembers slice fun v => { v with tdisp := if v.tdisp = 1 ∨ v.tdisp = 2 then 3 else v.tdisp }

/-- A slice-only reset (R446); the destination of a migration that it ends is reset too (R452). -/
def State.resetSlice (s : State) (slice : Nat) : State :=
  let lead := s.leader slice
  let other := if s.role lead = 1 then s.migPeer lead else none
  let s := s.resetOne slice
  match other with
  | some d => if s.role d = 2 && !s.closed d then s.resetOne d else s
  | none => s

/-- R446: a GO to SLC_RSTs; discarded while BUSY (R445). -/
def execSliceOnlyReset (slice : Nat) (s : State) : Host.Outcome State Fault Refusal :=
  if !s.present slice || s.closed slice then .next s else .next (s.resetSlice slice)

/-- R444. -/
def execUsageClear (slice : Nat) (s : State) : Host.Outcome State Fault Refusal :=
  if !s.present slice then .next s else .next (s.setSlice (s.leader slice) fun v => { v with usage := 0 })

/-- The launches that a folio holds are the slice's again, with every item ended, and so are its copies (R443). -/
def State.unfolio (s : State) (slice : Nat) : State :=
  match (s.slice slice).folio with
  | none => s
  | some f =>
    let held (l : Launch) : Nat := ((f.ctxs.filter fun x => x.launch == l.num).map fun x => x.items.length).sum
    let ls := f.launches.map fun l => { l with slice := slice, ended := l.ended + held l }
    let cs := f.copies.map fun c => s.resumeCopy c ((s.moveCore f.lead slice c.core).getD c.core) slice
    ({ s with launches := s.launches ++ ls, copies := s.copies ++ cs } : State).setSlice slice fun v => { v with folio := none, image := [] }

/-- Step 1 of clearing (R443): every context, copy, chain and launch of a slice group ends. -/
def State.endSlice (s : State) (slice : Nat) : State :=
  let mine (n : Nat) : Bool := s.leader n == slice
  let s := (s.resetCtxs (s.ctxsOf slice) false).unfolio slice
  let ls := (s.launchesOf slice).map Launch.num
  let s := (s.cohorts.filter fun k => ls.contains k.launch).foldl (fun t k =>
    k.shares.foldl (fun u h => u.discardDesk h.core k.launch k.num) t) s
  let failed := s.pfaults.filter fun p => mine p.slice
  let s := failed.foldl (fun t p => (p.waiters.filter fun w => w.ctx.isNone && w.copy.isNone).foldl (fun u w => u.deviceFault w 0x04) t) s
  let stop (l : Launch) : Launch := if ls.contains l.num then { l with stopped := true, status := max l.status 6 } else l
  let end8 (c : Copy) : Copy := if mine c.slice && c.force.isNone then { c with force := some 8, fault := none } else c
  let s : State := { s with
    launches := s.launches.map stop, copies := s.copies.map end8, pfaults := s.pfaults.filter (fun p => !mine p.slice),
    walks := s.walks.filter (fun w => !mine w.slice), lent := s.lent.filter (fun l => !mine l.slice),
    invals := s.invals.filter (fun v => !mine v.slice),
    faults := s.faults.filter (fun f => !mine f.slice), syscalls := s.syscalls.filter (fun c => !mine c.slice),
    childFails := s.childFails.filter (fun f => !ls.contains f.launch), publs := s.publs.filter (fun p => !mine p.slice),
    descs := s.descs.filter (fun d => !mine d.slice) }
  (s.setSlice slice fun v => { v with parseQ := [], ctbReqs := [] }).endForced

/-- Something of a slice group is left for step 1 of clearing. -/
def State.endDue (s : State) (slice : Nat) : Bool :=
  let mine (n : Nat) : Bool := s.leader n == slice
  !(s.ctxsOf slice).isEmpty || (s.slice slice).folio.isSome || ((s.launchesOf slice).any fun l => !l.stopped)
    || (s.copies.any fun c => mine c.slice && c.force.isNone) || (s.tasks.any fun t => mine t.slice)
    || (s.pfaults.any fun p => mine p.slice) || (s.walks.any fun w => mine w.slice) || (s.faults.any fun f => mine f.slice)
    || (s.syscalls.any fun c => mine c.slice) || (s.descs.any fun d => mine d.slice) || !(s.slice slice).parseQ.isEmpty

/-- R443: the sequencer ends what runs on the slice group. -/
def execClearingSequence (slice : Nat) (s : State) : Host.Outcome State Fault Refusal :=
  if s.leader slice != slice || !(s.slice slice).clearing then .next s else .next (s.endSlice slice)

/-- Every launch has completed and every write is acknowledged (step 2 of R443). -/
def State.clearDrained (s : State) (slice : Nat) : Bool :=
  let core (c : Nat) : Bool := s.leader (sliceOf c) == slice
  let mine (n : Nat) : Bool := s.leader n == slice
  !s.endDue slice && (s.launchesOf slice).isEmpty && !(s.copies.any fun c => mine c.slice)
    && !(s.ops.any fun o => core o.core) && !(s.asu.any fun r => core r.core && !r.fromPeer) && s.cleanL1 slice
    && !(s.homeWrites.any fun w => mine w.slice && !w.cells.isEmpty) && !(s.xwrites.any fun w => w.cells.any fun c =>
      Phys.isLocal c.1 && mine (c.1 / 2 ^ 36))

/-- Steps 3, 4 and 6 of clearing (R82, R106, R443): the banks, the cores, the launch window and the stack of a slice group. -/
def State.wipe (s : State) (slice : Nat) : State :=
  let ms := s.members slice
  let mine (n : Nat) : Bool := ms.contains n
  let core (c : Nat) : Bool := mine (sliceOf c)
  let stack (line : Nat) : Bool := decide (line * 128 < 2 ^ 40) && mine (line * 128 / 2 ^ 36)
  let s := (s.l2.filter fun l => mine l.slice).foldl (fun t l => t.dropLine l) s
  { s with
    dir := s.dir.filter (fun d => !stack d.line), homeWrites := s.homeWrites.filter (fun w => !stack w.line),
    window := s.window.filter (fun c => !mine (c.1 / 65536)), shelf := s.shelf.filter (fun c => !core (c.1 / 2 ^ 23)),
    shelfPoison := s.shelfPoison.filter (fun m => !core (m.1 * 32 / 2 ^ 23)), l1 := s.l1.filter (fun l => !core l.core),
    tlb := s.tlb.filter (fun e => !mine e.slice), ctlb := s.ctlb.filter (fun e => !mine e.slice),
    wcache := s.wcache.filter (fun e => !mine e.slice), walks := s.walks.filter (fun w => !mine w.slice),
    lent := s.lent.filter (fun l => !mine l.slice), oldCode := s.oldCode.filter (fun e => !stack (e.sector / 4)),
    invals := s.invals.filter (fun v => !mine v.slice), grans := s.grans.filter (fun g => !core g.core),
    banks := s.banks.filter (fun b => !core b.core), slots := s.slots.filter (fun q => !core q.core),
    tasks := s.tasks.filter (fun t => !core t.core), chains := s.chains.filter (fun c => !core c.core),
    taskFails := s.taskFails.filter (fun f => !core f.core), doneCopies := s.doneCopies.filter (fun c => !core c.core),
    curReqs := s.curReqs.filter (fun q => !core q.core), consts := s.consts.filter (fun k => !core k.core),
    groups := s.groups.filter (fun g => !core g.core), publs := s.publs.filter (fun p => !mine p.slice),
    asu := s.asu.filter (fun r => !core r.core), barDl := s.barDl.filter (fun b => !mine b.slice), reports := s.reports.filter (fun r => !core r.core),
    mem := s.mem.filter (fun c => !mine (c.1 / 2 ^ 36)), poison := s.poison.filter (fun n => !stack (n / 4)),
    ecc := s.ecc.filter (fun e => !stack (e.1 / 4)), l2err := s.l2err.filter fun e => !stack (e.1.2 / 4) }

/-- What a slice keeps through a clearing, and what it holds after it (R394, R443, R497, R498). -/
def SliceSt.cleared (v : SliceSt) (lead : Bool) : SliceSt :=
  { v with
    clean := true, clearing := false, stopPending := false, tdisp := if v.stopPending then 0 else v.tdisp,
    rstgen := (v.rstgen + 1) % 65536, hostw := false, keyGen := v.keyGen + 1, pre := 0, preErr := 0, nreset := 0, parseQ := [],
    ctbReqs := [], rr := List.replicate 8 0, bindDue := lead, spdm := { v.spdm with opening := [], sessions := [] }, meas7 := none, pull := PageSet.none,
    pulling := [], hostPulls := [], stranded := 0, ueIndex := 0, dumpErr := false, badWin := [], folio := none, image := [] }

/-- Steps 3 to 7 of clearing (R443). -/
def State.finishClearing (s : State) (slice : Nat) : State :=
  let ms := s.members slice
  let s := s.wipe slice
  let s : State := { s with regs := s.regs.filter fun r => r.1.1 = 0 || !ms.contains (r.1.1 - 1) }
  let s : State := if (s.slice slice).stopPending then { s with resp := some .ok } else s
  let s := ms.foldl (fun t k => t.setSlice k fun v => v.cleared (k == slice)) s
  -- SLC_GRPAPPLY.BUSY clears with the last clearing that the apply began (R436)
  let r := s.reg 0 0x3F00
  if (List.range 16).any fun k => r.toNat.testBit k && (s.slice k).clearing then s else s.setReg 0 0x3F00 (setField r 30 1 0)

/-- R443. -/
def execClearingComplete (slice : Nat) (s : State) : Host.Outcome State Fault Refusal :=
  if s.leader slice != slice || !(s.slice slice).clearing || !s.clearDrained slice then .next s else .next (s.finishClearing slice)

/-! ### Slice groups (R434, R436, R439) -/

/-- The leader that the registers name for the next apply (R436). -/
def State.nextLead (s : State) (n : Nat) : Nat := fieldOfWord (s.reg 0 (sliceReg n 0)) 0 4

/-- The slices whose LEAD is l, of those a test allows. -/
def State.nextGroup (s : State) (l : Nat) (ok : Nat → Bool) : List Nat := (List.range 16).filter fun n => s.nextLead n == l && ok n

/-- The apply would change the group of a present slice (R434). -/
def State.groupChanges (s : State) (n : Nat) : Bool :=
  s.present n && s.nextGroup (s.nextLead n) s.present != (s.members n).filter s.present

/-- What is wrong with the groups that the registers name: the ERR of SLC_GRPAPPLY (R434, R436). -/
def State.applyError (s : State) : Nat :=
  let leads := ((List.range 16).filter s.present).map s.nextLead
  if leads.any fun l => !([1, 2, 4, 8, 16].contains (s.nextGroup l fun _ => true).length) then 1
  else if leads.any fun l => (s.nextGroup l fun _ => true).any fun n => !s.present n then 2
  else if leads.any fun l => s.nextLead l != l then 3
  else if (List.range 16).any fun n => s.groupChanges n && ((s.slice n).tdisp != 0 || !(s.slice n).clean || (s.slice n).clearing) then 4
  else 0

/-- R434, R435: a GO to SLC_GRPAPPLY. The lowest member leads a group, whichever member its registers name (DEDUCED, log entry 95). -/
def execSliceGroupApply (s : State) : Host.Outcome State Fault Refusal :=
  let r := s.reg 0 0x3F00
  if !s.valid || r.toNat.testBit 30 then .next s
  else
    match s.applyError with
    | 0 =>
      let changed := (List.range 16).filter s.groupChanges
      let mask := (changed.map fun n => 2 ^ n).sum
      let ns := (List.range 16).map fun n => (n, ((s.nextGroup (s.nextLead n) s.present).headD n))
      let present := (List.range 16).filter s.present
      let t := ns.foldl (fun u p => if present.contains p.1 then u.setSlice p.1 fun v => { v with lead := p.2 } else u) s
      let t := changed.foldl (fun u n => u.setSlice n fun v => { v with clearing := true, clean := false }) t
      .next (t.setReg 0 0x3F00 (.ofNat 32 ((if changed.isEmpty then 0 else 2 ^ 30) + mask)))
    | e => .next (s.setReg 0 0x3F00 (.ofNat 32 (e * 2 ^ 16)))

/-- The interface of a slice is locked (R439). -/
def State.locked (s : State) (slice : Nat) : Bool :=
  let t := (s.slice (s.leader slice)).tdisp
  t == 1 || t == 2

/-- A write that would change a locked item (R439): it is discarded, the interface goes to ERROR, and the slice is reset; a clearing that
runs already serves the reset too (R445). -/
def State.lockedWrite (s : State) (slice : Nat) : State :=
  if s.closed slice then s.setMembers (s.leader slice) fun v => { v with tdisp := 3 } else s.resetSlice slice

/-! ### Configuration space (R436, R439, R484) -/

/-- The SR-IOV capability's constants (R436): TotalVFs, InitialVFs, First VF Offset and VF Stride. -/
structure Sriov where
  totalVfs : Nat
  initialVfs : Nat
  firstVfOffset : Nat
  vfStride : Nat
  deriving DecidableEq, Repr

/-- R436. -/
def sriov : Sriov := { totalVfs := 16, initialVfs := 16, firstVfOffset := 1, vfStride := 1 }

/-- The routing number of a slice's VF (R436). -/
def vfNumber (slice : Nat) : Nat := sriov.firstVfOffset + sriov.vfStride * slice

/-- Where PF0's SR-IOV capability stands in its configuration space (PRESUMED, log entry 115). -/
def sriovCap : Nat := 0x160

/-- What a read of PF0's configuration space returns of its SR-IOV capability (R436, R484): the layout is PCI Express's (PRESUMED, log
entry 115). -/
def State.readSriov (s : State) (off : Nat) : Word :=
  if off = sriovCap + 0xC then .ofNat 32 (sriov.totalVfs * 2 ^ 16 + sriov.initialVfs)
  else if off = sriovCap + 0x14 then .ofNat 32 (sriov.vfStride * 2 ^ 16 + sriov.firstVfOffset)
  else s.reg configFn off

/-- The bits of a VF's configuration space that R439 locks: the Command register's memory enable, the BARs, and the MSI-X capability
(offsets PRESUMED, log entry 115). -/
def lockedConfig (off : Nat) : Word :=
  if off = 4 then 2
  else if 0x10 ≤ off ∧ off < 0x28 ∧ off % 4 = 0 then 0xFFFFFFFF
  else if 0xB0 ≤ off ∧ off < 0xBC ∧ off % 4 = 0 then 0xFFFFFFFF
  else 0

/-- A write of configuration space: of PF0 NumVFs, which is held at 0 before bring-up (R484); of a VF what R439 locks. -/
def State.writeConfig (s : State) (n off : Nat) (val : Word) : State :=
  match n with
  | 0 => if s.valid && off == sriovCap + 0x10 then s.storeBits configFn off val 0xFFFF else s
  | k + 1 =>
    let fn := configFn + vfNumber k
    let new := mergeBits (s.reg fn off) val (lockedConfig off)
    if !s.valid || 16 ≤ k || new == s.reg fn off then s
    else if s.locked k then s.lockedWrite k
    else s.storeBits fn off val (lockedConfig off)

/-- R5, R6, R436, R439: a write of a register that has no event of its own, in BAR0 of a function or in its configuration space. -/
def execRegisterWrite (who : Writer) (fn off : Nat) (val : Word) (s : State) : Host.Outcome State Fault Refusal :=
  .next (if configFn ≤ fn then s.writeConfig (fn - configFn) off val
    else match fn with
      | 0 => s.writePf who off val
      | n + 1 => s.writeVf who n off val)

/-- R436, R439: LEAD is written. -/
def execSlcGrpWrite (slice : Nat) (val : Word) (s : State) : Host.Outcome State Fault Refusal :=
  if !s.valid || 16 ≤ slice then .next s
  else if s.locked slice then
    if fieldOfWord val 0 4 = s.nextLead slice then .next s else .next (s.lockedWrite slice)
  else .next (s.storeBits 0 (sliceReg slice 0) val 15)

/-! ### TDISP (R438 to R440) -/

/-- The value of measurement index 7 (R497). -/
def State.index7 (s : State) (slice : Nat) : Word :=
  let v := s.slice slice
  .ofNat 32 (v.rstgen + v.tdisp * 2 ^ 16 + if v.hostw then 2 ^ 24 else 0)

/-- The TDISP error codes INVALID_REQUEST and INVALID_INTERFACE_STATE. -/
def tdispInvalidRequest : Nat := 1
def tdispInvalidState : Nat := 4

/-- A TDISP message to a slice's VF: refused where the VF is absent or absorbed, discarded without a secured session
(R436, R438, R498). -/
def State.tdisp (s : State) (slice : Nat) (act : State → State) : State :=
  if !s.serves slice then s.reply .refused
  else if (s.slice slice).spdm.sessions.isEmpty then s
  else act s

/-- R440. -/
def execLockInterfaceRequest (slice : Nat) (s : State) : Host.Outcome State Fault Refusal :=
  .next (s.tdisp slice fun s =>
    let v := s.slice slice
    if v.tdisp ≠ 0 then s.reply (.error tdispInvalidState)
    else if !v.clean || v.meas7 != some (s.index7 slice) then s.reply (.error tdispInvalidRequest)
    else
      let s := s.setMembers slice fun v => { v with tdisp := 1 }
      (s.setSlice slice fun v => { v with usage := 0 }).reply .ok)

/-- R438. -/
def execStartInterfaceRequest (slice : Nat) (s : State) : Host.Outcome State Fault Refusal :=
  .next (s.tdisp slice fun s =>
    if (s.slice slice).tdisp ≠ 1 then s.reply (.error tdispInvalidState)
    else (s.setMembers slice fun v => { v with tdisp := 2 }).reply .ok)

/-- R438, R443, R445: a STOP is answered once the slice is clean. -/
def execStopInterfaceRequest (slice : Nat) (s : State) : Host.Outcome State Fault Refusal :=
  .next (s.tdisp slice fun s =>
    let v := s.slice slice
    if v.tdisp = 0 then s.reply (.error tdispInvalidState)
    else if v.clearing then s.setMembers slice fun v => { v with stopPending := true }
    else if v.clean then (s.setMembers slice fun v => { v with tdisp := 0 }).reply .ok
    else (s.startClearing slice).setMembers slice fun v => { v with stopPending := true })

/-- R438: the report, whose contents are the TDISP specification's. -/
def execGetDeviceInterfaceReport (slice : Nat) (s : State) : Host.Outcome State Fault Refusal :=
  .next (s.tdisp slice fun s =>
    if (s.slice slice).tdisp ≠ 1 then s.reply (.error tdispInvalidState) else s.reply (.bytes (Config.interfaceReport slice)))

/-! ### SPDM (R441, R442, R498) -/

/-- An SPDM request to a slice's responder: the connection must have come as far as a stage, else an error answers. -/
def State.spdmRequest (s : State) (slice stage : Nat) (act : State → State) : State :=
  if !s.present slice then s
  else if (s.slice slice).spdm.stage < stage then s.reply (.error 4)
  else act s

/-- Change a slice's responder. -/
def State.setSpdm (s : State) (slice : Nat) (f : Spdm → Spdm) : State := s.setSlice slice fun v => { v with spdm := f v.spdm }

/-- A signature by the slice's alias key (R441). -/
def State.signature (s : State) : List Byte := leBytes 64 (Config.signature s.free).toNat

/-- R441. -/
def execGetVersion (slice : Nat) (s : State) : Host.Outcome State Fault Refusal :=
  .next (s.spdmRequest slice 0 fun s => (s.setSpdm slice fun p => { p with stage := 1 }).reply .ok)

/-- R441. -/
def execGetCapabilities (slice : Nat) (s : State) : Host.Outcome State Fault Refusal :=
  .next (s.spdmRequest slice 1 fun s => (s.setSpdm slice fun p => { p with stage := max p.stage 2 }).reply .ok)

/-- R441: only one algorithm of each kind is negotiated. -/
def execNegotiateAlgorithms (slice : Nat) (offer : SpdmOffer) (s : State) : Host.Outcome State Fault Refusal :=
  .next (s.spdmRequest slice 2 fun s =>
    if offer.ed25519 && offer.sha512 && offer.secp384r1 && offer.aes256gcm then
      (s.setSpdm slice fun p => { p with stage := 3 }).reply .ok
    else s.reply (.error 1))

/-- R441. -/
def execGetDigests (slice : Nat) (s : State) : Host.Outcome State Fault Refusal :=
  .next (s.spdmRequest slice 3 fun s => s.reply (.bytes (sha512 (Config.certChain slice))))

/-- R441: slot 0 holds the chain. -/
def execGetCertificate (slice slot : Nat) (s : State) : Host.Outcome State Fault Refusal :=
  .next (s.spdmRequest slice 3 fun s => if slot = 0 then s.reply (.bytes (Config.certChain slice)) else s.reply (.error 1))

/-- R441: the answer holds the chain's digest and a signature. -/
def execChallenge (slice slot : Nat) (s : State) : Host.Outcome State Fault Refusal :=
  .next (s.spdmRequest slice 3 fun s => 
    if slot = 0 then s.draw.reply (.bytes (sha512 (Config.certChain slice) ++ s.signature)) else s.reply (.error 1))

/-- The bring-up record as a number, for its digest. -/
def recordNumber (es : List BringEntry) : Nat :=
  es.foldl (fun n e => ((n * 64 + e.step) * 4 + e.method) * 2048 + e.attempts * 8 + (match e.result with
    | .passed => 4
    | .failed => 2
    | .cut => 0) + if e.altFailed then 1 else 0) 1

/-- The 16 bytes that index 5 measures (R442). -/
def State.configBytes (s : State) (slice : Nat) : List Byte :=
  leBytes 1 slice ++ leBytes 1 (s.leader slice) ++ leBytes 2 (2 ^ (s.members slice).length - 1) ++ leBytes 4 (s.capability 0x100).toNat
    ++ leBytes 4 (s.capability 0x104).toNat ++ leBytes 4 (s.capability (0x110 + 4 * (slice / 4))).toNat

/-- The value of a measurement index (R442): a SHA-512 digest, of index 7 the value itself. -/
def State.measurement (s : State) (slice index : Nat) : List Byte :=
  if index = 7 then leBytes 4 (s.index7 slice).toNat
  else
    sha512 (if index = 5 then s.configBytes slice else Config.measured index (if index = 6 then recordNumber s.measured else s.measure))

/-- R442: the measurements asked for, each with its index, and a signature when one is asked for. -/
def execGetMeasurements (slice : Nat) (indices : List Nat) (sign : Bool) (s : State) : Host.Outcome State Fault Refusal :=
  .next (s.spdmRequest slice 3 fun s =>
    if indices.all fun n => decide (1 ≤ n) && decide (n ≤ 7) then
      let body := indices.flatMap fun n => leBytes 1 n ++ s.measurement slice n
      let s := if sign && indices.contains 7 then s.setSlice slice fun v => { v with meas7 := some (s.index7 slice) } else s
      if sign then s.draw.reply (.bytes (body ++ s.signature)) else s.reply (.bytes body)
    else s.reply (.error 1))

/-- R441: a session begins to be established; the answer names it. -/
def execKeyExchange (slice : Nat) (s : State) : Host.Outcome State Fault Refusal :=
  .next (s.spdmRequest slice 3 fun s =>
    let n := (s.slice slice).spdm.nextId
    (s.setSpdm slice fun p => { p with opening := p.opening ++ [n], nextId := n + 1 }).reply (.word (.ofNat 32 n)))

/-- R441. -/
def execFinish (slice session : Nat) (s : State) : Host.Outcome State Fault Refusal :=
  .next (s.spdmRequest slice 3 fun s =>
    if (s.slice slice).spdm.opening.contains session then
      (s.setSpdm slice fun p => { p with opening := p.opening.erase session, sessions := p.sessions ++ [session] }).reply .ok
    else s.reply (.error 4))

/-- R441, R498: a message that names an ended session is discarded. -/
def execEndSession (slice session : Nat) (s : State) : Host.Outcome State Fault Refusal :=
  .next (s.spdmRequest slice 3 fun s =>
    if (s.slice slice).spdm.sessions.contains session then
      (s.setSpdm slice fun p => { p with sessions := p.sessions.erase session }).reply .ok
    else s)

end Sys2Proof.Machine
end

