-- ==== Sys2Proof/Machine/Migration.lean ====
section
/-! DEFINITION. Live migration, pulled pages and buddy checkpoints (16 R448 to R459). -/

namespace Sys2Proof.Machine

/-! ### Control and commands (R448 to R452) -/

/-- R439, R448, R449: migration control is written. -/
def execSlcMigctlWrite (slice : Nat) (val : Word) (s : State) : Host.Outcome State Fault Refusal :=
  if !s.valid || 16 ≤ slice || fieldOfWord val 30 2 = 3 then .next s
  else
    let old := s.migCtl slice
    let peer (w : Word) : Nat × Nat × Nat := (fieldOfWord w 30 2, fieldOfWord w 20 4, fieldOfWord w 10 10)
    if s.locked slice ∧ peer val ≠ peer old then .next (s.lockedWrite slice)
    else
      let starts := val.toNat.testBit 29 && !old.toNat.testBit 29
      let s := if starts then s.setSlice slice fun v => { v with dirty := PageSet.every } else s
      .next (s.storeBits 0 (sliceReg slice 0x10) val 0xEFFFFC00)

/-- Pages of a slice's memory (R449). -/
def State.pageCount (s : State) (slice : Nat) : Nat := s.localSize slice / 65536

/-- A command ends with an error (R448). -/
def State.migFail (s : State) (slice err : Nat) : State :=
  s.setSlice slice fun v => { v with migErr := err, migOp := 0, sendLeft := PageSet.none, sendPart := [] }

/-- The tenant consents (R452). -/
def State.allows (s : State) (slice : Nat) : Bool := (s.vreg slice 0x1004).toNat.testBit 0

/-- A command of a slice group is taken: discarded while one runs (R448), failed without consent (R452) or with a block
beyond the slice's pages. -/
def State.migCommand (s : State) (slice op block : Nat) (act : State → State) : State :=
  if !s.serves slice || (s.slice slice).migOp != 0 then s
  else
    let s := s.setSlice slice fun v => { v with migErr := 0 }
    if !s.allows slice then s.migFail slice 1
    else if s.pageCount slice ≤ 32768 * block then s.migFail slice 7
    else act (s.setSlice slice fun v => { v with migOp := op, migBlock := block })

/-- The pages of a block that a set holds, by their place in the block. -/
def PageSet.block (p : PageSet) (block : Nat) : List Nat :=
  if p.all then (List.range 32768).filter fun j => p.has (32768 * block + j)
  else (p.except.filter fun n => n / 32768 == block).map fun n => n % 32768

/-- A set without the pages of a block. -/
def PageSet.dropBlock (p : PageSet) (block : Nat) : PageSet :=
  if p.all then { p with except := unionNat ((List.range 32768).map fun j => 32768 * block + j) p.except }
  else { p with except := p.except.filter fun n => n / 32768 != block }

/-- The bitmap of some pages of a block (R449). -/
def bitmapBytes (js : List Nat) : List Byte :=
  (List.range 4096).map fun k => .ofNat 8 ((List.range 8).map fun b => if js.contains (8 * k + b) then 2 ^ b else 0).sum

/-- The host key of a slice's page bitmap (R448): an address of the slice's VF (R64). -/
def State.bitmapKey (s : State) (slice : Nat) : Nat :=
  s.hostPhys slice (fieldOfWord (s.reg 0 (sliceReg slice 0x18)) 12 20 * 4096 + (s.reg 0 (sliceReg slice 0x1C)).toNat * 2 ^ 32)

/-- R449: the dirty bits of a block are read into the bitmap and cleared. -/
def execRake (slice block : Nat) (s : State) : Host.Outcome State Fault Refusal :=
  .next (s.migCommand slice 1 block fun s =>
    if !s.hostUp then s.migFail slice 5
    else
      let js := (s.slice slice).dirty.block block
      let s := s.setSlice slice fun v => { v with dirty := v.dirty.dropBlock block }
      s.deviceWrite slice (s.sysPid slice) (cellsFrom (s.bitmapKey slice) (bitmapBytes js)))

/-- The other side can take part (R448): it names this side back, has as many members, and is unlocked and clean. -/
def State.migAccepts (s : State) (slice d : Nat) : Bool :=
  s.role d == 2 && s.migPeer d == some slice && s.leader d == d && (s.members d).length == (s.members slice).length
    && (s.slice d).tdisp == 0 && (s.slice d).clean && !(s.slice d).clearing

/-- Copy sectors of one slice group's memory into another's, as they stand at the source's banks, with their poison marks and the deadlines
of the counted barriers in them (R372, R376). `dst` gives the destination of a sector, both numbered by local offset, and `into` says which
sectors of the destination are replaced. -/
def State.copyTo (s : State) (a b : Nat) (dst : Nat → Option Nat) (into : Nat → Bool) : State :=
  let ma := s.members a
  let mb := s.members b
  let num (k : Nat) : Nat := s.localOffset k / 32
  let dest (k : Nat) : Option Nat :=
    if decide (k < 2 ^ 40) && ma.contains (k / 2 ^ 36) then (dst (num k)).map fun n => s.localPhys b (32 * n + k % 32) else none
  let hit (k : Nat) : Bool := decide (k < 2 ^ 40) && mb.contains (k / 2 ^ 36) && into (num k)
  let new := s.mem.filterMap fun c => (dest c.1).map fun k => (k, c.2)
  let bad := s.badSectors.filterMap fun n => (dest (n * 32)).map (· / 32)
  let dls := s.barDl.filterMap fun d => (dest d.key).map fun k => { d with key := k, slice := k / 2 ^ 36 }
  let s := (s.l2.filter fun l => (lineSectors l.line).any fun n => hit (n * 32)).foldl (fun t l => t.dropLine l) s
  { s with
    mem := new.foldl (fun m c => Memory.write m c.1 c.2) (s.mem.filter fun c => !hit c.1),
    poison := unionNat bad (s.poison.filter fun n => !hit (n * 32)),
    ecc := s.ecc.filter (fun e => !hit (e.1 * 32)), l2err := s.l2err.filter (fun e => !hit (e.1.2 * 32)),
    barDl := s.barDl.filter (fun d => !hit d.key) ++ dls }

/-- The state in which the holders of a slice group's lines are being invalidated, before sectors of them are replaced (R102); none when
that may be done. -/
def State.clearSectors (s : State) (b : Nat) (into : Nat → Bool) : Option State :=
  let mb := s.members b
  s.clearHolders b ((s.dir.map DirEntry.line).filter fun line =>
    mb.contains (line * 128 / 2 ^ 36) && (lineSectors line).any fun n => into (s.localOffset (n * 32) / 32))

/-- Copy some sectors of one slice group to the same offsets of another and go on, or ask first for their holders there (R102, R450). -/
def State.copySectors (s : State) (a b : Nat) (pick : Nat → Bool) (done : State → State) : State :=
  match s.clearSectors b pick with
  | some t => t
  | none => done (s.copyTo a b (fun n => if pick n then some n else none) pick)

/-- Union of sets of pages. -/
def PageSet.union (p q : PageSet) : PageSet :=
  if p.all then (if q.all then { p with except := p.except.filter q.except.contains } else { p with except := p.except.filter fun n => !q.has n })
  else if q.all then { q with except := q.except.filter fun n => !p.has n }
  else { p with except := unionNat p.except q.except }

/-- Written pages are marked at the other side as far as it tracks (R449, R457). -/
def State.markPages (s : State) (slice : Nat) (p : PageSet) : State :=
  let track := (s.migCtl slice).toNat.testBit 29
  let ck := (s.reg 0 (sliceReg slice 0x24)).toNat.testBit 31
  s.setSlice slice fun v => { v with dirty := if track then v.dirty.union p else v.dirty, ckDirty := if ck then v.ckDirty.union p else v.ckDirty }

/-- The bitmap in host memory, as the slice reads it (R450). -/
def State.readBitmap (s : State) (slice block : Nat) : PageSet × State :=
  let (bs, s) := s.deviceRead slice (s.sysPid slice) (s.bitmapKey slice) 4096
  let js := bs.zipIdx.flatMap fun b =>
    if b.1 = 0 then [] else ((List.range 8).filter fun j => b.1.toNat.testBit j).map fun j => 32768 * block + 8 * b.2 + j
  ({ all := false, except := js }, s)

/-- R450: the pages that the bitmap marks are sent. What travels to another package is seen there only; to a destination in this
package they go sector by sector, as the command runs. -/
def execSend (slice block : Nat) (s : State) : Host.Outcome State Fault Refusal :=
  .next (s.migCommand slice 2 block fun s =>
    if s.role slice ≠ 1 then s.migFail slice 2
    else if !s.hostUp then s.migFail slice 5
    else
      let (p, s) := s.readBitmap slice block
      match s.migPeer slice with
      | none => s
      | some d =>
        if !s.migAccepts slice d then s.migFail slice 3
        else s.setSlice slice fun v => { v with sendLeft := p, sendPart := [] })

/-- The folio that a quiesced slice sends (R451): the one it saved, or, in IDLE, the launches it still holds. -/
def State.finalFolio (s : State) (slice : Nat) : Folio :=
  match (s.slice slice).folio with
  | some f => { f with kind := 3 }
  | none => (s.collect slice 3).1

/-- R451: the last pages and the folio are sent; with `post`, the folio first, the dirty pages being pull-pending at the
destination. -/
def execFinal (slice : Nat) (post : Bool) (s : State) : Host.Outcome State Fault Refusal :=
  .next (s.migCommand slice 3 0 fun s =>
    if (s.slice slice).pre ≠ 4 ∧ (s.slice slice).pre ≠ 5 then s.migFail slice 4
    else if s.role slice ≠ 1 then s.migFail slice 2
    else
      let p := (s.slice slice).dirty
      let t := s.setSlice slice fun v => { v with dirty := PageSet.none, sent := false }
      match s.migPeer slice with
      | none => t
      | some d =>
        if !s.migAccepts slice d then s.migFail slice 3
        else if post then t.setSlice d fun v => { v with pull := p }
        else t.setSlice slice fun v => { v with sendLeft := p, sendPart := [] })

/-- The first page of a set, of those of a slice. -/
def PageSet.first (p : PageSet) (pages : Nat) : Option Nat :=
  if p.all then (List.range (min pages (p.except.length + 1))).find? p.has else argMin id (p.except.filter fun n => decide (n < pages))

/-- One sector, or some, of the first page that a command has still to send goes (R450): which is free, so that a page may bring any mix
of its sectors from before and after writes made meanwhile. A SEND reads them through the slice's banks. -/
def State.sendSome (s : State) (slice d page : Nat) : State :=
  let v := s.slice slice
  let left := (List.range 2048).filter fun j => !v.sendPart.contains j
  let some' := left.filter (Config.sendMix s.free).testBit
  let now := if some'.isEmpty then left else some'
  let s := if v.migOp = 2 then
      (uniq (now.map fun j => lineOf (s.localPhys slice (65536 * page + 32 * j)))).foldl (fun (t : State) line =>
        t.readL2 slice (t.sysPid slice) (line * 128)) s
    else s
  s.copySectors slice d (fun n => n / 2048 == page && now.contains (n % 2048)) fun t =>
    ((t.markPages d { all := false, except := [page] }).setSlice slice fun v =>
      if now.length = left.length then { v with sendLeft := v.sendLeft.drop page, sendPart := [] }
      else { v with sendPart := v.sendPart ++ now }).draw

/-- The source whose FINAL a destination of this package waits for. -/
def State.migSource (s : State) (d : Nat) : Option Nat :=
  match s.migPeer d with
  | some a => if s.role d == 2 && s.role a == 1 && s.migPeer a == some d && (s.slice a).migOp == 3 then some a else none
  | none => none

/-- A slice takes what a source sends it (R448): it is a destination, unlocked and clean. -/
def State.receives (s : State) (slice : Nat) : Bool :=
  s.serves slice && s.role slice == 2 && (s.slice slice).tdisp == 0 && (s.slice slice).clean && !s.closed slice

/-- The folio's bytes are at the destination (R451): they stand in its folio area, and DONE is set. -/
def State.landFolio (s : State) (slice : Nat) (f : Option Folio) (bs : List Byte) : Option State :=
  (s.writeArea bs slice 0xE8C 0xE90).map fun t => t.setSlice slice fun v => { v with folio := f, image := bs, migDone := true }

/-- A set of pages from its bitmap. -/
def bitmapPages (bs : List Byte) : List Nat :=
  bs.zipIdx.flatMap fun b => ((List.range 8).filter fun j => b.1.toNat.testBit j).map fun j => 8 * b.2 + j

/-- R451: the destination places the folio at its folio area. From a source in this package comes the folio of that source, once the
pages have gone; a folio area that is too small ends the command with ERR 3 (log entry 114). What another package sends is a folio as
long as it says, of as many members, and then the bitmap of the pages that are pull-pending (log entry 114). -/
def execMigrationFolioLanded (slice : Nat) (bytes : List Byte) (s : State) : Host.Outcome State Fault Refusal :=
  if !s.receives slice then .next s
  else
    match s.migPeer slice, s.migSource slice with
    | _, some a =>
      if (s.slice a).sent || (s.slice a).sendLeft != PageSet.none then .next s
      else
        let f := s.finalFolio a
        match s.landFolio slice (some f) (s.folioBytes f slice Item.pc) with
        | some t => .next (t.setSlice a fun v => { v with sent := true })
        | none => .next (s.migFail a 3)
    | none, none =>
      let n := natAt bytes 0xC 4
      if natAt bytes 0xA 2 ≠ 2 ^ (s.members slice).length - 1 then .next s
      else
        let pages := (bitmapPages (bytes.drop n)).filter fun p => decide (p < s.pageCount slice)
        .next (((s.landFolio slice none (bytes.take n)).map fun t =>
          t.setSlice slice fun v => { v with pull := v.pull.union { all := false, except := pages } }).getD s)
    | some _, none => .next s

/-- Everything that a command sent to a slice of this package has arrived (R451, R453). -/
def State.migArrived (s : State) (slice : Nat) : Bool :=
  match s.migPeer slice with
  | some d => (s.slice slice).sendLeft == PageSet.none
      && ((s.slice slice).migOp != 3 || ((s.slice slice).sent && (s.slice d).pull == PageSet.none))
  | none => true

/-- R448: a command goes on, or its traffic has ended. One whose destination lies in this package sends its pages so, and ends well
once everything has arrived. -/
def execMigrationCommandComplete (slice : Nat) (res : MigResult) (s : State) : Host.Outcome State Fault Refusal :=
  let v := s.slice slice
  if v.migOp = 0 then .next s
  else
    match res with
    | .done =>
      match s.migPeer slice, v.sendLeft.first (s.pageCount slice) with
      | some d, some page => .next (s.sendSome slice d page)
      | _, _ =>
        let s := s.setSlice slice fun v => { v with sendLeft := PageSet.none }
        if s.migArrived slice then .next (s.setSlice slice fun v => { v with migOp := 0, migDone := true }) else .next s
    | .session => .next (s.migFail slice 2)
    | .refused => .next (s.migFail slice 3)
    | .link => .next (s.migFail slice 5)

/-- R452: an ABORT; the destination is reset and cleared. -/
def execAbort (slice : Nat) (s : State) : Host.Outcome State Fault Refusal :=
  if !s.serves slice then .next s
  else if !s.allows slice then .next (s.setSlice slice fun v => { v with migErr := 1 })
  else match s.role slice with
    | 1 =>
      let t := s.migFail slice 6
      match s.migPeer slice with
      | some d => .next (if s.role d = 2 && !s.closed d then t.resetOne d else t)
      | none => .next t
    | 2 => .next (if s.closed slice then s.migFail slice 6 else s.resetOne slice)
    | _ => .next s

/-! ### Pulled pages (R453, R454) -/

/-- R453: a page that an access waits for is requested from the source. -/
def execPagePullRequest (slice page : Nat) (s : State) : Host.Outcome State Fault Refusal :=
  if (s.slice (s.leader slice)).pull.has page then .next (s.askPull slice page) else .next s

/-- Waits for a pulled page, by its number (R453). -/
def State.pullWaits (s : State) (lead page : Nat) : List PFault :=
  s.pfaults.filter fun p => p.slice == lead && p.kind == 4 && p.page == page

/-- What waited for a pulled page goes on (R453). -/
def State.wakePull (s : State) (ids : List Nat) : State :=
  let s := s.wake ids
  let go (i : Item) : Item := match i.wait with
    | .pageFault n => if ids.contains n then { i with wait := .none, since := s.clock } else i
    | _ => i
  { s with
    ctxs := s.ctxs.map fun x =>
      { x with items := x.items.map go, held := match x.held with
          | some n => if ids.contains n then none else some n
          | none => none },
    copies := s.copies.map fun c => match c.fault with
      | some n => if ids.contains n then { c with fault := none } else c
      | none => c }

/-- A page that was pull-pending stands in the stack (R453): what waited for it goes on. -/
def State.pulled (s : State) (lead page : Nat) : State :=
  let done := (s.pullWaits lead page).map PFault.id
  let s : State := { s with pfaults := s.pfaults.filter fun p => !done.contains p.id }
  (s.setSlice lead fun v => { v with
    pull := v.pull.drop page, pulling := v.pulling.filter (fun p => p.1 != page), hostPulls := v.hostPulls.filter (· != page) }).wakePull done

/-- R450, R453: a page from the source is written into the destination's stack, once no peer holds a line of it (R102); where it was
pull-pending its waiters proceed. A source in this package sends what its page holds (R451). -/
def execPagePullArrival (slice page : Nat) (bytes : List Byte) (s : State) : Host.Outcome State Fault Refusal :=
  let lead := s.leader slice
  let due := (s.slice lead).pull.has page
  match s.migSource lead with
  | some a =>
    if !due || !(s.slice a).sent then .next s
    else .next (s.copySectors a lead (fun n => n / 2048 == page) fun t =>
      (t.markPages lead { all := false, except := [page] }).pulled lead page)
  | none =>
    if bytes.length ≠ 65536 ∨ s.pageCount lead ≤ page ∨ !(due || (s.receives lead && (s.migPeer lead).isNone)) then .next s
    else match s.holdersOf lead (65536 * page) 65536 with
      | some t => .next t
      | none =>
        let t := s.writeLocal lead (65536 * page) bytes
        .next (if due then t.pulled lead page else t)

/-- Faults of pulls (R454): in a checkpoint domain its recovery starts, which a rollback marker carries out; else their items end at
once. -/
def State.endPulls (s : State) (lead : Nat) : State :=
  if (s.reg 0 (sliceReg lead 0x24)).toNat.testBit 31 then s.setSlice lead fun v => { v with ckState := 4 }
  else
    let stop' (f : Fault15) : Fault15 := if f.slice == lead && f.cause == 0x0D && f.seq.isNone then { f with auto := true, needs := false } else f
    { s with faults := s.faults.map stop' }

/-- The time a pull may take: PULLTO in units of 10 ms, 0 counting as 1 (R448). -/
def State.pullTime (s : State) (lead : Nat) : Nat := millis (10 * max 1 (fieldOfWord (s.migCtl lead) 24 4))

/-- R453, R454: a pull that has not arrived within its time fails for everything that waits on it, host reads among it; the page stays
pull-pending. -/
def execPagePullTimeout (slice page : Nat) (s : State) : Host.Outcome State Fault Refusal :=
  let lead := s.leader slice
  match (s.slice lead).pulling.find? fun p => p.1 == page with
  | none => .next s
  | some (_, since) =>
    let failed := s.pullWaits lead page
    let ids := failed.map PFault.id
    let stuck := s.walks.filter fun w => w.slice == lead && s.walk w.slice w.asid w.page == .pull page
    let wids := stuck.map Walk.id
    let s : State := { s with clock := max s.clock (since + s.pullTime lead), pfaults := s.pfaults.filter (fun p => !ids.contains p.id),
                              walks := s.walks.filter (fun w => !wids.contains w.id),
                              invals := s.invals.map fun v => { v with walks := v.walks.filter fun j => !wids.contains j } }
    let s := if (s.slice lead).hostPulls.contains page then s.reply .poison else s
    let s := s.setSlice lead fun v => { v with
      pulling := v.pulling.filter (fun p => p.1 != page), hostPulls := v.hostPulls.filter (· != page) }
    let s := failed.foldl (fun t p => p.waiters.foldl (fun u w => u.failWaiter p.id 0x0D w) t) s
    let s := (s.wake wids).wake ids
    let s := stuck.foldl (fun t k => k.waiters.foldl (fun u w => u.waiterFault w 0x0D) t) s
    .next (s.endPulls lead)

/-! ### The grant table (R465) -/

/-- The local offset of an entry of a slice's grant table (R465). -/
def State.grantOff (s : State) (home j : Nat) : Nat := fieldOfWord (s.vreg home 0x1104) 0 28 * 4096 + 4 * j

/-- The entry of the grant table that admits a requester (R465); one in a sector that carries a mark admits none (R71). -/
def State.grant? (s : State) (home pkg slice : Nat) (write : Bool) : Option Nat :=
  (List.range 1024).find? fun j =>
    let e := leNat (s.readLocal home (s.grantOff home j) 4)
    e.testBit 31 && e / 16 % 1024 == pkg && e % 16 == slice && (!write || e.testBit 30) && !s.localPoisoned home (s.grantOff home j) 4

/-- The walk service reads the grant table up to the entry that admits, or all of it, through the banks under L2B_SYSPID (R71, R465). -/
def State.readGrants (s : State) (home : Nat) (found : Option Nat) : State :=
  let n := match found with
    | some j => j + 1
    | none => 1024
  (uniq ((List.range n).map fun j => lineOf (s.localPhys home (s.grantOff home j)))).foldl (fun t line =>
    t.readL2 home (t.sysPid home) (line * 128)) s

/-- An entry of the grant table admits the requester (R465). -/
def State.granted? (s : State) (home pkg slice : Nat) (write : Bool) : Bool := (s.grant? home pkg slice write).isSome

/-! ### Buddy checkpoints (R455 to R458) -/

/-- A slice belongs to a checkpoint domain (R455). -/
def State.checkpoints (s : State) (slice : Nat) : Bool := (s.reg 0 (sliceReg slice 0x24)).toNat.testBit 31

/-- The pages of a slice that are checkpointed (R455). -/
def State.ckPages (s : State) (slice : Nat) : Nat := fieldOfWord (s.reg 0 (sliceReg slice 0x2C)) 0 21

/-- A slice's area at its buddy (R455), by the offsets within the buddy's local memory: of the header, the image, the staging, the bitmap
and the folio slots, and the bytes of a slot. -/
structure CheckpointArea where
  base : Nat
  image : Nat
  staging : Nat
  bitmap : Nat
  slots : Nat
  slot : Nat
  deriving DecidableEq, Repr

/-- R455. -/
def State.ckArea (s : State) (slice : Nat) : CheckpointArea :=
  let base := fieldOfWord (s.reg 0 (sliceReg slice 0x28)) 0 28 * 4096
  let p := s.ckPages slice * 65536
  { base := base, image := base + 4096, staging := base + 4096 + p, bitmap := base + 4096 + 2 * p, slots := base + 4096 + 2 * p + 2 ^ 17,
    slot := fieldOfWord (s.vreg slice 0xE90) 0 20 * 4096 }

/-- The buddy of a slice when it lies in this package, answers, grants the slice access, and holds the whole area (R455). -/
def State.buddy (s : State) (slice : Nat) : Option Nat :=
  let c := s.reg 0 (sliceReg slice 0x24)
  let id := s.reg 0 0x2104
  let b := fieldOfWord c 24 4
  let pkg := fieldOfWord id 0 10
  let a := s.ckArea slice
  if id.toNat.testBit 31 && fieldOfWord c 14 10 == pkg && s.serves b && !s.closed b && b != slice && s.granted? b pkg slice true
      && decide (a.slots + 2 * a.slot ≤ s.localSize b) then some b else none

/-- The bytes of the bitmap of some pages (R455). -/
def pageBits (pages : Nat) (has : Nat → Bool) : List Byte :=
  (List.range ((pages + 7) / 8)).map fun k =>
    .ofNat 8 ((List.range 8).map fun b => if 8 * k + b < pages ∧ has (8 * k + b) = true then 2 ^ b else 0).sum

/-- The place of a sector of a page in a region of the area, by sectors. -/
def regionSector (region n : Nat) : Nat := region / 32 + n

/-- The folio that a cut writes, of KIND 4, and its bytes (R456): the one the slice saved. -/
def State.ckFolio (s : State) (slice : Nat) : Folio × List Byte :=
  match (s.slice slice).folio with
  | some f => ({ f with kind := 4 }, (s.slice slice).image.take 8 ++ [4] ++ (s.slice slice).image.drop 9)
  | none =>
    let f := (s.collect slice 4).1
    (f, s.folioBytes f slice Item.pc)

/-- The pages that a cut stages (R456): those written since the last generation, for generation 1 every one. -/
def State.stages (s : State) (slice n : Nat) : Bool :=
  decide (n < s.ckPages slice) && ((s.slice slice).ckGen == 0 || (s.slice slice).ckDirty.has n)

/-- The state in which the peers that hold lines of a slice's area at its buddy are asked for them (R102); none when there are none. -/
def State.clearArea (s : State) (slice b : Nat) : Option State :=
  let a := s.ckArea slice
  s.clearSectors b fun n => decide (a.base / 32 ≤ n) && decide (n < (a.slots + 2 * a.slot) / 32)

/-- A cut writes its pages, its bitmap, its folio and the staged generation to a buddy in this package (R455, R456). The state that the
header names is not described (log entry 116). -/
def State.stage (s : State) (slice b : Nat) (folio : List Byte) : State :=
  let a := s.ckArea slice
  let g := (s.slice slice).ckGen + 1
  let staged (n : Nat) : Bool := s.stages slice (n / 2048)
  let first := regionSector a.staging 0
  let t := s.copyTo slice b (fun n => if staged n then some (regionSector a.staging n) else none) fun n => decide (first ≤ n) && staged (n - first)
  let t := t.writeLocal b a.bitmap (pageBits (s.ckPages slice) (s.stages slice))
  let t := t.writeLocal b (a.slots + g % 2 * a.slot) (folio.take a.slot)
  (t.writeLocal b (a.base + 8) (leBytes 8 g ++ leBytes 4 (Config.checkpointState t.free).toNat)).draw

/-- A buddy in this package copies each staged page into the image, clears its bit, and writes the committed generation (R456, R457). -/
def State.merge (s : State) (slice b g : Nat) : State :=
  let a := s.ckArea slice
  let n := s.ckPages slice
  let bits := s.readLocal b a.bitmap ((n + 7) / 8)
  let staged (k : Nat) : Bool := decide (k / 2048 < n) && (bits.getD (k / 2048 / 8) 0).toNat.testBit (k / 2048 % 8)
  let image := regionSector a.image 0
  let first := regionSector a.staging 0
  let t := s.copyTo b b (fun k => if first ≤ k ∧ staged (k - first) = true then some (image + (k - first)) else none)
    fun k => decide (image ≤ k) && staged (k - image)
  (t.writeLocal b a.bitmap (pageBits n fun _ => false)).writeLocal b a.base (leBytes 8 g)

/-- R456: the pages written since the last generation and the folio go to the buddy, the manager is answered, and the slice is ready.
What goes to a buddy in another package is seen there only; `ckFolios` keeps what its two slots hold. -/
def State.cutDone (s : State) (slice : Nat) : State :=
  let f := s.ckFolio slice
  let done (t : State) : State := (t.setSlice slice fun v =>
    let g := v.ckGen + 1
    { v with ckState := 3, ckDirty := PageSet.none, ckFolios := (g, f) :: v.ckFolios.filter fun p => p.1 % 2 != g % 2 }).reply .ok
  match s.buddy slice with
  | some b => (s.clearArea slice b).getD (done (s.stage slice b f.2))
  | none => done s

/-- R427, R456: every context has come to its save point, or has been reset. A cut then writes to the buddy. -/
def execPreemptSaveComplete (slice : Nat) (s : State) : Host.Outcome State Fault Refusal :=
  if s.leader slice != slice then .next s
  else if (s.slice slice).ckState = 2 then .next (s.cutDone slice)
  else if !s.saveDue slice then .next s
  else if (s.slice slice).ckState = 1 then .next ((s.save slice 4).setSlice slice fun v => { v with ckState := 2 })
  else .next (s.save slice 1)

/-- R456: a cut marker. One whose generation is not the next is refused. The slice enters SAVE as if T1 had passed; with its
contexts saved already, it writes to its buddy at once. -/
def execCheckpointCutMarker (slice gen : Nat) (s : State) : Host.Outcome State Fault Refusal :=
  let v := s.slice slice
  if !s.serves slice || s.closed slice then .next s
  else if !s.checkpoints slice || gen != v.ckGen + 1 || v.ckState != 0 then .next (s.reply .refused)
  else if v.pre = 4 ∨ v.pre = 5 then .next (s.setSlice slice fun v => { v with ckState := 2 })
  else .next (s.setSlice slice fun v => { v with ckState := 1, pre := if v.pre = 0 ∨ v.pre = 1 then 2 else v.pre, preSince := if v.pre = 0 then s.clock else v.preSince })

/-- The state after an event. -/
def afterEvent (o : Host.Outcome State Fault Refusal) (s : State) : State :=
  match o with
  | .next t => t
  | _ => s

/-- R456: a commit. The buddy merges what is staged, and the slice takes the generation and resumes from its saved contexts. A commit that
finds peers holding lines of the buddy is to be repeated. -/
def execCheckpointCommit (slice gen : Nat) (s : State) : Host.Outcome State Fault Refusal :=
  let v := s.slice slice
  if !s.serves slice || v.ckState != 3 || gen != v.ckGen + 1 then .next s
  else
    let go (t : State) : State :=
      let t := t.setSlice slice fun v => { v with ckGen := gen, ckState := 0 }
      afterEvent (execPreemptResume slice t) t
    match s.buddy slice with
    | some b => match s.clearArea slice b with
      | some t => .next (t.reply .retry)
      | none => .next (go (s.merge slice b gen))
    | none => .next (go s)

/-- A slice's work is dropped, without token writes (R458). -/
def State.dropWork (s : State) (slice : Nat) : State :=
  let mine (n : Nat) : Bool := s.leader n == slice
  let core (c : Nat) : Bool := mine (sliceOf c)
  let s := s.resetCtxs (s.ctxsOf slice) true
  let ls := (s.launchesOf slice).map Launch.num
  let s := (s.cohorts.filter fun k => ls.contains k.launch).foldl (fun t k =>
    (k.shares.foldl (fun u h => u.discardDesk h.core k.launch k.num) t).dropCohort k) s
  { s with
    launches := s.launches.filter (fun l => !ls.contains l.num), units := s.units.filter (fun u => !ls.contains u.launch),
    consts := s.consts.filter (fun k => !ls.contains k.launch), copies := s.copies.filter (fun c => !mine c.slice),
    ops := s.ops.filter (fun o => !core o.core), asu := s.asu.filter (fun r => !core r.core || r.fromPeer),
    l1 := s.l1.filter (fun l => !core l.core), pfaults := s.pfaults.filter (fun p => !mine p.slice),
    walks := s.walks.filter (fun w => !mine w.slice), lent := s.lent.filter (fun l => !mine l.slice), syscalls := s.syscalls.filter (fun c => !mine c.slice),
    publs := s.publs.filter (fun p => !mine p.slice), faults := s.faults.filter (fun f => !mine f.slice || !f.needs) }

/-- Place the pages of an image (R458); a page that the buddy's image does not list holds zeros. -/
def State.placeImage (s : State) (slice : Nat) (image : CheckpointImage) : State :=
  let n := fieldOfWord (s.reg 0 (sliceReg slice 0x2C)) 0 21
  let ms := s.members slice
  let inside (k : Nat) : Bool := decide (k < 2 ^ 40) && ms.contains (k / 2 ^ 36) && decide (s.localOffset k / 65536 < n)
  let s := (s.l2.filter fun l => inside (l.line * 128)).foldl (fun t l => t.dropLine l) s
  let s : State := { s with mem := s.mem.filter (fun c => !inside c.1), poison := s.poison.filter (fun p => !inside (p * 32)),
                            ecc := s.ecc.filter (fun e => !inside (e.1 * 32)), l2err := s.l2err.filter fun e => !inside (e.1.2 * 32) }
  (image.pages.filter fun p => decide (p.1 < n)).foldl (fun t p => t.writeLocal slice (65536 * p.1) (p.2.take 65536)) s

/-- The image and the folio of a generation come from a buddy in this package (R458); a merge that was cut short is repeated first
(R457). -/
def State.fromBuddy (s : State) (slice b gen : Nat) : State :=
  let a := s.ckArea slice
  let s := if leNat (s.readLocal b (a.base + 8) 8) = gen then s.merge slice b gen else s
  let n := 2048 * s.ckPages slice
  let i := regionSector a.image 0
  let s := s.copyTo b slice (fun k => if i ≤ k ∧ k - i < n then some (k - i) else none) fun k => decide (k < n)
  match s.area slice 0xE8C 0xE90 with
  | some (off, m) => s.writeLocal slice off ((s.readLocal b (a.slots + gen % 2 * a.slot) a.slot).take m)
  | none => s

/-- The image and the folio of a generation come from a buddy in another package (R458). -/
def State.fromImage (s : State) (slice : Nat) (image : CheckpointImage) : State :=
  let s := s.placeImage slice image
  match s.area slice 0xE8C 0xE90 with
  | some (off, n) => s.writeLocal slice off (image.folio.take n)
  | none => s

/-- R458: a rollback to a generation, of a slice or of a spare in its place: the contexts are reset, the image and the folio are read
from the buddy, and the slice resumes under R432. When the buddy is lost, recovery fails. A marker that finds peers holding lines of
the memory to be written is to be repeated. -/
def execCheckpointRollbackMarker (slice gen : Nat) (image : CheckpointImage) (s : State) : Host.Outcome State Fault Refusal :=
  let n := 2048 * s.ckPages slice
  if !s.serves slice || s.closed slice then .next s
  else match s.clearSectors slice (fun k => decide (k < n)) <|> (s.buddy slice).bind (s.clearArea slice) with
  | some t => .next (t.reply .retry)
  | none =>
    let s := (s.dropWork slice).setSlice slice fun v => { v with ckState := 4, folio := none, image := [] }
    match s.buddy slice, image.present with
    | none, false => .next (s.setSlice slice fun v => { v with ckState := 0 })
    | b, _ =>
      let s := match b with
        | some b => s.fromBuddy slice b gen
        | none => s.fromImage slice image
      let s := s.setSlice slice fun v => { v with pre := 4, ckGen := gen, ckDirty := PageSet.none }
      let s := afterEvent (execPreemptResume slice s) s
      .next (s.setSlice slice fun v => { v with ckState := 0 })

end Sys2Proof.Machine
end

