-- ==== Sys2Proof/Machine/Fabric.lean ====
section
/-! DEFINITION. The outside's accesses to the package, the edge groups, Port H and scale-out transfers (03 R65, 04 R101 to R104,
17 R460 to R477, R504). -/

namespace Sys2Proof.Machine

/-! ### The directory (R101, R104) -/

/-- Note a holder of a line of a stack (R101); false when the set is full, and the least recently used entry is recalled first
(R104). -/
def State.track (s : State) (line : Nat) (note : DirEntry → DirEntry) : Bool × State :=
  let slice := line * 128 / 2 ^ 36
  let (stamp, s) := s.fresh
  match s.dirEntry line with
  | some d => (true, { s with dir := updWhere (fun e => e.line == line) (fun _ => { note d with used := stamp }) s.dir })
  | none =>
    let mates := s.dir.filter fun d => d.slice == slice && s.bankSet slice d.line == s.bankSet slice line
    if mates.length < 16 then
      let d : DirEntry := { slice := slice, line := line, holders := [], coarse := none, host := false, used := stamp }
      (true, { s with dir := s.dir ++ [note d] })
    else
      match argMin DirEntry.used mates with
      | none => (false, s)
      | some d =>
        if s.homeWrites.any fun w => w.line == d.line && w.sent then (false, s)
        else
          let w : HomeWrite :=
            { id := stamp, slice := slice, line := d.line, pid := s.sysPid slice, cells := [], ack := none, sent := true,
              device := false, ev := false, peer := false }
          (false, ({ s with homeWrites := w :: s.homeWrites } : State).count slice 0x62C 1)

/-- A peer slice becomes a holder: up to four exactly, then by groups of 32 packages (R101). -/
def DirEntry.addPeer (d : DirEntry) (pkg slice : Nat) : DirEntry :=
  match d.coarse with
  | some v => { d with coarse := some (v ||| .ofNat 32 (2 ^ (pkg / 32 % 32))) }
  | none =>
    if d.holders.contains (pkg, slice) then d
    else if d.holders.length < 4 then { d with holders := d.holders ++ [(pkg, slice)] }
    else { d with holders := [], coarse := some (.ofNat 32 (((pkg, slice) :: d.holders).foldl (fun m h => m ||| 2 ^ (h.1 / 32 % 32)) 0)) }

/-- Note a holder of each of some lines. -/
def State.trackAll (s : State) (lines : List Nat) (note : DirEntry → DirEntry) : Bool × State :=
  lines.foldl (fun acc n => if acc.1 then acc.2.track n note else acc) (true, s)

/-- The lines of a range. -/
def rangeLines (k n : Nat) : List Nat := if n = 0 then [] else (List.range ((k + n - 1) / 128 - k / 128 + 1)).map fun j => k / 128 + j

/-- A write is waiting at one of some lines (R102). -/
def State.writeWaits (s : State) (lines : List Nat) : Bool := s.homeWrites.any fun w => lines.contains w.line

/-! ### Peers (R65, R101, R465, R500) -/

/-- What the home slice does with a peer's request. -/
inductive PeerEnd where
  | silent
  | answer (s : State)
  | admitted (s : State)

/-- An access that comes in by a port in a field waits for a gated crossing on its way to some lines of a stack (R14). -/
def State.gatedIn (s : State) (field : Nat) (lines : List Nat) : Bool := lines.any fun n => s.gatedTo (4 * field) (n * 128)

/-- A peer's request reaches the home slice, or is refused (R65, R443, R465); the package answers no peer while EDG_PKGID is not valid
(R500). The grant table is read as a page table is; where that or the access itself must wait for a pulled page or a gated crossing,
`retry` says so. -/
def State.peerMay (s : State) (r : PeerAccess) (write : Bool) : PeerEnd :=
  if !(s.reg 0 0x2104).toNat.testBit 31 then .silent
  else if !s.present r.home || s.closed r.home || decide (2 ^ 36 < r.off + r.len) then .answer (s.reply .refused)
  else match s.pullPage r.home (s.grantOff r.home 0) 4096 with
    | some p => .answer ((s.askPull r.home p).reply .retry)
    | none =>
      let found := s.grant? r.home r.pkg r.slice write
      let s := s.readGrants r.home found
      let k := r.home * 2 ^ 36 + r.off
      if found.isNone then .answer (s.reply .refused)
      else if s.gatedIn (portField (s.peerGroup r.off)) (rangeLines k r.len) then .answer (s.reply .retry)
      else .admitted s

/-- The pull-pending page that an access to a range of a stack needs (R453). -/
def State.pullAt (s : State) (k n : Nat) : Option Nat :=
  let v := s.slice (s.leader (k / 2 ^ 36))
  [k, k + n - 1].findSome? fun a => let p := s.localOffset a / 65536
    if v.pull.has p then some p else none

/-- R101: a peer read. It waits behind a write to its line and for a pulled page; the answer `retry` says so. -/
def execPeerReadRequest (req : PeerAccess) (s : State) : Host.Outcome State Fault Refusal :=
  match s.peerMay req false with
  | .silent => .next s
  | .answer t => .next t
  | .admitted s =>
    let k := req.home * 2 ^ 36 + req.off
    let lines := rangeLines k req.len
    match s.pullAt k req.len with
    | some p => .next ((s.askPull req.home p).reply .retry)
    | none =>
      if s.writeWaits lines then .next (s.reply .retry)
      else
        let (ok, s) := s.trackAll lines fun d => d.addPeer req.pkg req.slice
        if !ok then .next (s.reply .retry)
        else
          let s := lines.foldl (fun t n => t.readL2 req.home (t.sysPid req.home) (n * 128)) s
          if s.poisoned k req.len then .next (s.reply .poison)
          else .next (s.reply (.bytes ((List.range req.len).map fun j => s.homeByte req.home (k + j))))

/-- A request to the home's atomic service unit as a peer sends it, of one item. -/
def State.peerAsu (s : State) (id home key : Nat) (kind : AsuKind) : AsuReq :=
  { id := id, issue := id, cluster := s.ownerCluster home (lineOf key), core := sliceCore home 0, ctx := 0, launch := peerLaunch, cohort := 0,
    items := [0], key := key, va := 0, kind := kind, ops := [], pc := 0, waiting := false, seq := 0, stamp := [], device := false }

/-- A word of some bytes. -/
def dwordAt (bs : List Byte) (off n : Nat) : DWord := .ofNat 64 (leNat ((bs.drop off).take n))

/-- A peer's wait at a signal for a value has timed out there (R376): it ends here too. -/
def State.stopPeerWait (s : State) (home key : Nat) (v : Word) : State :=
  match (s.waitersAt key).find? fun r => r.fromPeer && match r.kind with
    | .sigw vals _ _ => vals == [(0, v)]
    | _ => false with
  | some r => (s.dropReq r).idleSignal (sliceCore home 0) peerLaunch key
  | none => s

/-- Perform a peer's atomic, reduction, or operation on a barrier or signal (R100, R337, R340, R374, R383): a wait is answered when it
ends (R371), and an item ended there breaks its objects here (R375). -/
def State.peerAtomic (s : State) (home k : Nat) (a : PeerAtomic) (bs : List Byte) : State :=
  let (id, s) := s.fresh
  let req (kind : AsuKind) : AsuReq := s.peerAsu id home k kind
  let run (kind : AsuKind) : State :=
    let r := req kind
    let s := s.checkLine home (lineOf k)
    if s.poisoned k r.size then s.reply .poison
    else
      let old := (List.range r.size).map fun j => s.homeByte home (k + j)
      let res := asuRun kind old
      (if res.2.1 then s.asuWrite r res.1 else s).reply (.bytes old)
  -- an operation on an object whose bytes carry a mark faults Poison at the requester
  let sound (n : Nat) (act : State → State) : State :=
    let s := s.checkLine home (lineOf k)
    if s.poisoned k n then s.reply .poison else act s
  let wait (kind : AsuKind) : State := ({ s with asu := s.asu ++ [req kind] } : State).asuObject (req kind)
  match a with
  | .plain op uns w64 ftz => run (.atomic op uns w64 ftz [(0, dwordAt bs 0 (if w64 then 8 else 4), dwordAt bs (if w64 then 8 else 4) (if w64 then 8 else 4))])
  | .cas128 => run (.cas128 [(0, bs.take 16, (bs.drop 16).take 16)])
  | .sigs v => sound 16 fun t => (t.doSigs (req (.sigs v)) v).reply .ok
  | .barinit n => (s.doBarinit (req (.barinit n)) n).reply .ok
  | .barr n barLog => sound 64 fun t =>
    let old := leBytes 4 (t.objNat home k 8 4)
    (t.doBarr (req (.barr n)) n barLog).reply (.bytes old)
  | .barw tok => wait (.barw [(0, tok)] 0 0)
  | .sigw v => wait (.sigw [(0, v)] 0 0)
  | .sigwEnd v => (s.stopPeerWait home k v).reply .ok
  | .brk cause signal => (s.breakObject (sliceCore home 0) peerLaunch k cause signal).reply .ok

/-- R102, R347, R465: a peer write, atomic or reduction. A write is queued at its home, which answers once it has performed it. -/
def execPeerWriteRequest (req : PeerAccess) (bytes : List Byte) (s : State) : Host.Outcome State Fault Refusal :=
  match s.peerMay req true with
  | .silent => .next s
  | .answer t => .next t
  | .admitted s =>
    let k := req.home * 2 ^ 36 + req.off
    let lines := rangeLines k req.len
    match s.pullAt k req.len with
    | some p => .next ((s.askPull req.home p).reply .retry)
    | none =>
      match req.atomic with
      | none =>
        let cells := cellsFrom k (bytes.take req.len)
        let s := lines.foldl (fun t n =>
          let (id, t) := t.fresh
          let w : HomeWrite :=
            { id := id, slice := req.home, line := n, pid := t.sysPid req.home, cells := cells.filter (fun c => lineOf c.1 == n), ack := none, sent := false,
              device := false, ev := false, peer := true, bad := req.poison }
          { t with homeWrites := t.homeWrites ++ [w] }) s
        .next s
      | some a =>
        if s.writeWaits lines then .next (s.reply .retry)
        else match s.clearHolders req.home lines with
          | some t => .next (t.reply .retry)
          | none => .next (s.peerAtomic req.home k a bytes)

/-! ### The host (R100, R388, R460, R504) -/

/-- R460: a host snoop of a host line. Dirty data goes back to the host as the line is shared or given up. -/
def execHostSnoop (slice line : Nat) (kind : SnoopKind) (s : State) : Host.Outcome State Fault Refusal :=
  match s.l2Line? slice line with
  | none => .next (s.reply .ok)
  | some l =>
    if !Phys.isHost (line * 128) then .next (s.reply .ok)
    else
      let s := s.checkBank l.slice line
      match s.l2Line? slice line with
      | none => .next (s.reply .ok)
      | some l =>
        let r : Resp := if !l.dirty then .ok else if l.bad.isEmpty then .bytes (s.lineBytes slice line) else .poison
        match kind with
        | .current => .next (s.reply r)
        | .share =>
          let t := s.dropLine l
          let back : State := { t with l2 := { l with dirty := false } :: t.l2 }
          .next (back.reply r)
        | .invalidate => .next ((s.dropLine l).reply r)

/-- The slice answers the host's accesses to its memory (R438, R443). -/
def State.hostMay (s : State) (slice : Nat) : Bool := s.serves slice && !s.closed slice && (s.slice slice).tdisp != 3

/-- Where the host's accesses through an expander's own range are put beside those of the CXL.mem range. -/
def expanderRange : Nat := 2 ^ 52

/-- An expander of a slice stands in one of some conditions (R461). -/
def State.expander (s : State) (slice : Nat) (ok : EdgeSt → Bool) : Bool :=
  s.edges.any fun e => e.mode == 1 && e.useNow == 1 && s.leader e.sliceNow == slice && ok e

/-- The local offset that an offset of the CXL.mem range names (R504), or of the range of an expander that is UP (R461). -/
def State.rangeOffset (s : State) (slice off len : Nat) : Option Nat :=
  if expanderRange ≤ off then
    if s.expander slice (fun e => e.state == 0) ∧ off - expanderRange + len ≤ s.localSize slice then some (off - expanderRange) else none
  else if 2 ^ 32 ≤ off ∧ off - 2 ^ 32 + len ≤ s.localSize slice then some (off - 2 ^ 32) else none

/-- A host access comes by an expander whose range is parked: it is answered with retry (R471). -/
def State.rangeParked (s : State) (slice off : Nat) : Bool :=
  decide (expanderRange ≤ off) && s.expander slice fun e => e.parks.testBit 9

/-- The field by which a host access comes in: an expander's, or that of Port H (R13, R461). -/
def State.hostField (s : State) (slice off : Nat) : Nat :=
  if off < expanderRange then portField none
  else portField ((List.range 16).find? fun n => (s.edge n).mode == 1 && (s.edge n).useNow == 1 && s.leader (s.edge n).sliceNow == slice)

/-- R504: a host read. -/
def execHostMemoryRead (slice off len : Nat) (s : State) : Host.Outcome State Fault Refusal :=
  if s.serves slice ∧ off + len ≤ 65536 then .next (s.reply (.bytes (s.window.readList (slice * 65536 + off) len)))
  else if s.rangeParked slice off then .next (s.reply .retry)
  else
    match s.rangeOffset slice off len with
    | none => .next (s.reply .poison)
    | some o =>
      if !s.hostMay slice then .next (s.reply .poison)
      else match s.pullPage slice o len with
        | some p => .next (((s.askPull slice p).setSlice (s.leader slice) fun v => { v with hostPulls := insertNat p v.hostPulls }).reply .retry)
        | none =>
          let lines := ((List.range len).map fun j => lineOf (s.localPhys slice (o + j))).foldl (fun acc n => insertNat n acc) []
          if s.writeWaits lines || s.gatedIn (s.hostField slice off) lines then .next (s.reply .retry)
          else
            let (ok, s) := s.trackAll lines fun d => { d with host := true }
            if !ok then .next (s.reply .retry)
            else
              let s := lines.foldl (fun t n => t.readL2 slice (t.sysPid slice) (n * 128)) s
              if s.localPoisoned slice o len then .next (s.reply .poison)
              else .next (s.reply (.bytes (s.readLocal slice o len)))

/-- A host write of the launch window (R388, R443): the slots whose SEAL becomes nonzero are queued. -/
def State.writeWindow (s : State) (slice off : Nat) (bytes : List Byte) : State :=
  let sealAt (w : Memory) (n : Nat) : Byte := w.read (slice * 65536 + 128 * n + 127)
  let w := s.window.writeList (slice * 65536 + off) bytes
  let set := (List.range 512).filter fun n => sealAt s.window n == 0 && sealAt w n != 0
  ({ s with window := w } : State).setSlice slice fun v => { v with parseQ := v.parseQ ++ set }

/-- R504: a host write; one that reaches the slice's memory sets HOSTW (R497). -/
def execHostMemoryWrite (slice off : Nat) (bytes : List Byte) (s : State) : Host.Outcome State Fault Refusal :=
  if s.serves slice ∧ off + bytes.length ≤ 65536 then
    .next (if s.closed slice then s else s.writeWindow slice off bytes)
  else if s.rangeParked slice off then .next (s.reply .retry)
  else
    match s.rangeOffset slice off bytes.length with
    | none => .next s
    | some o =>
      if !s.hostMay slice then .next s
      else match s.pullPage slice o bytes.length with
        | some p => .next ((s.askPull slice p).reply .retry)
        | none =>
          let cells := (List.range bytes.length).map fun j => (s.localPhys slice (o + j), bytes.getD j 0)
          let gated := s.gatedIn (s.hostField slice off) (linesOf cells)
          let s := s.setMembers slice fun v => { v with hostw := true }
          if gated then .next (s.reply .retry) else .next ((linesOf cells).foldl (fun t n =>
            let (id, t) := t.fresh
            let w : HomeWrite :=
              { id := id, slice := cacheSlice slice n, line := n, pid := t.sysPid slice, cells := cells.filter (fun c => lineOf c.1 == n), ack := none, sent := false,
                device := false, ev := false, peer := false }
            { t with homeWrites := t.homeWrites ++ [w] }) s)

/-! ### Edge groups (R461, R470 to R473, R475, R476) -/

/-- Change an edge group. -/
def State.setEdge (s : State) (n : Nat) (f : EdgeSt → EdgeSt) : State := { s with edges := s.edges.modify n f }

/-- The group can be used: its field is enabled (R461) and it passed its test at bring-up (R485). -/
def State.groupOk (s : State) (n : Nat) : Bool :=
  s.valid && s.part.fields.toNat.testBit (n / 4) && s.measured.any fun e => e.step == 22 + n && e.result == .passed

/-- What a group's current personality carries, to be parked (R471). -/
def State.windows (s : State) (n : Nat) : Nat :=
  let e := s.edge n
  match e.mode with
  | 1 => if e.useNow = 0 then 2 ^ 8 else 2 ^ 9
  | 2 => ((List.range 8).map fun p => if (s.planeGroups p).contains n then 2 ^ p else 0).sum
  | 3 => 2 ^ 10
  | _ => 0

/-- The slices whose traffic a group carries in a personality (R475). -/
def State.carries (s : State) (n mode use xslice : Nat) : List Nat :=
  let all := (List.range 16).filter s.serves
  match mode with
  | 0 => []
  | 1 => if use = 0 then all else all.filter (· == s.leader xslice)
  | _ => all.filter fun k => s.allowance n k != 0

/-- A group that carries the traffic of some slices has changed its state (R477). -/
def State.groupEvent (s : State) (slices : List Nat) : State :=
  slices.foldl (fun t k => t.setVreg k 0x1110 (setField (t.vreg k 0x1110) 1 1 1)) s

/-- A link event for some slices (R475). -/
def State.linkEvent (s : State) (slices : List Nat) : State := slices.foldl (fun t k => t.interrupt k 6 0) s

/-- The slices whose traffic a group carries now. -/
def State.carried (s : State) (n : Nat) : List Nat := s.carries n (s.edge n).mode (s.edge n).useNow (s.edge n).sliceNow

/-- R470: a GO to EDG_CTLn; the group parks what it carries and drains. -/
def execEdgeSwitch (group : Nat) (val : Word) (s : State) : Host.Outcome State Fault Refusal :=
  if !s.valid || 16 ≤ group then .next s
  else
    let s := s.storeBits 0 (0x2000 + 16 * group) val 0x0FF00000
    if !s.groupOk group || (s.edge group).busy || 1 < fieldOfWord val 24 2 then .next s
    else
      .next ((s.setEdge group fun e => { e with
        parks := s.windows group, state := 2, busy := true, err := 0, target := fieldOfWord val 26 2, cxluse := fieldOfWord val 24 2,
        xslice := fieldOfWord val 20 4, since := s.clock, began := s.clock }).groupEvent (s.carried group))

/-- The operations of peers that travel on a group; those that wait at their sender do not (R471, R472). -/
def State.opsOn (s : State) (n : Nat) : List Op :=
  let on (k : Nat) : Bool := Phys.isPeer k && s.peerGroup k == some n
  s.ops.filter fun o => o.parkedAt.isNone && match o.kind with
    | .load parts _ _ _ _ => parts.any fun p => on p.1
    | .atomic key _ _ _ => on key
    | .ack .peer => (s.homeWrites.any fun w => w.ack == some o.issue && w.cells.any fun c => on c.1)
      || s.asu.any fun r => r.issue == o.issue && on r.key
    | _ => false

/-- An operation that was not answered by the time a group has drained fails (R472). -/
def State.failOn (s : State) (o : Op) : State :=
  match o.kind with
  | .load _ _ _ _ _ => afterEvent (execLoadDataLanding o.id .linkDown s) s
  | .atomic _ _ _ _ => afterEvent (execAtomicResultLanding o.id .linkDown s) s
  | .ack _ => afterEvent (execWriteAcknowledgement o.id false s) s
  | _ => s

/-- A group leaves every plane (R472). -/
def State.leavePlanes (s : State) (n : Nat) : State :=
  (List.range 8).foldl (fun t p => let off := 0x2110 + 4 * p
    t.setReg 0 off (t.reg 0 off &&& ~~~(.ofNat 32 (2 ^ n)))) s

/-- One dirty host line goes to its slice's stranded-line area, with the mask of its marked sectors, or is lost (R474, R477). -/
def State.strand (s : State) (l : L2Line) : State :=
  let slice := s.leader l.slice
  let base := fieldOfWord (s.vreg slice 0x1108) 0 28 * 4096
  let size := fieldOfWord (s.vreg slice 0x110C) 0 20 * 4096
  let at' := 256 * (s.slice slice).stranded
  let e := s.vreg slice 0x1110
  if size < at' + 256 ∨ s.localSize slice < base + at' + 256 then s.setVreg slice 0x1110 (setField e 8 8 (min (fieldOfWord e 8 8 + 1) 255))
  else
    let rcd := leBytes 8 (l.line * 128 % 2 ^ 48) ++ leBytes 1 (l.bad.map (2 ^ ·)).sum ++ leBytes 119 0 ++ l.bytes
    let s := s.writeLocal slice (base + at') rcd
    let s := s.setSlice slice fun v => { v with stranded := v.stranded + 1 }
    s.setVreg slice 0x1110 (setField e 16 16 (min (fieldOfWord e 16 16 + 1) 65535))

/-- The host can be reached no more (R474): every dirty host line is stranded and every host line dropped. -/
def State.loseHost (s : State) : State :=
  let s := (s.l2.filter fun l => lineHost l.line).foldl (fun t l => t.checkBank l.slice l.line) s
  let s := (s.l2.filter fun l => lineHost l.line && l.dirty).foldl (fun t l => t.strand l) s
  { s with l2 := s.l2.filter (fun l => !lineHost l.line), l2err := s.l2err.filter fun e => !lineHost (e.1.2 / 4) }

/-- The host gives up its copies of a slice's lines (R472). -/
def State.dropHostBits (s : State) (slice : Nat) : State :=
  let ms := s.members slice
  let ds := s.dir.map fun d => if ms.contains d.slice then { d with host := false } else d
  { s with dir := ds.filter fun d => d.host || !d.holders.isEmpty || d.coarse.isSome }

/-- The bounds of the steps of a switch (R470): draining, training, the link layer, mapping. -/
def edgeBound (state : Nat) : Nat :=
  match state with
  | 2 => millis 10
  | 3 => millis 25
  | 4 => millis 3
  | 5 => millis 1
  | _ => 1

/-- A group goes on to a state, within the bound of the one it leaves. -/
def EdgeSt.goTo (e : EdgeSt) (state now : Nat) : EdgeSt := { e with state := state, since := min now (e.since + edgeBound e.state) }

/-- R472: the outgoing personality has drained, and training begins; after a link failure, training is skipped (R475). -/
def execEdgeDrainComplete (group : Nat) (s : State) : Host.Outcome State Fault Refusal :=
  let e := s.edge group
  if e.state ≠ 1 ∧ e.state ≠ 2 then .next s
  else
    let s := (s.setEdge group fun e => e.goTo (if e.err = 3 then 5 else 3) s.clock).groupEvent (s.carried group)
    match e.mode with
    | 1 =>
      if e.useNow ≠ 0 then .next (s.dropHostBits e.sliceNow)
      else if s.hostUp then .next s
      else .next s.loseHost
    | 2 => .next (((s.opsOn group).foldl (fun t o => t.failOn o) s).leavePlanes group)
    | _ => .next s

/-- R470. -/
def execEdgeTrainingComplete (group : Nat) (s : State) : Host.Outcome State Fault Refusal :=
  if (s.edge group).state ≠ 3 then .next s
  else .next ((s.setEdge group fun e => e.goTo 4 s.clock).groupEvent (s.carried group))

/-- The plane that a UALink group is wired to (R461, R463). -/
def State.wiredPlane (s : State) (n : Nat) : Nat := Config.groupPlane n % 2 ^ fieldOfWord (s.reg 0 0x2100) 0 2

/-- What a group's new personality adds to a path set, which changes only while it is parked (R462, R463): it is parked when MAPPING
begins (DESIGN CHOICE, log entry 117). -/
def State.joins (s : State) (n : Nat) : Nat :=
  let e := s.edge n
  if e.err ≠ 0 then 0
  else match e.target with
    | 1 => if e.cxluse = 0 then 2 ^ 8 else 0
    | 2 => 2 ^ s.wiredPlane n
    | _ => 0

/-- R470: the link layer is up, and MAPPING begins. -/
def execEdgeLinklayerComplete (group : Nat) (s : State) : Host.Outcome State Fault Refusal :=
  if (s.edge group).state ≠ 4 then .next s
  else .next ((s.setEdge group fun e => { e.goTo 5 s.clock with parks := e.parks ||| s.joins group }).groupEvent (s.carried group))

/-- The path sets take a group in (R463, R470): a UALink group carries the plane it is wired to. -/
def State.joinPlanes (s : State) (n : Nat) : State :=
  let off := 0x2110 + 4 * s.wiredPlane n
  s.setReg 0 off (s.reg 0 off ||| .ofNat 32 (2 ^ n))

/-- Something that travels by a class whose path set is to change is in flight (R463). -/
def State.joinBusy (s : State) (n : Nat) : Bool :=
  let j := s.joins n
  let on (k : Phys) : Bool := (k.isHost && j.testBit 8) || (k.isPeer && j.testBit (s.plane k))
  j != 0 && s.ops.any fun o => o.parkedAt.isNone && (s.keysHere o).any on

/-- R470: once nothing is in flight where the path sets change, the windows unpark; the group is UP in its new personality, OFF, or
FAILED. -/
def execEdgeMappingComplete (group : Nat) (s : State) : Host.Outcome State Fault Refusal :=
  let e := s.edge group
  if e.state ≠ 5 || s.joinBusy group then .next s
  else
    let failed := e.err = 1 ∨ e.err = 2
    let off := e.target = 0 ∨ e.err ≠ 0
    let before := s.carried group
    let s := s.setEdge group fun e => { e with
      parks := 0, state := if failed then 7 else if off then 6 else 0, mode := if off then 0 else e.target,
      useNow := if off then 0 else e.cxluse, sliceNow := if off then 0 else e.xslice, busy := false }
    let s := if e.target = 2 ∧ ¬ off then s.joinPlanes group else s
    let all := unionNat before (s.carried group)
    let s := s.groupEvent all
    if off ∧ ¬ failed then .next s else .next (s.linkEvent all)

/-- R470: training or the link layer exceeds its bound, and the group will be FAILED. -/
def execEdgeBoundExceeded (group : Nat) (s : State) : Host.Outcome State Fault Refusal :=
  let e := s.edge group
  if e.state ≠ 3 ∧ e.state ≠ 4 then .next s
  else
    let s : State := { s with clock := max s.clock (e.since + edgeBound e.state) }
    .next ((s.setEdge group fun e => { e.goTo 5 s.clock with err := if e.state = 3 then 1 else 2 }).groupEvent (s.carried group))

/-- Peer holders that are reached over a group hold nothing any more: their invalidations count as acknowledged (R104, R475). -/
def State.dropHolders (s : State) (group : Nat) : State :=
  let via (d : DirEntry) : Bool := s.peerGroup (holderSpa d.line) == some group
  let ds := s.dir.map fun d => if via d then { d with holders := [], coarse := none } else d
  { s with dir := ds.filter fun d => d.host || !d.holders.isEmpty || d.coarse.isSome }

/-- R475: the link of an UP group fails. It parks and proceeds toward OFF, and the peer lines received over it go. -/
def execEdgeLinkFailure (group : Nat) (s : State) : Host.Outcome State Fault Refusal :=
  let e := s.edge group
  if e.state ≠ 0 then .next s
  else
    let via (l : L2Line) : Bool := e.mode == 2 && Phys.isPeer (l.line * 128) && s.peerGroup (l.line * 128) == some group
    let t := s.setEdge group fun e => { e with parks := s.windows group, state := 1, busy := true, err := 3, target := 0, cxluse := 0, since := s.clock, began := s.clock }
    let t := (t.l2.filter via).foldl (fun u l => u.dropLine l) t
    let t := if e.mode = 2 then t.dropHolders group else t
    .next ((t.groupEvent (s.carried group)).linkEvent (s.carried group))

/-- R474: Port H goes down. -/
def execPortHDown (s : State) : Host.Outcome State Fault Refusal :=
  if !s.portH then .next s
  else
    let s : State := { s with portH := false }
    let s := if s.hostUp then s else s.loseHost
    .next (s.linkEvent ((List.range 16).filter s.serves))

/-- R474: Port H trains again. -/
def execPortHUp (s : State) : Host.Outcome State Fault Refusal :=
  if s.portH then .next s
  else .next (({ s with portH := true } : State).linkEvent ((List.range 16).filter s.serves))

/-! ### Scale-out (R467 to R469) -/

/-- The work ring of a slice. -/
def State.ring (s : State) (slice : Nat) : Nat := fieldOfWord (s.vreg slice 0x1114) 0 28 * 4096

/-- A descriptor is posted that has not started (R467): TAIL is beyond it. -/
def State.posted (s : State) (slice : Nat) : Bool :=
  let tail := leNat (s.readLocal slice (s.ring slice + 0x4000) 4)
  s.serves slice && !s.closed slice && tail != (s.slice slice).ueIndex % 2 ^ 32

/-- R467, R469: the next descriptor and its endpoint entry are read, and HEAD is written. -/
def execScaleoutDescriptorStart (slice : Nat) (s : State) : Host.Outcome State Fault Refusal :=
  if !s.posted slice then .next s
  else
    let i := (s.slice slice).ueIndex
    let words := s.readLocal slice (s.ring slice + 64 * (i % 256)) 64
    let e := leNat ((words.drop 4).take 4)
    let endpoint := s.readLocal slice (fieldOfWord (s.vreg slice 0x1118) 0 28 * 4096 + 32 * (e % 4096)) 32
    let tail := leNat (s.readLocal slice (s.ring slice + 0x4000) 4)
    let d : Desc :=
      { slice := slice, index := i, words := words, endpoint := endpoint, since := s.clock, status := none, noTok := false, tokSince := none,
        overrun := decide (256 < (tail + 2 ^ 32 - i) % 2 ^ 32) }
    match s.holdersOf slice (s.ring slice + 0x4010) 4 with
    | some t => .next t
    | none =>
    let s := s.writeLocal slice (s.ring slice + 0x4010) (leBytes 4 (i + 1))
    .next (({ s with descs := s.descs ++ [d] } : State).setSlice slice fun v => { v with ueIndex := (i + 1) % 2 ^ 32 })

/-- A field of a descriptor. -/
def Desc.word (d : Desc) (off n : Nat) : Nat := leNat ((d.words.drop off).take n)

/-- A descriptor or its endpoint entry breaks R467 to R469; so does one that was posted over another that had not been read, for which
the rules name no fault of their own (R9; DESIGN CHOICE, log entry 91). -/
def Desc.bad (d : Desc) : Bool :=
  let op := d.word 0 4
  let e (off n : Nat) : Nat := leNat ((d.endpoint.drop off).take n)
  let flags := e 0x16 1
  d.overrun || op == 0 || decide (3 < op) || decide (4096 ≤ d.word 4 4) || d.word 0x1C 4 != 0 || d.word 0x28 24 != 0
    || d.word 0x18 4 == 0 || decide (2 ^ 30 < d.word 0x18 4) || flags % 2 == 0 || decide (8 ≤ flags) || e 0x17 1 != 0
    || decide (2 ^ 24 ≤ e 0x10 4) || decide (2 ^ 12 ≤ e 0x14 2) || (op != 3 && e 0x18 8 == 0)

/-- A range of virtual addresses page by page: address and bytes. -/
def vaPages (va n : Nat) : List (Nat × Nat) :=
  if n = 0 then []
  else (List.range ((va + n - 1) / 65536 - va / 65536 + 1)).map fun j =>
    let p := va / 65536 + j
    let lo := max va (p * 65536)
    (lo, min (va + n) ((p + 1) * 65536) - lo)

/-- Note a descriptor's status. -/
def State.setDesc (s : State) (d : Desc) (f : Desc → Desc) : State :=
  { s with descs := updWhere (fun e => e.slice == d.slice && e.index == d.index) f s.descs }

/-- A descriptor whose status is decided writes its token and is done with (R126, R468, R502). -/
def State.finishDesc (s : State) (d : Desc) (status : Nat) : State :=
  let gone (t : State) : State := { t with descs := t.descs.filter fun e => !(e.slice == d.slice && e.index == d.index) }
  let s := s.setDesc d fun e => { e with status := some status }
  let tok := d.word 0x20 8
  if tok = 0 then gone s
  else
    let bs := leBytes 4 d.index ++ leBytes 2 status ++ leBytes 2 0xFFFF ++ leBytes 8 (Config.ueCycle s.free).toNat
    let park (t : State) : State := t.setDesc d fun e => { e with tokSince := some t.clock }
    if tok % 16 ≠ 0 then gone (s.draw.dropStores d.slice 1)
    else match s.draw.writeToken d.slice (Config.ueAsid d.slice % 256) (s.sysPid d.slice) 0 0 tok .store [5, d.slice, d.index] d.noTok d.tokSince park bs with
      | .wait t => t
      | .done t => gone t

/-- How the local side of a transfer stands: done, waiting for a page, or failed. -/
inductive LocalEnd where
  | done (s : State)
  | wait (s : State)
  | failed

/-- The local accesses of a transfer (R467, R468): WRITE and SEND read, READ writes what it brought. -/
def State.localSide (s : State) (d : Desc) (bytes : List Byte) : LocalEnd :=
  let asid := Config.ueAsid d.slice % 256
  let read := d.word 0 4 == 2
  let va := d.word 8 8
  let ps := vaPages va (d.word 0x18 4)
  let rs := ps.map fun p => (p, s.reach d.slice asid p.1 p.2 (if read then .copyWrite else .copyRead))
  match rs.find? fun r => match r.2 with
    | .ok _ => false
    | _ => true with
  | some r => match r.2 with
    | .pull p => .wait (s.askPull d.slice p)
    | .parked _ => .wait s
    | .full => .wait s
    | _ => .failed
  | none =>
    if !read then .done s
    else
      let cells := rs.flatMap fun r => match r.2 with
        | .ok k => cellsFrom k ((List.range r.1.2).map fun j => bytes.getD (r.1.1 - va + j) 0)
        | _ => []
      match s.clearHolders d.slice (linesOf cells) with
      | some t => .wait t
      | none => match s.crossNow (d.slice / 4) (cells.map Prod.fst) with
        | none => .wait s
        | some t => .done (t.deviceWrite d.slice (t.sysPid d.slice) cells)

/-- R468: a transfer ends; one that no group can carry now waits. -/
def execScaleoutDescriptorComplete (slice index : Nat) (res : TransferResult) (s : State) : Host.Outcome State Fault Refusal :=
  match s.descs.find? fun d => d.slice == slice && d.index == index with
  | none => .next s
  | some d =>
    match d.status with
    | some n => .next (s.finishDesc d n)
    | none =>
      if d.bad then .next (s.finishDesc d 4)
      else match res with
        | .unreachable => .next (s.finishDesc d 5)
        | .done bytes =>
          if !s.uePath slice then .next s
          else match s.localSide d bytes with
            | .done t => .next (t.finishDesc d 1)
            | .wait t => .next t
            | .failed => .next (s.finishDesc d 4)

/-- R468: no group has carried the transfer for 40 ms. -/
def execScaleoutTimeout (slice index : Nat) (s : State) : Host.Outcome State Fault Refusal :=
  match s.descs.find? fun d => d.slice == slice && d.index == index && d.status.isNone with
  | none => .next s
  | some d =>
    match d.stuck with
    | none => .next s
    | some t =>
      if s.uePath slice || d.bad then .next s
      else .next (({ s with clock := max s.clock (t + millis 40) } : State).finishDesc d 5)

end Sys2Proof.Machine
end

