-- ==== Sys2Proof/Machine/Pair.lean ====
section
/-! DEFINITION. Pairs (02 R41 to R43): a span-slot word and a strand-slot word under one guard, both reading before either
writes. -/

namespace Sys2Proof.Machine

/-- The B operand of a base word in a slot (R42). -/
def slotB (span : Bool) (bk : Bool) (b : BitVec 7) : Src := if bk then kSrc b.toNat else regSrc span b.toNat

/-- The computation of a single-source major (R30). -/
def State.oneCalc (s : State) (i : Issue) (op : Op1) (d : Dst) (a : Src) : Calc :=
  match op with
  | .mov => { outs := [(s.src32 i.ctx i.launch.rcd a).copyTo i d], once := d.isQ, fl := fun _ => 0 }
  | .popc => s.calc1 i d a popcW
  | .clz => s.calc1 i d a clzW
  | .brev => s.calc1 i d a brevW
  | .not => s.calc1 i d a (~~~ ·)

/-- The computation of a slot; none for a memory word. -/
def State.slotCalc (s : State) (i : Issue) (span : Bool) : Slot → Option Calc
  | .two op f =>
    let d := slotDst span f.d.toNat
    let a := regSrc span f.a.toNat
    let b := slotB span f.bk f.b
    match intOp op with
    | some (form, fn) => some (s.calc2 i d a b form fn)
    | none => (fpOp op (regSrc span f.d.toNat) a b).map fun ev => s.fcalc i d ev
  | .one op f => some (s.oneCalc i op (slotDst span f.d.toNat) (slotB span f.bk f.b))
  | .f20 op f => some (s.fcalc i (slotDst span f.d.toNat) (f20Eval op (regSrc span f.d.toNat) f.value))
  | .mem _ _ => none

/-- The register of a slot. -/
def slotReg (span : Bool) (n : Nat) : RegRef := if span then .q n else .x n

/-- The issue data of a slot. -/
def slotInfo (span : Bool) : Slot → Meta
  | .two op f =>
    { words := 0,
      marks := (if f.alr then [slotReg span f.a.toNat] else []) ++ (if f.blr then [slotReg span f.b.toNat] else []),
      reads := [slotReg span f.a.toNat] ++ (if f.bk then [] else [slotReg span f.b.toNat])
        ++ (if op.readsD then [slotReg span f.d.toNat] else []),
      writes := [slotReg span f.d.toNat], usesK := f.bk }
  | .one _ f =>
    { words := 0, marks := if f.blr then [slotReg span f.b.toNat] else [],
      reads := if f.bk then [] else [slotReg span f.b.toNat], writes := [slotReg span f.d.toNat], usesK := f.bk }
  | .f20 _ f => { words := 0, reads := [slotReg span f.d.toNat], writes := [slotReg span f.d.toNat] }
  | .mem op f =>
    { words := 0,
      marks := (if f.alr then [.x f.a.toNat] else []) ++ (if f.blr then [.x f.b.toNat] else []),
      reads := [.x f.a.toNat] ++ (if f.bk then [] else [.x f.b.toNat]) ++ (if op == .st then [.x f.d.toNat] else []),
      writes := if op == .st then [] else [.x f.d.toNat], usesK := f.bk, long := op != .st }

/-- The issue data of a pair: it counts as one instruction (R43, R46). -/
def pairInfo (w : PairWord) : Meta :=
  let a := slotInfo true w.span
  let b := slotInfo false w.strand
  { words := 3, long := b.long, guard := w.guard, neg := w.neg, marks := a.marks ++ b.marks, reads := a.reads ++ b.reads,
    writes := a.writes ++ b.writes, usesK := a.usesK || b.usesK }

/-- The memory word of a strand slot. -/
def State.memSlot (s : State) (i : Issue) (m : Meta) (op : OpM) (f : BaseOps) : Act :=
  match op with
  | .ld => s.load i m f.memForm (baseCode f.d) false
  | .st => s.store i m f.memForm f.srcD
  | .ldq => s.load i m f.memForm (baseCode f.d) true

/-- The span slot's results beside a memory word that has been performed. -/
def State.withSpan (s : State) (i : Issue) (c : Calc) : State :=
  s.modCtx i.ctx.id fun x =>
    let x := c.outs.foldl (fun y o => o.write i y) x
    { x with fflags := x.fflags ||| i.raised [c] }

/-- R43. -/
def execPair (w : PairWord) (s : State) : Host.Outcome State Fault Refusal :=
  let m := pairInfo w
  s.issueInstr m fun s i =>
    match s.slotCalc i true w.span, w.strand with
    | some c, .mem op f =>
      match s.trapped i [c] with
      | some a => a
      | none =>
        match s.memSlot i m op f with
        | .advance t => s.roomFor (t.withSpan i c) i
        | a => a
    | c, strand => s.perform i m (c.toList ++ (s.slotCalc i false strand).toList)

end Sys2Proof.Machine
end

