-- ==== Sys2Proof/Machine/Power.lean ====
section
/-! DEFINITION. Module reset, bring-up, operating points and memory errors (00 R7, 03 R83, 18 R478 to R487). -/

namespace Sys2Proof.Machine

/-! ### Module reset (R7, R484) -/

/-- R7, R484: module reset. What lies outside the reset is kept: host memory, the bring-up record in non-volatile storage
(R486), Port H, and the model's own counters and inputs. -/
def execModuleReset (s : State) : Host.Outcome State Fault Refusal :=
  .next { State.reset with
    host := s.host, bring := s.bring, portH := s.portH, free := s.free, nextId := s.nextId, inputs := s.inputs,
    slices := (List.range 16).map fun n => { SliceSt.reset n with keyGen := (s.slice n).keyGen } }

/-! ### Bring-up (R484 to R487) -/

/-- The record's entry of a step. -/
def bringEntry (es : List BringEntry) (step : Nat) : Option BringEntry := es.find? fun e => e.step == step

/-- A step that bring-up cannot do without (R485). -/
def stepRequired (step : Nat) : Bool := step == 1 || step == 2 || step == 6 || step == 38

/-- A step has an alternate method (R485). -/
def stepAlternate (step : Nat) : Bool := decide (2 ≤ step) && decide (step ≤ 21)

/-- The part has the unit that a step starts: a field, a stack of a field that is up, or an edge group of one. -/
def stepExists (img : FirmwareImage) (fields : Nat → Bool) (step : Nat) : Bool :=
  if step = 1 ∨ step = 38 then true
  else if step ≤ 5 then img.fields.toNat.testBit (step - 2)
  else if step ≤ 21 then img.stackMask.toNat.testBit (step - 6) && fields ((step - 6) / 4)
  else fields ((step - 22) / 4)

/-- How a step is handled on this start: by a method, by skipping it, or not at all (R486). -/
inductive StepPlan where
  | run (method : Nat)
  | skip
  | stop
  deriving DecidableEq, Repr

/-- R486. -/
def stepPlan (es : List BringEntry) (step : Nat) : StepPlan :=
  match bringEntry es step with
  | none => .run 1
  | some e =>
    if e.result == .passed then .run 1
    else if stepAlternate step && !e.altFailed then .run 2
    else if stepRequired step then .stop
    else .skip

/-- How bring-up stands: the record, the steps that passed with their methods, the step last run, and the ERR that ended it or
that a reset cut it short. -/
structure BringUp where
  entries : List BringEntry
  passed : List (Nat × Nat)
  last : Nat
  err : Nat
  cut : Bool
  deriving DecidableEq, Repr

/-- A field has come up. -/
def BringUp.field (b : BringUp) (f : Nat) : Bool := b.passed.any fun p => p.1 == f + 2

/-- One step of bring-up (R485, R486). -/
def BringUp.step (b : BringUp) (img : FirmwareImage) (n : Nat) : BringUp :=
  if b.err ≠ 0 ∨ b.cut ∨ stepExists img b.field n = false then b
  else match stepPlan b.entries n with
    | .skip => b
    | .stop => { b with err := 3 }
    | .run m =>
      let old := bringEntry b.entries n
      let tries := (old.map BringEntry.attempts).getD 0 + 1
      let alt := (old.map BringEntry.altFailed).getD false
      let rest := b.entries.filter fun e => e.step != n
      let entry (ok : StepResult) (a : Bool) : BringEntry := { step := n, method := m, attempts := tries, result := ok, altFailed := a }
      match img.results.getD (n - 1) .passed with
      | .passed => { b with entries := rest ++ [entry .passed false], passed := b.passed ++ [(n, m)], last := n }
      | .failed => { b with entries := rest ++ [entry .failed (alt || m == 2)], last := n, err := if stepRequired n then 3 else 0 }
      | .cut => { b with entries := rest ++ [entry .cut (alt || m == 2)], last := n, cut := true }

/-- All the steps in order (R485). -/
def bringUp (es : List BringEntry) (img : FirmwareImage) : BringUp :=
  (List.range 38).foldl (fun b n => b.step img (n + 1)) { entries := es, passed := [], last := 0, err := 0, cut := false }

/-- The part as it came up (R22, R24, R485). -/
def BringUp.part (b : BringUp) (img : FirmwareImage) : Part :=
  let up (n : Nat) : Bool := b.passed.any fun p => p.1 == n
  { fields := .ofNat 4 ((List.range 4).map fun f => if up (f + 2) then 2 ^ f else 0).sum,
    clusters := (List.range 4).map fun f => if up (f + 2) then img.clusters.getD f 0 else 0,
    stackMask := .ofNat 16 ((List.range 16).map fun n => if up (n + 6) then 2 ^ n else 0).sum }

/-- The operating point that bring-up sets in a field (R485). -/
def BringUp.mhz (b : BringUp) (f : Nat) : Nat := if b.passed.contains (f + 2, 2) then 640 else 940

/-- The last step: every present slice is cleared, and DST_CAP0.VALID sets (R443, R485). -/
def State.comeUp (s : State) (img : FirmwareImage) (b : BringUp) : State :=
  let s : State := { s with
    valid := true, part := b.part img, measured := b.entries,
    fields := s.fields.mapIdx fun f v => { v with mhz := b.mhz f, clk := s.fieldClock f, base := s.clock } }
  ((List.range 16).filter s.present).foldl (fun t n => t.finishClearing n) s

/-- Where the firmware's image lies in host memory, PF0 being the requester (R64, R484, R487). -/
def State.imageKey (s : State) : Phys :=
  physHost + 16 * 2 ^ 48 + ((s.reg 0 0x20).toNat + (s.reg 0 0x24).toNat * 2 ^ 32) % 2 ^ 48

/-- The bytes of the image, as field 0's boot logic reads them from the host (R484). -/
def State.imageBytes (s : State) : List Byte := s.host.readList (s.imageKey - physHost) (s.reg 0 0x28).toNat

/-- Some sector of the image carries a poison mark (R84). -/
def State.imagePoisoned (s : State) : Bool :=
  let k := s.imageKey
  s.poison.any fun n => decide (n * 32 < k + (s.reg 0 0x28).toNat) && decide (k < n * 32 + 32)

/-- R484: a GO to CUR_FWCTL. It is discarded once the part is up, and while a push has not ended, as one that a reset cuts short does not
end. -/
def execFirmwarePush (img : FirmwareImage) (s : State) : Host.Outcome State Fault Refusal :=
  if s.valid || s.fwBusy then .next s
  else if !img.readable || !s.hostUp || s.imagePoisoned || decide (2 ^ 26 < (s.reg 0 0x28).toNat) then .next { s with fwErr := 2 }
  else if !img.signed then .next { s with fwErr := 1 }
  else
    let b := bringUp s.bring img
    let s : State := { s with bring := b.entries, fwErr := b.err, fwStep := b.last, fwBusy := b.cut, measure := leNat (s.imageBytes ++ [1]) }
    if b.err ≠ 0 ∨ b.cut then .next s else .next (s.comeUp img b)

/-- R486: CLR erases the record. -/
def execBringUpRecordClear (s : State) : Host.Outcome State Fault Refusal := .next { s with bring := [] }

/-! ### Operating points and current (R479, R482) -/

/-- R482: the field's estimated current is published, and its engines count anew (DESIGN CHOICE, log entry 93). How the Curator
computes it from the counts and the grants is not said: it is any value. -/
def execCurrentEstimatePublish (field : Nat) (est : BitVec 15) (s : State) : Host.Outcome State Fault Refusal :=
  if !s.part.fields.toNat.testBit field then .next s
  else
    let anew (c : CoreSt) : CoreSt := if fieldOf c.core == field then { c with toggles := 0, zeros := 0 } else c
    .next { s with fields := s.fields.modify field (fun f => { f with est := est }), cores := s.cores.map anew }

/-- R17, R479: a change of operating point or divider alters rates only; a core's clocks so far are kept (R148). -/
def execOperatingPointChange (chg : PointChange) (s : State) : Host.Outcome State Fault Refusal :=
  match chg with
  | .field f mhz =>
    if mhz = 940 ∨ mhz = 800 ∨ mhz = 640 then
      .next { s with fields := s.fields.modify f fun v => { v with mhz := mhz, clk := s.fieldClock f, base := s.clock } }
    else .next s
  | .core c n =>
    if 2 ≤ n ∧ n ≤ 8 ∧ s.present (sliceOf c) = true then
      .next (s.setCore c fun k => { k with div := n, cycBase := s.cycles c, clkBase := s.fieldClock (fieldOf c) })
    else .next s

/-! ### Errors in a stack (R83) -/

/-- R83: the patrol scrubber reads a sector. -/
def execEccPatrolScrub (stack sector : Nat) (s : State) : Host.Outcome State Fault Refusal :=
  .next (s.checkSector (stack * 2 ^ 31 + sector))

end Sys2Proof.Machine
end

