-- ==== Sys2Proof/Machine/Dispatch.lean ====
section
/-! DEFINITION. One arm per constructor of `Instr`: each calls its meaning. -/

namespace Sys2Proof.Machine

/-- What instruction or event `i` does to the machine. -/
def exec (i : Instr) (s : State) : Host.Outcome State Fault Refusal :=
  match i with
  | .clause h => Sys2Proof.Machine.execClause h s
  | .pair w => Sys2Proof.Machine.execPair w s
  | .iaddBase f => Sys2Proof.Machine.execIaddBase f s
  | .iaddBaseLit f => Sys2Proof.Machine.execIaddBaseLit f s
  | .isubBase f => Sys2Proof.Machine.execIsubBase f s
  | .isubBaseLit f => Sys2Proof.Machine.execIsubBaseLit f s
  | .imulBase f => Sys2Proof.Machine.execImulBase f s
  | .imulBaseLit f => Sys2Proof.Machine.execImulBaseLit f s
  | .imulhBase f => Sys2Proof.Machine.execImulhBase f s
  | .imulhBaseLit f => Sys2Proof.Machine.execImulhBaseLit f s
  | .iminBase f => Sys2Proof.Machine.execIminBase f s
  | .iminBaseLit f => Sys2Proof.Machine.execIminBaseLit f s
  | .imaxBase f => Sys2Proof.Machine.execImaxBase f s
  | .imaxBaseLit f => Sys2Proof.Machine.execImaxBaseLit f s
  | .andBase f => Sys2Proof.Machine.execAndBase f s
  | .andBaseLit f => Sys2Proof.Machine.execAndBaseLit f s
  | .orBase f => Sys2Proof.Machine.execOrBase f s
  | .orBaseLit f => Sys2Proof.Machine.execOrBaseLit f s
  | .xorBase f => Sys2Proof.Machine.execXorBase f s
  | .xorBaseLit f => Sys2Proof.Machine.execXorBaseLit f s
  | .andnBase f => Sys2Proof.Machine.execAndnBase f s
  | .andnBaseLit f => Sys2Proof.Machine.execAndnBaseLit f s
  | .shlBase f => Sys2Proof.Machine.execShlBase f s
  | .shlBaseLit f => Sys2Proof.Machine.execShlBaseLit f s
  | .shrBase f => Sys2Proof.Machine.execShrBase f s
  | .shrBaseLit f => Sys2Proof.Machine.execShrBaseLit f s
  | .sarBase f => Sys2Proof.Machine.execSarBase f s
  | .sarBaseLit f => Sys2Proof.Machine.execSarBaseLit f s
  | .rolBase f => Sys2Proof.Machine.execRolBase f s
  | .rolBaseLit f => Sys2Proof.Machine.execRolBaseLit f s
  | .lea1Base f => Sys2Proof.Machine.execLea1Base f s
  | .lea1BaseLit f => Sys2Proof.Machine.execLea1BaseLit f s
  | .lea2Base f => Sys2Proof.Machine.execLea2Base f s
  | .lea2BaseLit f => Sys2Proof.Machine.execLea2BaseLit f s
  | .lea3Base f => Sys2Proof.Machine.execLea3Base f s
  | .lea3BaseLit f => Sys2Proof.Machine.execLea3BaseLit f s
  | .faddBase f => Sys2Proof.Machine.execFaddBase f s
  | .faddBaseLit f => Sys2Proof.Machine.execFaddBaseLit f s
  | .fmulBase f => Sys2Proof.Machine.execFmulBase f s
  | .fmulBaseLit f => Sys2Proof.Machine.execFmulBaseLit f s
  | .ffmaDmBase f => Sys2Proof.Machine.execFfmaDmBase f s
  | .ffmaDmBaseLit f => Sys2Proof.Machine.execFfmaDmBaseLit f s
  | .ffmaAccBase f => Sys2Proof.Machine.execFfmaAccBase f s
  | .ffmaAccBaseLit f => Sys2Proof.Machine.execFfmaAccBaseLit f s
  | .fminBase f => Sys2Proof.Machine.execFminBase f s
  | .fminBaseLit f => Sys2Proof.Machine.execFminBaseLit f s
  | .fmaxBase f => Sys2Proof.Machine.execFmaxBase f s
  | .fmaxBaseLit f => Sys2Proof.Machine.execFmaxBaseLit f s
  | .padd16Base f => Sys2Proof.Machine.execPadd16Base f s
  | .padd16BaseLit f => Sys2Proof.Machine.execPadd16BaseLit f s
  | .pmul16Base f => Sys2Proof.Machine.execPmul16Base f s
  | .pmul16BaseLit f => Sys2Proof.Machine.execPmul16BaseLit f s
  | .pfma16AccBase f => Sys2Proof.Machine.execPfma16AccBase f s
  | .pfma16AccBaseLit f => Sys2Proof.Machine.execPfma16AccBaseLit f s
  | .movBase f => Sys2Proof.Machine.execMovBase f s
  | .movBaseLit f => Sys2Proof.Machine.execMovBaseLit f s
  | .popcBase f => Sys2Proof.Machine.execPopcBase f s
  | .popcBaseLit f => Sys2Proof.Machine.execPopcBaseLit f s
  | .clzBase f => Sys2Proof.Machine.execClzBase f s
  | .clzBaseLit f => Sys2Proof.Machine.execClzBaseLit f s
  | .brevBase f => Sys2Proof.Machine.execBrevBase f s
  | .brevBaseLit f => Sys2Proof.Machine.execBrevBaseLit f s
  | .notBase f => Sys2Proof.Machine.execNotBase f s
  | .notBaseLit f => Sys2Proof.Machine.execNotBaseLit f s
  | .ldB32Base f => Sys2Proof.Machine.execLdB32Base f s
  | .ldB32BaseLit f => Sys2Proof.Machine.execLdB32BaseLit f s
  | .stB32Base f => Sys2Proof.Machine.execStB32Base f s
  | .stB32BaseLit f => Sys2Proof.Machine.execStB32BaseLit f s
  | .ldqB32Base f => Sys2Proof.Machine.execLdqB32Base f s
  | .ldqB32BaseLit f => Sys2Proof.Machine.execLdqB32BaseLit f s
  | .braBase disp => Sys2Proof.Machine.execBraBase disp s
  | .faddI f => Sys2Proof.Machine.execFaddI f s
  | .fmulI f => Sys2Proof.Machine.execFmulI f s
  | .fminI f => Sys2Proof.Machine.execFminI f s
  | .fmaxI f => Sys2Proof.Machine.execFmaxI f s
  | .fmovI f => Sys2Proof.Machine.execFmovI f s
  | .bra e => Sys2Proof.Machine.execBra e s
  | .brx e => Sys2Proof.Machine.execBrx e s
  | .call e => Sys2Proof.Machine.execCall e s
  | .ret e => Sys2Proof.Machine.execRet e s
  | .exit e => Sys2Proof.Machine.execExit e s
  | .join e => Sys2Proof.Machine.execJoin e s
  | .yield e => Sys2Proof.Machine.execYield e s
  | .wait e => Sys2Proof.Machine.execWait e s
  | .nop e => Sys2Proof.Machine.execNop e s
  | .mat e => Sys2Proof.Machine.execMat e s
  | .formq e => Sys2Proof.Machine.execFormq e s
  | .mov e => Sys2Proof.Machine.execMov e s
  | .movk e => Sys2Proof.Machine.execMovk e s
  | .sel e => Sys2Proof.Machine.execSel e s
  | .rds e => Sys2Proof.Machine.execRds e s
  | .wrs e => Sys2Proof.Machine.execWrs e s
  | .pcomb e => Sys2Proof.Machine.execPcomb e s
  | .pmov e => Sys2Proof.Machine.execPmov e s
  | .vote e => Sys2Proof.Machine.execVote e s
  | .sxch e => Sys2Proof.Machine.execSxch e s
  | .sred e => Sys2Proof.Machine.execSred e s
  | .iadd e => Sys2Proof.Machine.execIadd e s
  | .isub e => Sys2Proof.Machine.execIsub e s
  | .imul e => Sys2Proof.Machine.execImul e s
  | .imulh e => Sys2Proof.Machine.execImulh e s
  | .imad e => Sys2Proof.Machine.execImad e s
  | .imin e => Sys2Proof.Machine.execImin e s
  | .imax e => Sys2Proof.Machine.execImax e s
  | .iabs e => Sys2Proof.Machine.execIabs e s
  | .ineg e => Sys2Proof.Machine.execIneg e s
  | .and e => Sys2Proof.Machine.execAnd e s
  | .or e => Sys2Proof.Machine.execOr e s
  | .xor e => Sys2Proof.Machine.execXor e s
  | .not e => Sys2Proof.Machine.execNot e s
  | .andn e => Sys2Proof.Machine.execAndn e s
  | .shl e => Sys2Proof.Machine.execShl e s
  | .shr e => Sys2Proof.Machine.execShr e s
  | .sar e => Sys2Proof.Machine.execSar e s
  | .rol e => Sys2Proof.Machine.execRol e s
  | .popc e => Sys2Proof.Machine.execPopc e s
  | .clz e => Sys2Proof.Machine.execClz e s
  | .brev e => Sys2Proof.Machine.execBrev e s
  | .bfe e => Sys2Proof.Machine.execBfe e s
  | .bfi e => Sys2Proof.Machine.execBfi e s
  | .bperm e => Sys2Proof.Machine.execBperm e s
  | .lea e => Sys2Proof.Machine.execLea e s
  | .icmp e => Sys2Proof.Machine.execIcmp e s
  | .idp4 e => Sys2Proof.Machine.execIdp4 e s
  | .iadd64 e => Sys2Proof.Machine.execIadd64 e s
  | .imad64 e => Sys2Proof.Machine.execImad64 e s
  | .fadd e => Sys2Proof.Machine.execFadd e s
  | .fmul e => Sys2Proof.Machine.execFmul e s
  | .ffma e => Sys2Proof.Machine.execFfma e s
  | .fmin e => Sys2Proof.Machine.execFmin e s
  | .fmax e => Sys2Proof.Machine.execFmax e s
  | .fcmp e => Sys2Proof.Machine.execFcmp e s
  | .frnd e => Sys2Proof.Machine.execFrnd e s
  | .frcp e => Sys2Proof.Machine.execFrcp e s
  | .frsq e => Sys2Proof.Machine.execFrsq e s
  | .fsqrt e => Sys2Proof.Machine.execFsqrt e s
  | .fex2 e => Sys2Proof.Machine.execFex2 e s
  | .flg2 e => Sys2Proof.Machine.execFlg2 e s
  | .fsin e => Sys2Proof.Machine.execFsin e s
  | .fcos e => Sys2Proof.Machine.execFcos e s
  | .padd16 e => Sys2Proof.Machine.execPadd16 e s
  | .pmul16 e => Sys2Proof.Machine.execPmul16 e s
  | .pfma16 e => Sys2Proof.Machine.execPfma16 e s
  | .pmin16 e => Sys2Proof.Machine.execPmin16 e s
  | .pmax16 e => Sys2Proof.Machine.execPmax16 e s
  | .ftoi e => Sys2Proof.Machine.execFtoi e s
  | .itof e => Sys2Proof.Machine.execItof e s
  | .ftof e => Sys2Proof.Machine.execFtof e s
  | .fpk8 e => Sys2Proof.Machine.execFpk8 e s
  | .fpk4 e => Sys2Proof.Machine.execFpk4 e s
  | .funpk e => Sys2Proof.Machine.execFunpk e s
  | .ld e => Sys2Proof.Machine.execLd e s
  | .st e => Sys2Proof.Machine.execSt e s
  | .ldq e => Sys2Proof.Machine.execLdq e s
  | .prf e => Sys2Proof.Machine.execPrf e s
  | .cctl e => Sys2Proof.Machine.execCctl e s
  | .atom e => Sys2Proof.Machine.execAtom e s
  | .red e => Sys2Proof.Machine.execRed e s
  | .cas128 e => Sys2Proof.Machine.execCas128 e s
  | .fence e => Sys2Proof.Machine.execFence e s
  | .cpy e => Sys2Proof.Machine.execCpy e s
  | .cpy2 e => Sys2Proof.Machine.execCpy2 e s
  | .cpy3 e => Sys2Proof.Machine.execCpy3 e s
  | .cpyg e => Sys2Proof.Machine.execCpyg e s
  | .publ e => Sys2Proof.Machine.execPubl e s
  | .ctok e => Sys2Proof.Machine.execCtok e s
  | .ccan e => Sys2Proof.Machine.execCcan e s
  | .grel e => Sys2Proof.Machine.execGrel e s
  | .gstat e => Sys2Proof.Machine.execGstat e s
  | .tpost e => Sys2Proof.Machine.execTpost e s
  | .chb e => Sys2Proof.Machine.execChb e s
  | .che e => Sys2Proof.Machine.execChe e s
  | .gnew e => Sys2Proof.Machine.execGnew e s
  | .gjoin e => Sys2Proof.Machine.execGjoin e s
  | .gleave e => Sys2Proof.Machine.execGleave e s
  | .gfree e => Sys2Proof.Machine.execGfree e s
  | .bar e => Sys2Proof.Machine.execBar e s
  | .barinit e => Sys2Proof.Machine.execBarinit e s
  | .barr e => Sys2Proof.Machine.execBarr e s
  | .barw e => Sys2Proof.Machine.execBarw e s
  | .sigs e => Sys2Proof.Machine.execSigs e s
  | .sigw e => Sys2Proof.Machine.execSigw e s
  | .launch e => Sys2Proof.Machine.execLaunch e s
  | .trap e => Sys2Proof.Machine.execTrap e s
  | .brk e => Sys2Proof.Machine.execBrk e s
  | .registerWrite who fn off val => Sys2Proof.Machine.execRegisterWrite who fn off val s
  | .moduleReset => Sys2Proof.Machine.execModuleReset s
  | .firmwarePush img => Sys2Proof.Machine.execFirmwarePush img s
  | .bringUpRecordClear => Sys2Proof.Machine.execBringUpRecordClear s
  | .sealWrite slice slot sealByte => Sys2Proof.Machine.execSealWrite slice slot sealByte s
  | .launchRecordParse slice => Sys2Proof.Machine.execLaunchRecordParse slice s
  | .afterTokenPoll launch => Sys2Proof.Machine.execAfterTokenPoll launch s
  | .admissionRound slice => Sys2Proof.Machine.execAdmissionRound slice s
  | .distributorReport member => Sys2Proof.Machine.execDistributorReport member s
  | .fastPathLateCheck launch => Sys2Proof.Machine.execFastPathLateCheck launch s
  | .launchComplete launch => Sys2Proof.Machine.execLaunchComplete launch s
  | .launchDoneWatchdog child => Sys2Proof.Machine.execLaunchDoneWatchdog child s
  | .ctbRequestWrite slice queue val => Sys2Proof.Machine.execCtbRequestWrite slice queue val s
  | .ctbBindWrite slice queue second val => Sys2Proof.Machine.execCtbBindWrite slice queue second val s
  | .curatorDefaultBind slice => Sys2Proof.Machine.execCuratorDefaultBind slice s
  | .tlbMissWalk walk => Sys2Proof.Machine.execTlbMissWalk walk s
  | .walkComplete walk => Sys2Proof.Machine.execWalkComplete walk s
  | .pageFaultRecord slice seq => Sys2Proof.Machine.execPageFaultRecord slice seq s
  | .fwsInvalidatePage slice asid => Sys2Proof.Machine.execFwsInvalidatePage slice asid s
  | .fwsInvalidateAsid slice asid => Sys2Proof.Machine.execFwsInvalidateAsid slice asid s
  | .fwsInvalidateSlice cmd => Sys2Proof.Machine.execFwsInvalidateSlice cmd s
  | .invalidationDone slice => Sys2Proof.Machine.execInvalidationDone slice s
  | .fwsReplay slice seq => Sys2Proof.Machine.execFwsReplay slice seq s
  | .fwsFail slice seq => Sys2Proof.Machine.execFwsFail slice seq s
  | .l2bHashctlWrite slice val => Sys2Proof.Machine.execL2bHashctlWrite slice val s
  | .l2bPidmaskWrite slice pid val => Sys2Proof.Machine.execL2bPidmaskWrite slice pid val s
  | .loadDataLanding op ans => Sys2Proof.Machine.execLoadDataLanding op ans s
  | .l1WriteBack core line => Sys2Proof.Machine.execL1WriteBack core line s
  | .l1CleanLineExpiry core line => Sys2Proof.Machine.execL1CleanLineExpiry core line s
  | .writeAcknowledgement op ok => Sys2Proof.Machine.execWriteAcknowledgement op ok s
  | .asuRequest req => Sys2Proof.Machine.execAsuRequest req s
  | .atomicResultLanding op ans => Sys2Proof.Machine.execAtomicResultLanding op ans s
  | .homeWrite write => Sys2Proof.Machine.execHomeWrite write s
  | .invalidationAcksDone write => Sys2Proof.Machine.execInvalidationAcksDone write s
  | .holderInvalidation slice line => Sys2Proof.Machine.execHolderInvalidation slice line s
  | .peerReadRequest req => Sys2Proof.Machine.execPeerReadRequest req s
  | .peerWriteRequest req bytes => Sys2Proof.Machine.execPeerWriteRequest req bytes s
  | .hostSnoop slice line kind => Sys2Proof.Machine.execHostSnoop slice line kind s
  | .hostMemoryRead slice off len => Sys2Proof.Machine.execHostMemoryRead slice off len s
  | .hostMemoryWrite slice off bytes => Sys2Proof.Machine.execHostMemoryWrite slice off bytes s
  | .fieldBeacon src dst => Sys2Proof.Machine.execFieldBeacon src dst s
  | .crossFieldWriteApply write => Sys2Proof.Machine.execCrossFieldWriteApply write s
  | .eccPatrolScrub stack sector => Sys2Proof.Machine.execEccPatrolScrub stack sector s
  | .copyComplete copy link => Sys2Proof.Machine.execCopyComplete copy link s
  | .publPhaseFlip slice win => Sys2Proof.Machine.execPublPhaseFlip slice win s
  | .publDone slice win => Sys2Proof.Machine.execPublDone slice win s
  | .cpeShwctlWrite slice win val => Sys2Proof.Machine.execCpeShwctlWrite slice win val s
  | .currentGrant cluster => Sys2Proof.Machine.execCurrentGrant cluster s
  | .taskStart task => Sys2Proof.Machine.execTaskStart task s
  | .taskComplete task => Sys2Proof.Machine.execTaskComplete task s
  | .taskReadinessWatchdog task => Sys2Proof.Machine.execTaskReadinessWatchdog task s
  | .multicastPartnerTimeout task => Sys2Proof.Machine.execMulticastPartnerTimeout task s
  | .currentEstimatePublish field est => Sys2Proof.Machine.execCurrentEstimatePublish field est s
  | .operatingPointChange chg => Sys2Proof.Machine.execOperatingPointChange chg s
  | .pendingRemainderCut ctx => Sys2Proof.Machine.execPendingRemainderCut ctx s
  | .pendingRemainderWatchdog ctx => Sys2Proof.Machine.execPendingRemainderWatchdog ctx s
  | .soloCut ctx item => Sys2Proof.Machine.execSoloCut ctx item s
  | .starvationWatchdog ctx => Sys2Proof.Machine.execStarvationWatchdog ctx s
  | .joinDeadline ctx => Sys2Proof.Machine.execJoinDeadline ctx s
  | .waitClkExpiry ctx => Sys2Proof.Machine.execWaitClkExpiry ctx s
  | .groupPhaseWatchdog grp => Sys2Proof.Machine.execGroupPhaseWatchdog grp s
  | .countedBarrierDeadline obj => Sys2Proof.Machine.execCountedBarrierDeadline obj s
  | .sigwTimeout ctx item => Sys2Proof.Machine.execSigwTimeout ctx item s
  | .faultRecordWrite fault => Sys2Proof.Machine.execFaultRecordWrite fault s
  | .faultResume slice seq => Sys2Proof.Machine.execFaultResume slice seq s
  | .faultEnd slice seq => Sys2Proof.Machine.execFaultEnd slice seq s
  | .faultKill slice seq => Sys2Proof.Machine.execFaultKill slice seq s
  | .faultDump slice seq => Sys2Proof.Machine.execFaultDump slice seq s
  | .syscallRecordWrite call => Sys2Proof.Machine.execSyscallRecordWrite call s
  | .syscallDone slice seq result => Sys2Proof.Machine.execSyscallDone slice seq result s
  | .preempt slice => Sys2Proof.Machine.execPreempt slice s
  | .preemptDrainComplete slice => Sys2Proof.Machine.execPreemptDrainComplete slice s
  | .preemptT1Expiry slice => Sys2Proof.Machine.execPreemptT1Expiry slice s
  | .preemptSaveComplete slice => Sys2Proof.Machine.execPreemptSaveComplete slice s
  | .preemptT2Expiry slice => Sys2Proof.Machine.execPreemptT2Expiry slice s
  | .preemptResume slice => Sys2Proof.Machine.execPreemptResume slice s
  | .sliceGroupApply => Sys2Proof.Machine.execSliceGroupApply s
  | .slcGrpWrite slice val => Sys2Proof.Machine.execSlcGrpWrite slice val s
  | .sliceOnlyReset slice => Sys2Proof.Machine.execSliceOnlyReset slice s
  | .usageClear slice => Sys2Proof.Machine.execUsageClear slice s
  | .clearingSequence slice => Sys2Proof.Machine.execClearingSequence slice s
  | .clearingComplete slice => Sys2Proof.Machine.execClearingComplete slice s
  | .lockInterfaceRequest slice => Sys2Proof.Machine.execLockInterfaceRequest slice s
  | .startInterfaceRequest slice => Sys2Proof.Machine.execStartInterfaceRequest slice s
  | .stopInterfaceRequest slice => Sys2Proof.Machine.execStopInterfaceRequest slice s
  | .getDeviceInterfaceReport slice => Sys2Proof.Machine.execGetDeviceInterfaceReport slice s
  | .getVersion slice => Sys2Proof.Machine.execGetVersion slice s
  | .getCapabilities slice => Sys2Proof.Machine.execGetCapabilities slice s
  | .negotiateAlgorithms slice offer => Sys2Proof.Machine.execNegotiateAlgorithms slice offer s
  | .getDigests slice => Sys2Proof.Machine.execGetDigests slice s
  | .getCertificate slice slot => Sys2Proof.Machine.execGetCertificate slice slot s
  | .challenge slice slot => Sys2Proof.Machine.execChallenge slice slot s
  | .getMeasurements slice indices sign => Sys2Proof.Machine.execGetMeasurements slice indices sign s
  | .keyExchange slice => Sys2Proof.Machine.execKeyExchange slice s
  | .finish slice session => Sys2Proof.Machine.execFinish slice session s
  | .endSession slice session => Sys2Proof.Machine.execEndSession slice session s
  | .slcMigctlWrite slice val => Sys2Proof.Machine.execSlcMigctlWrite slice val s
  | .rake slice block => Sys2Proof.Machine.execRake slice block s
  | .send slice block => Sys2Proof.Machine.execSend slice block s
  | .final slice post => Sys2Proof.Machine.execFinal slice post s
  | .abort slice => Sys2Proof.Machine.execAbort slice s
  | .migrationCommandComplete slice res => Sys2Proof.Machine.execMigrationCommandComplete slice res s
  | .migrationFolioLanded slice bytes => Sys2Proof.Machine.execMigrationFolioLanded slice bytes s
  | .pagePullRequest slice page => Sys2Proof.Machine.execPagePullRequest slice page s
  | .pagePullArrival slice page bytes => Sys2Proof.Machine.execPagePullArrival slice page bytes s
  | .pagePullTimeout slice page => Sys2Proof.Machine.execPagePullTimeout slice page s
  | .checkpointCutMarker slice gen => Sys2Proof.Machine.execCheckpointCutMarker slice gen s
  | .checkpointCommit slice gen => Sys2Proof.Machine.execCheckpointCommit slice gen s
  | .checkpointRollbackMarker slice gen image => Sys2Proof.Machine.execCheckpointRollbackMarker slice gen image s
  | .edgeSwitch group val => Sys2Proof.Machine.execEdgeSwitch group val s
  | .edgeDrainComplete group => Sys2Proof.Machine.execEdgeDrainComplete group s
  | .edgeTrainingComplete group => Sys2Proof.Machine.execEdgeTrainingComplete group s
  | .edgeLinklayerComplete group => Sys2Proof.Machine.execEdgeLinklayerComplete group s
  | .edgeMappingComplete group => Sys2Proof.Machine.execEdgeMappingComplete group s
  | .edgeBoundExceeded group => Sys2Proof.Machine.execEdgeBoundExceeded group s
  | .parkedAccessTimeout op => Sys2Proof.Machine.execParkedAccessTimeout op s
  | .portHDown => Sys2Proof.Machine.execPortHDown s
  | .portHUp => Sys2Proof.Machine.execPortHUp s
  | .edgeLinkFailure group => Sys2Proof.Machine.execEdgeLinkFailure group s
  | .scaleoutDescriptorStart slice => Sys2Proof.Machine.execScaleoutDescriptorStart slice s
  | .scaleoutDescriptorComplete slice index res => Sys2Proof.Machine.execScaleoutDescriptorComplete slice index res s
  | .scaleoutTimeout slice index => Sys2Proof.Machine.execScaleoutTimeout slice index s
  | .slcEcccorRead slice => Sys2Proof.Machine.execSlcEcccorRead slice s
  | .slcEccuncRead slice => Sys2Proof.Machine.execSlcEccuncRead slice s
  | .l2bRecallRead slice => Sys2Proof.Machine.execL2bRecallRead slice s
  | .mxeSatcntRead slice => Sys2Proof.Machine.execMxeSatcntRead slice s
  | .mxeNancntRead slice => Sys2Proof.Machine.execMxeNancntRead slice s
  | .slcDropcntRead slice => Sys2Proof.Machine.execSlcDropcntRead slice s
  | .dstLrefcntRead slice => Sys2Proof.Machine.execDstLrefcntRead slice s
  | .cpeCpycntRead slice => Sys2Proof.Machine.execCpeCpycntRead slice s
  | .slcScrheadRead slice => Sys2Proof.Machine.execSlcScrheadRead slice s
  | .slcLinkevtRead slice => Sys2Proof.Machine.execSlcLinkevtRead slice s
  | .constantImageArrival core launch => Sys2Proof.Machine.execConstantImageArrival core launch s
  | .taskOperandReadsComplete task => Sys2Proof.Machine.execTaskOperandReadsComplete task s

end Sys2Proof.Machine
end

