-- ==== Sys2Proof/Machine/Schedule.lean ====
section
/-! DEFINITION. What can happen next: the fetch of a context's instruction (02 R26, R27, R55, R56), the device steps that
are due, which context of a core starts (14 R407, R408), the choice among all of these, and what follows every move. The spec orders the
starts of a core; it orders nothing else here beyond the guards that each step carries, so one is chosen by a free value (log entry 1). -/

namespace Sys2Proof.Machine

/-! ### Fetch -/

/-- Code words from an address up, as instruction fetch reads them. -/
def State.readCode (s : State) (i : Issue) : Nat → Nat → Except Fetched (List Word)
  | 0, _ => .ok []
  | n + 1, va =>
    match s.fetchAt i.ctx.core i.launch va 4 (s.lentTo (some i.ctx.id) none) with
    | .ok w =>
      match State.readCode s i n (va + 4) with
      | .ok ws => .ok (w :: ws)
      | .error f => .error f
    | f => .error f

/-- What the fetch of a group's next instruction gives: an instruction to perform and its length in words, or the state in which the group
waits for its words or has faulted. -/
inductive Fetch where
  | run (i : Instr) (n : Nat)
  | held (s : State)

/-- The words of an instruction, whole before any part is performed (R27), and what they mean (R28, R56). What decodes to no instruction
faults IllegalEncoding, also where its clause is already full (R46; DESIGN CHOICE, log entry 107). -/
def State.fetchInstr (s : State) (i : Issue) : Fetch :=
  match codeIndex i.launch i.pc with
  | none => .held (s.faultCtx i.ctx.id 0x02 i.pc 0 false)
  | some n =>
    match s.readCode i 1 i.pc.toNat with
    | .error f => .held (s.fetchWait i f)
    | .ok first =>
      let len := instrLength (first.headD 0)
      if i.launch.words < n + len then .held (s.faultCtx i.ctx.id 0x02 i.pc 0 false)
      else match s.readCode i len i.pc.toNat with
        | .error f => .held (s.fetchWait i f)
        | .ok ws =>
          match decodeWords ws with
          | .ok (j, _) => .run j len
          | .error _ => .held (s.faultCtx i.ctx.id 0x01 i.pc 0 false)

/-- A launch's entry, and a PC that an edited folio names, are checked like the target of a transfer (R55, R195). -/
def State.fetch (s : State) (i : Issue) : Fetch :=
  if i.grp.any fun t => t.place.count == 17 then
    match s.targetOf i i.pc with
    | .ok => s.fetchInstr i
    | .wrong => .held (s.faultCtx i.ctx.id 0x02 i.pc 0 false)
    | .wait f => .held (s.fetchWait i f)
  else s.fetchInstr i

/-- A context is about to issue: its entries are in the span file (R160). -/
def State.ready (s : State) (id : Nat) : State := ({ s with cur := some id } : State).unspill id

/-- A context issues the next instruction of its executing group, whose fetch has gone through the banks. -/
def State.issueNext (s : State) (id : Nat) : Host.Outcome State Fault Refusal :=
  let s := s.ready id
  match s.issue? with
  | none => .next s
  | some i =>
    match s.fetch i with
    | .run j n => exec j (s.codeRead i.ctx.core i.launch i.pc.toNat n (s.lentTo (some i.ctx.id) none))
    | .held t => .next t

/-! ### Moves -/

/-- A move: a context issues, or one of the device steps that the machine takes of itself, each a row of the opcode
table under its name there: `exec` gives that row the same meaning (`move_eq_exec`). -/
inductive Move where
  | ctx (id : Nat)
  | fastPathLateCheck (launch : Nat)
  | launchRecordParse (slice : Nat)
  | afterTokenPoll (launch : Nat)
  | admissionRound (slice : Nat)
  | distributorReport (member : Nat)
  | launchComplete (launch : Nat)
  | launchDoneWatchdog (child : Nat)
  | constantImageArrival (core launch : Nat)
  | ctbBindWrite (slice queue : Nat) (second : Bool) (val : Word)
  | curatorDefaultBind (slice : Nat)
  | walkComplete (walk : Nat)
  | tlbMissWalk (walk : Nat)
  | pageFaultRecord (slice seq : Nat)
  | invalidationDone (slice : Nat)
  | parkedAccessTimeout (op : Nat)
  | loadDataLanding (op : Nat) (ans : Answer)
  | atomicResultLanding (op : Nat) (ans : Answer)
  | writeAcknowledgement (op : Nat) (ok : Bool)
  | l1CleanLineExpiry (core line : Nat)
  | l1WriteBack (core line : Nat)
  | asuRequest (req : Nat)
  | homeWrite (write : Nat)
  | invalidationAcksDone (write : Nat)
  | crossFieldWriteApply (write : Nat)
  | fieldBeacon (src dst : Nat)
  | eccPatrolScrub (stack sector : Nat)
  | copyComplete (copy : Nat) (link : LinkResult)
  | publPhaseFlip (slice win : Nat)
  | publDone (slice win : Nat)
  | currentGrant (cluster : Nat)
  | taskStart (task : Nat)
  | multicastPartnerTimeout (task : Nat)
  | taskOperandReadsComplete (task : Nat)
  | taskComplete (task : Nat)
  | taskReadinessWatchdog (task : Nat)
  | pendingRemainderCut (ctx : Nat)
  | pendingRemainderWatchdog (ctx : Nat)
  | soloCut (ctx item : Nat)
  | starvationWatchdog (ctx : Nat)
  | joinDeadline (ctx : Nat)
  | waitClkExpiry (ctx : Nat)
  | sigwTimeout (ctx item : Nat)
  | groupPhaseWatchdog (grp : GroupRef)
  | countedBarrierDeadline (obj : Nat)
  | faultRecordWrite (fault : Nat)
  | syscallRecordWrite (call : Nat)
  | migrationCommandComplete (slice : Nat) (res : MigResult)
  | migrationFolioLanded (slice : Nat) (bytes : List Byte)
  | pagePullArrival (slice page : Nat) (bytes : List Byte)
  | preemptDrainComplete (slice : Nat)
  | preemptT1Expiry (slice : Nat)
  | preemptSaveComplete (slice : Nat)
  | preemptT2Expiry (slice : Nat)
  | clearingSequence (slice : Nat)
  | clearingComplete (slice : Nat)
  | pagePullTimeout (slice page : Nat)
  | scaleoutDescriptorStart (slice : Nat)
  | edgeDrainComplete (group : Nat)
  | edgeTrainingComplete (group : Nat)
  | edgeBoundExceeded (group : Nat)
  | edgeLinklayerComplete (group : Nat)
  | edgeMappingComplete (group : Nat)
  | scaleoutDescriptorComplete (slice index : Nat) (res : TransferResult)
  | scaleoutTimeout (slice index : Nat)

/-- Make a move. -/
def State.move (s : State) : Move → Host.Outcome State Fault Refusal
  | .ctx id => s.issueNext id
  | .fastPathLateCheck launch => execFastPathLateCheck launch s
  | .launchRecordParse slice => execLaunchRecordParse slice s
  | .afterTokenPoll launch => execAfterTokenPoll launch s
  | .admissionRound slice => execAdmissionRound slice s
  | .distributorReport member => execDistributorReport member s
  | .launchComplete launch => execLaunchComplete launch s
  | .launchDoneWatchdog child => execLaunchDoneWatchdog child s
  | .constantImageArrival core launch => execConstantImageArrival core launch s
  | .ctbBindWrite slice queue second val => execCtbBindWrite slice queue second val s
  | .curatorDefaultBind slice => execCuratorDefaultBind slice s
  | .walkComplete walk => execWalkComplete walk s
  | .tlbMissWalk walk => execTlbMissWalk walk s
  | .pageFaultRecord slice seq => execPageFaultRecord slice seq s
  | .invalidationDone slice => execInvalidationDone slice s
  | .parkedAccessTimeout op => execParkedAccessTimeout op s
  | .loadDataLanding op ans => execLoadDataLanding op ans s
  | .atomicResultLanding op ans => execAtomicResultLanding op ans s
  | .writeAcknowledgement op ok => execWriteAcknowledgement op ok s
  | .l1CleanLineExpiry core line => execL1CleanLineExpiry core line s
  | .l1WriteBack core line => execL1WriteBack core line s
  | .asuRequest req => execAsuRequest req s
  | .homeWrite write => execHomeWrite write s
  | .invalidationAcksDone write => execInvalidationAcksDone write s
  | .crossFieldWriteApply write => execCrossFieldWriteApply write s
  | .fieldBeacon src dst => execFieldBeacon src dst s
  | .eccPatrolScrub stack sector => execEccPatrolScrub stack sector s
  | .copyComplete copy link => execCopyComplete copy link s
  | .publPhaseFlip slice win => execPublPhaseFlip slice win s
  | .publDone slice win => execPublDone slice win s
  | .currentGrant cluster => execCurrentGrant cluster s
  | .taskStart task => execTaskStart task s
  | .multicastPartnerTimeout task => execMulticastPartnerTimeout task s
  | .taskOperandReadsComplete task => execTaskOperandReadsComplete task s
  | .taskComplete task => execTaskComplete task s
  | .taskReadinessWatchdog task => execTaskReadinessWatchdog task s
  | .pendingRemainderCut ctx => execPendingRemainderCut ctx s
  | .pendingRemainderWatchdog ctx => execPendingRemainderWatchdog ctx s
  | .soloCut ctx item => execSoloCut ctx item s
  | .starvationWatchdog ctx => execStarvationWatchdog ctx s
  | .joinDeadline ctx => execJoinDeadline ctx s
  | .waitClkExpiry ctx => execWaitClkExpiry ctx s
  | .sigwTimeout ctx item => execSigwTimeout ctx item s
  | .groupPhaseWatchdog grp => execGroupPhaseWatchdog grp s
  | .countedBarrierDeadline obj => execCountedBarrierDeadline obj s
  | .faultRecordWrite fault => execFaultRecordWrite fault s
  | .syscallRecordWrite call => execSyscallRecordWrite call s
  | .migrationCommandComplete slice res => execMigrationCommandComplete slice res s
  | .migrationFolioLanded slice bytes => execMigrationFolioLanded slice bytes s
  | .pagePullArrival slice page bytes => execPagePullArrival slice page bytes s
  | .preemptDrainComplete slice => execPreemptDrainComplete slice s
  | .preemptT1Expiry slice => execPreemptT1Expiry slice s
  | .preemptSaveComplete slice => execPreemptSaveComplete slice s
  | .preemptT2Expiry slice => execPreemptT2Expiry slice s
  | .clearingSequence slice => execClearingSequence slice s
  | .clearingComplete slice => execClearingComplete slice s
  | .pagePullTimeout slice page => execPagePullTimeout slice page s
  | .scaleoutDescriptorStart slice => execScaleoutDescriptorStart slice s
  | .edgeDrainComplete group => execEdgeDrainComplete group s
  | .edgeTrainingComplete group => execEdgeTrainingComplete group s
  | .edgeBoundExceeded group => execEdgeBoundExceeded group s
  | .edgeLinklayerComplete group => execEdgeLinklayerComplete group s
  | .edgeMappingComplete group => execEdgeMappingComplete group s
  | .scaleoutDescriptorComplete slice index res => execScaleoutDescriptorComplete slice index res s
  | .scaleoutTimeout slice index => execScaleoutTimeout slice index s

/-! ### Device steps that are due -/

/-- Launches (14). -/
def State.dueLaunch (s : State) : List Move :=
  let slices := (List.range 16).filter fun k => s.leader k == k
  (s.launches.filter fun l => l.late || (l.unread && !l.stopped)).map (fun l => .fastPathLateCheck l.num)
    ++ (slices.filter s.mayParse).map .launchRecordParse
    ++ (s.launches.filter fun l => l.dep == DepState.waiting).map (fun l => .afterTokenPoll l.num)
    ++ (if s.launches.isEmpty then [] else (slices.filter fun k => (s.round k).isSome).map .admissionRound)
    ++ ((List.range 16).filter s.reportDue).map .distributorReport
    ++ (s.launches.filter s.launchDone).map (fun l => .launchComplete l.num)
    ++ (s.launches.filter fun l => l.nextCohort == 0 && !(s.childWaiters l.num).isEmpty).map (fun l => .launchDoneWatchdog l.num)
    ++ (s.consts.filter fun k => k.words.isNone).map (fun k => .constantImageArrival k.core k.launch)

/-- Bindings that the Curator has still to write: it takes a tenant's request as it stands (R394). -/
def State.dueBind (s : State) : List Move :=
  let slices := (List.range 16).filter fun k => s.leader k == k
  slices.flatMap fun k =>
    (match (s.slice k).ctbReqs with
      | q :: _ =>
        let a := s.vreg k (0xD00 + 8 * q)
        if s.bindA k q != a then [.ctbBindWrite k q false a] else [.ctbBindWrite k q true (s.vreg k (0xD04 + 8 * q))]
      | [] => []) ++ (if (s.slice k).bindDue && s.serves k then [.curatorDefaultBind k] else [])

/-- Translation (03). -/
def State.dueTranslate (s : State) : List Move :=
  let slices := (List.range 16).filter fun k => s.leader k == k
  (s.walks.filter Walk.started).map (fun w => .walkComplete w.id)
    ++ ((List.range 4).filterMap s.nextWalk).map (fun w => .tlbMissWalk w.id)
    ++ (slices.filter fun k => (s.unrecorded k).isSome && s.pfRoom k).map (fun k => .pageFaultRecord k (s.slice k).pfSeq)
    ++ (s.invals.filter s.invalDone).map (fun v => .invalidationDone v.slice)

/-- A piece of an operation lies in host memory and the host's path is down. -/
def State.hostLost (s : State) (core : Nat) (keys : List Nat) : Bool :=
  keys.any fun k => Phys.isHost k && s.path (sliceOf core) k 0 == .down

/-- What an operation in flight may do (11, 12, 17). What a peer answers comes from outside. -/
def State.dueOp (s : State) (o : Op) : List Move :=
  (match o.parkedAt with
    | some a => if ({ s with clock := max s.clock (a + millis 40) } : State).parkedLong o a then [.parkedAccessTimeout o.id] else []
    | none => []) ++
  match o.kind with
  | .load parts _ _ _ _ =>
    if s.mayLand o then [.loadDataLanding o.id .home]
    else if s.hostLost o.core (parts.map Prod.fst) then [.loadDataLanding o.id .linkDown] else []
  | .atomic key _ _ _ =>
    if o.back.isSome then [.atomicResultLanding o.id .home]
    else if s.hostLost o.core [key] then [.atomicResultLanding o.id .linkDown] else []
  | .ack .peer => []
  | .ack _ => if o.back.isSome then [.writeAcknowledgement o.id true] else []
  | _ => []

/-- Caches, homes and fields (04, 12). -/
def State.dueMemory (s : State) : List Move :=
  s.ops.flatMap s.dueOp
    ++ (s.l1.filter fun l => if l.dirty.isEmpty then true else s.mayWriteBack l).map
        (fun l => if l.dirty.isEmpty then .l1CleanLineExpiry l.core l.line else .l1WriteBack l.core l.line)
    ++ (s.asu.filter s.asuReady).map (fun r => .asuRequest r.id)
    ++ (s.homeWrites.filter fun w => !w.sent && s.firstAtHome w).map (fun w => .homeWrite w.id)
    ++ (s.homeWrites.filter fun w => w.sent && lineLocal w.line && !s.holdersParked w.line).map (fun w => .invalidationAcksDone w.id)
    ++ (s.xwrites.filter fun w => s.mayApply w.src w.dst w.seq w.stamp).map (fun w => .crossFieldWriteApply w.id)
    ++ ((List.range 16).filter fun n => s.beaconDue (n / 4) (n % 4)).map (fun n => .fieldBeacon (n / 4) (n % 4))
    ++ s.ecc.map (fun e => .eccPatrolScrub (e.1 / 2 ^ 31) (e.1 % 2 ^ 31))

/-- A tile task may be done with (R302). -/
def State.taskOver (s : State) (t : TaskRec) : Bool :=
  match t.kind, t.state with
  | 0, .readsDone => true
  | 1, .running => true
  | 2, .running => s.drainFree t
  | 8, .posted => s.taskAllowed t
  | 9, .posted => s.taskAllowed t
  | _, _ => false

/-- Copies and tile tasks (05, 10, 18). -/
def State.dueEngines (s : State) : List Move :=
  (s.copies.filter s.copyReady).map (fun c => .copyComplete c.id .ok)
    ++ (s.publs.filter s.flipDue).map (fun p => .publPhaseFlip p.slice p.win)
    ++ (s.publs.filter s.publOver).map (fun p => .publDone p.slice p.win)
    ++ ((s.curReqs.filter fun q => !q.granted).filter fun q => (s.nextGrant (clusterOf q.core)).isSome).map (fun q => .currentGrant (clusterOf q.core))
    ++ (s.tasks.filter fun t => (s.startable t).isSome && s.granted 0 t.id).map (fun t => .taskStart t.id)
    ++ (s.tasks.filter fun t => t.mcast != 0 && t.readySince.isSome && (s.startable t).isSome && s.granted 0 t.id).map (fun t => .multicastPartnerTimeout t.id)
    ++ (s.tasks.filter fun t => t.kind == 0 && t.state == TaskState.running && s.granted 0 t.id).map (fun t => .taskOperandReadsComplete t.id)
    ++ (s.tasks.filter s.taskOver).map (fun t => .taskComplete t.id)
    ++ (s.chains.filter s.chainDue).map (fun c => .taskComplete c.id)
    ++ (s.tasks.filter fun t => t.kind == 0 && t.state == TaskState.posted && t.allowedSince.isSome && !s.taskReady t).map (fun t => .taskReadinessWatchdog t.id)

/-- Paths of a context (07, 13). -/
def State.dueCtx (s : State) (x : Ctx) : List Move :=
  (if x.pending.isSome && s.placeFor x then [.pendingRemainderCut x.id] else [])
    ++ (if x.pending.isSome && !x.unfaulted.isEmpty then [.pendingRemainderWatchdog x.id] else [])
    ++ (x.items.filter fun i => i.parked && s.openStrand x).map (fun i => .soloCut x.id i.c)
    ++ (if (s.starved x).isEmpty then [] else [.starvationWatchdog x.id])
    ++ (if x.joinTill.isSome then [.joinDeadline x.id] else [])
    ++ (if x.items.any fun i => match i.wait with
          | .clock _ => true
          | _ => false then [.waitClkExpiry x.id] else [])
    ++ x.items.filterMap fun i => match i.wait with
        | .sigw _ _ => some (.sigwTimeout x.id i.c)
        | _ => none

/-- Groups, barriers, faults and system calls (13, 15). -/
def State.dueGroups (s : State) : List Move :=
  ((s.groups.map fun g => GroupRef.record g.core g.slot) ++ s.cohorts.map fun k => GroupRef.cohort k.launch k.num).filterMap
      (fun g => if (s.phaseDeadline g).isSome then some (.groupPhaseWatchdog g) else none)
    ++ s.barDl.map (fun b => .countedBarrierDeadline b.key)
    ++ (s.faults.filter fun f => f.seq.isNone && s.faultRoom f.slice).map (fun f => .faultRecordWrite f.id)
    ++ (s.syscalls.filter fun c => c.seq.isNone && s.callRoom c.slice && s.hostUp).map (fun c => .syscallRecordWrite c.id)

/-- The next page that a destination takes from its source: the one that an access asked for first, else the least (R451, R453). -/
def SliceSt.nextPull (v : SliceSt) (pages : Nat) : Option Nat :=
  match v.pulling.find? fun p => v.pull.has p.1 with
  | some p => some p.1
  | none => v.pull.first pages

/-- The other side of a migration within this package (R450 to R453). -/
def State.dueMove (s : State) (k : Nat) : List Move :=
  let v := s.slice k
  (if v.migOp == 1 || (v.migOp != 0 && (s.migPeer k).isSome && (v.sendLeft != PageSet.none || s.migArrived k)) then
    [.migrationCommandComplete k .done] else []) ++
  match s.migSource k with
  | none => []
  | some a =>
    if (s.slice a).sent then
      match v.nextPull (s.pageCount k) with
      | some p => [.pagePullArrival k p []]
      | none => []
    else if (s.slice a).sendLeft == PageSet.none && s.receives k then [.migrationFolioLanded k []]
    else []

/-- Slices (15 R427 to R429, 16). -/
def State.dueSlice (s : State) (k : Nat) : List Move :=
  let v := s.slice k
  if s.leader k != k then []
  else
    (if s.drained? k then [.preemptDrainComplete k] else [])
      ++ (if v.pre = 1 then [.preemptT1Expiry k] else [])
      ++ (if s.saveDue k || v.ckState == 2 then [.preemptSaveComplete k] else [])
      ++ (if v.pre = 2 ∧ v.ckState ≠ 1 then [.preemptT2Expiry k] else [])
      ++ (if v.clearing && s.endDue k then [.clearingSequence k] else [])
      ++ (if v.clearing && s.clearDrained k then [.clearingComplete k] else [])
      ++ s.dueMove k
      ++ v.pulling.map (fun p => .pagePullTimeout k p.1)
      ++ (if s.posted k then [.scaleoutDescriptorStart k] else [])

/-- Edge groups and scale-out (17). -/
def State.dueEdges (s : State) : List Move :=
  (List.range 16).flatMap (fun n => match (s.edge n).state with
    | 1 => [.edgeDrainComplete n]
    | 2 => [.edgeDrainComplete n]
    | 3 => [.edgeTrainingComplete n, .edgeBoundExceeded n]
    | 4 => [.edgeLinklayerComplete n, .edgeBoundExceeded n]
    | 5 => [.edgeMappingComplete n]
    | _ => [])
    ++ (s.descs.filter fun d => d.bad || d.status.isSome).map (fun d => .scaleoutDescriptorComplete d.slice d.index .unreachable)
    ++ (s.descs.filter fun d => !d.bad && d.status.isNone && !s.uePath d.slice).map (fun d => .scaleoutTimeout d.slice d.index)

/-- Every device step that can happen now. A timer that is armed can run out: no clock count of anything else is fixed. -/
def State.due (s : State) : List Move :=
  s.dueLaunch ++ s.dueBind ++ s.dueTranslate ++ s.dueMemory ++ s.dueEngines ++ s.ctxs.flatMap s.dueCtx ++ s.dueGroups
    ++ (List.range 16).flatMap s.dueSlice ++ s.dueEdges

/-! ### The choice, and what follows a move -/

/-- A context can issue: it is active, and its lane, if it has one, has current for a burst (R189, R480). -/
def State.runnable (s : State) (x : Ctx) : Bool := s.active x && (x.kind == .span || s.granted 2 x.laneKey)

/-- An issue of a context now would do something: its next instruction is not stalled (R47, R50). -/
def State.wouldIssue (s : State) (x : Ctx) : Bool :=
  let t := s.ready x.id
  s.runnable x && match t.issue? with
    | none => false
    | some i => match t.fetch i with
      | .held u => u.ctxs != t.ctxs
      | .run j _ => match exec j t with
        | .next u => u.ctxs != t.ctxs
        | _ => true

/-- Which contexts are ready, and since when (R407, R408). -/
def State.noteReady (s : State) : State :=
  { s with ctxs := s.ctxs.map fun x => { x with readySince := if s.wouldIssue x then some (x.readySince.getD s.clock) else none } }

/-- A time in clocks of a core, at its present rate (R17). -/
def State.coreTick (s : State) (core t : Nat) : Nat := t * ((s.coreSt core).div * s.mhz (fieldOf core)) / (8 * 940)

/-- A lane has taken in the items of its last instruction, one in each core clock (R16). -/
def State.laneFree (s : State) (core lane : Nat) : Bool :=
  (s.coreSt core).busy.all fun b => b.1 != lane || decide (b.2 ≤ s.cycles core)

/-- The contexts of which one issues next in a core's span pipe, or starts on a lane (R407, R408), one instruction in each core clock: one
that has been ready for 512 core clocks; else the ready one created earliest, spans of one core clock taking turns; and with one that
yields, the others that are ready on its lane. -/
def State.nextStarts (s : State) (core : Nat) (span : Bool) : List Ctx :=
  let c := s.coreSt core
  let rs := s.ctxs.filter fun x => x.core == core && (x.kind == CtxKind.span) == span && x.readySince.isSome && (span || s.laneFree core x.lane)
  let late := rs.filter fun x => decide ((x.readySince.getD 0) + s.coreClocks core 512 ≤ s.clock)
  if (if span then c.spanAt else c.strandAt) == some (s.cycles core) then []
  else match argMin (fun x => x.readySince.getD 0) late with
    | some x => [x]
    | none => match argMin Ctx.created rs with
      | none => []
      | some first =>
        let eq := rs.filter fun x => s.coreTick core x.created == s.coreTick core first.created
        if span then (argMin Ctx.issued eq).toList
        else eq ++ rs.filter fun x => !eq.contains x && eq.any fun y => y.gives && y.lane == x.lane

/-- A context that starts has its core's span pipe, or its lane, for its group (R16, R407, R408). -/
def State.noteStart (s : State) (id : Nat) : State :=
  match s.ctx? id with
  | none => s
  | some x =>
    let now := s.cycles x.core
    let items := match s.groupPc x with
      | some pc => (x.items.filter fun i => i.pc == pc).length
      | none => 0
    let s := s.modCtx id fun y => { y with readySince := none, gives := false }
    s.setCore x.core fun c =>
      if x.kind == CtxKind.span then { c with spanAt := some now }
      else { c with strandAt := some now, busy := (x.lane, now + items) :: c.busy.filter fun b => b.1 != x.lane }

/-- Every move open to the machine. -/
def State.moves (s : State) : List Move :=
  let starts := (uniq (s.ctxs.map Ctx.core)).flatMap fun c => s.nextStarts c true ++ s.nextStarts c false
  (starts.map fun x => .ctx x.id) ++ s.due

/-- The move to make: the one of the context whose turn it is, where the state names one, else any. -/
def State.turn (s : State) : Option Move × State :=
  match s.cur with
  | some id => (some (.ctx id), s)
  | none =>
    let s := s.noteReady
    match s.choose s.moves with
    | (some (.ctx id), t) => (some (.ctx id), t.noteStart id)
    | r => r

/-- The latent errors of the stacks once one more has struck (R83): a second one in a sector that has one is uncorrectable. -/
def State.struckStack (s : State) (e : Option (Nat × Bool)) : List (Nat × Bool) :=
  match e with
  | none => s.ecc
  | some (n, bad) =>
    if !s.present (n * 32 / 2 ^ 36) then s.ecc
    else (n, bad || s.ecc.any fun d => d.1 == n) :: s.ecc.filter fun d => d.1 != n

/-- The errors of the L2 banks once one has struck a sector of a line that a bank holds (R105). -/
def State.struckL2 (s : State) (e : Option ((Nat × Nat) × Bool)) : List ((Nat × Nat) × Bool) :=
  match e with
  | none => s.l2err
  | some (k, bad) =>
    if !(s.l2.any fun l => l.slice == k.1 && l.line == k.2 / 4) then s.l2err
    else (k, bad || s.l2err.any fun d => d.1 == k) :: s.l2err.filter fun d => d.1 != k

/-- The marks of the shelves once an uncorrectable error has struck a sector (R112). -/
def State.struckShelf (s : State) (e : Option Nat) : List (Nat × List Nat) :=
  match e with
  | none => s.shelfPoison
  | some n => (s.shelfMark n true).shelfPoison

/-- Some clocks pass; how many is free, and so is what errors strike meanwhile. -/
def State.pass (s : State) : State :=
  { s with clock := s.clock + Config.elapsed s.free, free := s.free + 1, ecc := s.struckStack (Config.stackError s.free),
           l2err := s.struckL2 (Config.l2Error s.free), shelfPoison := s.struckShelf (Config.shelfError s.free) }

/-- What follows every move: what is due at once, time, and the usage counts (R444). -/
def State.after (s before : State) : State := (({ s with cur := none } : State).settle.pass).charge before

/-- The outcome of a move with what follows it. -/
def finish (before : State) : Host.Outcome State Fault Refusal → Host.Outcome State Fault Refusal
  | .next t => .next (t.after before)
  | .fault f => .fault f
  | .refused r => .refused r

/-! ### A program of one instruction in place -/

/-- The launch record of a launch of one item (R385). -/
def oneItem : LaunchRec :=
  { kobj := 0, entry := 0, spread := false, afterAny := false, param := 0, const := 0, nx := 1, ny := 1, nz := 1, cohX := 1,
    cohY := 1, cohZ := 1, queue := 0, prio := 0, maxM := 128, maxS := 128, shelfW := 0, shelfA := 0, shelfC := 0, headroom := 0,
    barLog := 20, joinWait := 0, lsize := 0, lbase := 0, spill := 0, spillSize := 0, paramBytes := 0, token := 0, after := 0 }

/-- The bytes of an instruction whose bits above `nbits` are zero, as memory holds them (R3, R26). -/
def wordBytes (nbits w : Nat) : List Byte := leBytes 20 (w % 2 ^ nbits)

/-- A launch of slice 0 with one item stands in a clause at the first word of its code, which lies at the start of the
slice's memory under the virtual page 1; it is that context's turn (log entry 9). -/
def State.place (s : State) (bytes : List Byte) : State :=
  let id := s.nextId
  let pc : DWord := 0x10000
  let place : Place := { count := 0, long := 0, setA := 15, setB := 15 }
  let l : Launch :=
    { num := 2 ^ 32 + id, rcd := oneItem, slice := 0, asid := 0, pid := 0, parent := none, device := false, order := id, code := 0x10000,
      words := 5, map := 0x11000, dep := .ready, nextCohort := 1, passed := 0, ended := 0, status := 0, stopped := false, late := false,
      lastCycle := 0, reason := 0, noToken := false, tokSince := none }
  let share : Share := { core := 0, blocks := [0], maxM := 128, maxS := 128, granW := [], granA := [], granC := [] }
  let k : Cohort :=
    { launch := l.num, num := 0, shares := [share], phase := Phase.start, unitOf := none }
  let item : Item :=
    { c := 0, pc := pc, wait := .none, region := 0, entry := { pc := pc, region := 0, fflags := 0, place := place }, place := place,
      groups := [], objs := [], since := s.clock, parked := false }
  let x : Ctx :=
    { id := id, kind := .strand, core := 0, launch := l.num, cohort := 0, items := [item], x := [], q := [], p := [], fflags := 0,
      fctl := 0, region := 0, lane := 0, split := 0, staged := 0, yielded := none, pending := none, held := none, rel := none, acq := 0,
      place := some 0, created := s.clock }
  let leaf : Leaf := { page := 1, pages := 1, spa := 0, r := true, w := true, x := true, mt := 0, shw := false }
  let part : Part := { fields := 1, clusters := [0x1F, 0, 0, 0], stackMask := 1 }
  let s := s.setSlice 0 fun v => { v with clean := false }
  { s with
    inputs := [], cur := some id, nextId := id + 1, valid := true, part := if s.present 0 then s.part else part,
    launches := s.launches ++ [l], cohorts := s.cohorts ++ [k], ctxs := s.ctxs ++ [x],
    tlb := { core := 0, slice := s.leader 0, asid := 0, leaf := leaf } :: s.tlb,
    mem := s.mem.writeList (s.localPhys 0 0) bytes, l2 := s.l2.filter (fun l => l.line != lineOf (s.localPhys 0 0)), poison := s.poison.filter (· != s.localPhys 0 0 / 32),
    oldCode := s.oldCode.filter fun e => e.sector != s.localPhys 0 0 / 32,
    ecc := s.ecc.filter fun e => e.1 != s.localPhys 0 0 / 32 }

end Sys2Proof.Machine
end

