-- ==== Sys2Proof/Machine/Step.lean ====
section
/-! DEFINITION. One step of the machine. What the outside world does comes first, in its order; then one move of the
machine: a context issues an instruction, or a device step happens. Everything it calls stands in Machine/Schedule.lean. -/

namespace Sys2Proof.Machine

/-- One step. -/
def step (s : State) : Host.Outcome State Fault Refusal :=
  match s.inputs with
  | i :: rest => finish s (exec i { s with inputs := rest, cur := none })
  | [] =>
    match s.turn with
    | (some m, t) => finish s (t.move m)
    | (none, t) => .next (t.after s)

/-- The state with an instruction stored where `step` fetches its next one, its bits above `nbits` zero. The machine takes
its programs through launches (R386 to R400), so this stands for one: see `State.place` and log entry 9. -/
def State.withFetchWord (s : State) (nbits w : Nat) : State := s.place (wordBytes nbits w)

end Sys2Proof.Machine
end

