-- ==== Sys2Proof/Safety.lean ====
section
/-! DEFINITION. What counts as a safe step: it goes on. Every fault of this hardware is taken inside the machine, as a
record and a wait (15), so a step that stops is never the hardware's. With it the terms that claims use: what an item
reads of a register or an operand, when an instruction is performed by the group that issues, and what it leaves as it
was. -/

namespace Sys2Proof

/-- What the world outside can do: an event, which has no encoding, and not an instruction of the instruction set. -/
def Instr.outside (i : Instr) : Bool := i.asExt.isNone && (encode i).isNone

namespace Machine

/-- The inputs that wait are events. -/
def State.orderly (s : State) : Bool := s.inputs.all Instr.outside

/-- The step answers a next state. -/
def State.Goes (s : State) : Prop := ∃ t, step s = .next t

/-! ### What an item reads -/

/-- What item c reads of item register n: 0 unless the register lives for it (R147, R157). -/
def Ctx.xAt (x : Ctx) (r : LaunchRec) (n c : Nat) : Word :=
  match x.xReg? n with
  | some g => if g.live.contains c then g.form.at r x.cohort c else 0
  | none => 0

/-- What item c reads of uniform register n (R147, R157). -/
def Ctx.qAt (x : Ctx) (n c : Nat) : Word :=
  match x.qReg? n with
  | some g => if g.live.contains c then g.val else 0
  | none => 0

/-- What item c reads of predicate n; predicate 127 is 1 (R35). -/
def Ctx.pAt (x : Ctx) (r : LaunchRec) (n c : Nat) : Bool := (x.pForm n).at r x.cohort c

/-- What item c reads at a 32-bit operand (R35). -/
def State.opAt (s : State) (x : Ctx) (r : LaunchRec) (a : Src) (c : Nat) : Word :=
  let n := a.code.toNat
  if n < 128 then x.xAt r n c
  else if n < 192 then x.qAt (n - 128) c
  else if n = 0xE0 then (s.kWord x a.imm.toNat).getD 0
  else if n = 0xF0 then a.imm
  else if n = 0xF1 then a.lit.truncate 32
  else 0

/-- What item c reads as the high half of a 64-bit operand (R38): the next register, the next k word, the literal's high
half, an immediate's sign when `sx` and else 0. -/
def State.opHiAt (s : State) (x : Ctx) (r : LaunchRec) (a : Src) (sx : Bool) (c : Nat) : Word :=
  let n := a.code.toNat
  if n < 128 then x.xAt r (n + 1) c
  else if n < 192 then x.qAt (n - 128 + 1) c
  else if n = 0xE0 then (s.kWord x (a.imm.toNat + 1)).getD 0
  else if n = 0xF0 then (if sx && a.imm.msb then -1 else 0)
  else if n = 0xF1 then (a.lit >>> 32).truncate 32
  else 0

/-! ### When the group that issues performs an instruction -/

/-- It is a context's turn, and its executing group performs the instruction now: no other group goes first (R189, R190), the
clause has room for it (R46, R48), the guard affects an item and needs no cut (R40, R152), no copy is staged at a region
entry (R415), its flag, the constant bank and the registers it names are free (R49, R50, R387). -/
structure Performs (s : State) (m : Meta) (i : Issue) : Prop where
  turn : s.cur = some i.ctx.id
  ctx : s.ctx? i.ctx.id = some i.ctx
  launch : s.launch? i.ctx.launch = some i.launch
  group : s.groupPc i.ctx = some i.pc
  items : i.grp = i.ctx.items.filter fun t => t.pc == i.pc && !s.waits i.ctx t
  count : i.place.count < 16
  long : m.long = true → i.place.long < 2
  guard : i.guarded m.guard m.neg m.whole = some i.aff
  affects : i.aff ≠ []
  staged : i.atEntry = true → i.ctx.staged = 0
  flag : s.flagFull i m = false
  const : m.usesK = true → s.kReady i.ctx = true
  hazard : s.outstanding i.ctx (i.grp.map Item.c) (m.reads ++ m.writes) = false

/-- The address of the instruction after this one. -/
def Issue.next (i : Issue) (m : Meta) : DWord := i.pc + .ofNat 64 (4 * m.words)

/-- The items stand where `go` sends those of the group; no other item has moved, and each belongs to the groups and holds the
objects it did. -/
def Issue.Stands (i : Issue) (go : Nat → DWord) (y : Ctx) : Prop :=
  y.items.map (fun t => (t.c, t.pc, t.groups, t.objs))
    = i.ctx.items.map fun t => (t.c, if (i.grp.map Item.c).contains t.c then go t.c else t.pc, t.groups, t.objs)

/-- The group has gone on to the next instruction. -/
def Issue.Moved (i : Issue) (m : Meta) (y : Ctx) : Prop := i.Stands (fun _ => i.next m) y

/-- Nothing of the machine has changed but the context that issued, which is now `y`. -/
structure OnlyCtx (s : State) (i : Issue) (u : State) (y : Ctx) : Prop where
  rest : u = { s with ctxs := u.ctxs }
  others : ∀ n, n ≠ i.ctx.id → u.ctx? n = s.ctx? n
  ctx : u.ctx? i.ctx.id = some y

/-- A register of the group is killed for item c by a mark (R157). -/
def Issue.kills (i : Issue) (m : Meta) (g : RegRef) (c : Nat) : Bool := m.marks.contains g && (i.grp.map Item.c).contains c

/-- The context has become `y` by writing registers: each result stands in its register for the affected items, in a q
register for all (R153, R154), the flags are raised, marked registers read 0, and nothing else of the context has changed. -/
structure Wrote (i : Issue) (m : Meta) (outs : List Out) (fl : BitVec 5) (y : Ctx) : Prop where
  same : y = { i.ctx with items := y.items, x := y.x, q := y.q, fflags := i.ctx.fflags ||| fl, yielded := none }
  moved : i.Moved m y
  xs : ∀ o ∈ outs, ∀ n, o.dst = .x n → ∀ t ∈ i.aff, y.xAt i.launch.rcd n t.c = o.val t
  qs : ∀ o ∈ outs, ∀ n, o.dst = .q n → ∀ t, i.first = some t → ∀ c ∈ i.ctx.cs, y.qAt n c = o.val t
  xKept : ∀ n, ∀ c ∈ i.ctx.cs, (∀ o ∈ outs, o.dst = .x n → c ∉ i.aff.map Item.c) →
    y.xAt i.launch.rcd n c = if i.kills m (.x n) c then 0 else i.ctx.xAt i.launch.rcd n c
  qKept : ∀ n, ∀ c ∈ i.ctx.cs, (∀ o ∈ outs, o.dst ≠ .q n) →
    y.qAt n c = if i.kills m (.q n) c then 0 else i.ctx.qAt n c

/-- The context has become `y` by writing predicates. -/
structure WroteP (i : Issue) (m : Meta) (outs : List OutP) (fl : BitVec 5) (y : Ctx) : Prop where
  same : y = { i.ctx with items := y.items, x := y.x, q := y.q, p := y.p, fflags := i.ctx.fflags ||| fl, yielded := none }
  moved : i.Moved m y
  ps : ∀ o ∈ outs, ∀ n, o.dst = .p n → ∀ t ∈ i.aff, y.pAt i.launch.rcd n t.c = o.val t
  pKept : ∀ n, ∀ c ∈ i.ctx.cs, (∀ o ∈ outs, o.dst = .p n → c ∉ i.aff.map Item.c) →
    y.pAt i.launch.rcd n c = i.ctx.pAt i.launch.rcd n c
  xKept : ∀ n, ∀ c ∈ i.ctx.cs, y.xAt i.launch.rcd n c = if i.kills m (.x n) c then 0 else i.ctx.xAt i.launch.rcd n c
  qKept : ∀ n, ∀ c ∈ i.ctx.cs, y.qAt n c = if i.kills m (.q n) c then 0 else i.ctx.qAt n c

/-- No exception that a computation raises is enabled (R240). -/
def Calm (i : Issue) (k : Calc) : Prop :=
  if k.once then ∀ t, i.first = some t → k.fl t &&& i.ctx.fctl = 0 else ∀ t ∈ i.aff, k.fl t &&& i.ctx.fctl = 0

/-- The context after results are written, before it goes on: what must fit its storage (R156 to R159). -/
def Issue.written (i : Issue) (m : Meta) (outs : List Out) : Ctx :=
  outs.foldl (fun x o => o.write i x) (i.ctx.kill (i.grp.map Item.c) m.marks)

/-- The context after predicates are written; none where a span must materialise first, since a result would be M or a fifth
E predicate (R151, R152). -/
def Issue.writtenP (i : Issue) (m : Meta) (outs : List OutP) : Option Ctx :=
  writePreds i outs (i.ctx.kill (i.grp.map Item.c) m.marks)

end Machine

end Sys2Proof
end

