-- ==== Sys2Proof/Certificates/Slice0/Obligations.lean ====
section
/-! DEFINITION. The statements about this machine, one `def Obligations.<Name> : Prop` each, and before them the tables and
terms they are written in. -/

namespace Sys2Proof.Claims

open Sys2Proof.Machine

/-! ### Instructions that compute registers -/

/-- The issue data of an instruction that no guard makes a span materialise for (R152, R153). -/
def uncut (m : Meta) : Meta := { m with whole := true }

/-- What an item reads at a 32-bit operand, and at the high half of a 64-bit one. -/
def readLo (s : State) (i : Issue) (a : Src) (t : Item) : Word := (s.src32 i.ctx i.launch.rcd a).at i.launch.rcd i.ctx.cohort t.c
def readHi (s : State) (i : Issue) (a : Src) (sx : Bool) (t : Item) : Word :=
  (s.srcHi i.ctx i.launch.rcd a sx).at i.launch.rcd i.ctx.cohort t.c

/-- A row of a table: an instruction, what its issue needs to know of it, and the results it computes: where each goes, its
value for each item, the U or A form it takes where R152 gives it one, the flags an item's computation raises, and whether it is
computed once for the context, because it goes to a q register (R234). -/
structure Row where
  instr : Instr
  info : Meta
  comp : State → Issue → Calc

/-- Whenever the group performs the row's instruction, no exception is enabled, a span needs no M register, and the results fit
the storage, the instruction completes: it writes exactly its results and changes nothing else of the machine. -/
def Row.Completes (r : Row) : Prop :=
  ∀ s i, Performs s r.info i → Calm i (r.comp s i) →
    (i.ctx.kind = .span → ∀ o ∈ (r.comp s i).outs, o.isM i = false) →
    s.fits (i.written r.info (r.comp s i).outs) = true →
    ∃ u y, exec r.instr s = .next u ∧ OnlyCtx s i u y ∧ Wrote i r.info (r.comp s i).outs (i.raised [r.comp s i]) y

/-- A computation of integers: no flags. -/
def plain (d : Dst) (form : Option XForm) (val : Item → Word) : Calc :=
  { outs := [{ dst := d, form := form, val := val }], once := d.isQ, fl := fun _ => 0 }

/-- Rows of extended instructions with one, two and three 32-bit sources. -/
def one (j : Instr) (e : Ext) (f : Word → Word) : Row :=
  { instr := j, info := e.info 1 1 0 0,
    comp := fun s i => plain (dstOf e.d) (oneU f (s.src32 i.ctx i.launch.rcd (e.src e.a))) fun t => f (readLo s i (e.src e.a) t) }
def two (j : Instr) (e : Ext) (form : XForm → XForm → Option XForm) (f : Word → Word → Word) : Row :=
  { instr := j, info := e.info 1 1 1 0,
    comp := fun s i => plain (dstOf e.d)
      (form (s.src32 i.ctx i.launch.rcd (e.src e.a)) (s.src32 i.ctx i.launch.rcd (e.src e.b)))
      fun t => f (readLo s i (e.src e.a) t) (readLo s i (e.src e.b) t) }
def three (j : Instr) (e : Ext) (form : XForm → XForm → XForm → Option XForm) (f : Word → Word → Word → Word) : Row :=
  { instr := j, info := e.info 1 1 1 1,
    comp := fun s i => plain (dstOf e.d)
      (form (s.src32 i.ctx i.launch.rcd (e.src e.a)) (s.src32 i.ctx i.launch.rcd (e.src e.b))
        (s.src32 i.ctx i.launch.rcd (e.src e.c)))
      fun t => f (readLo s i (e.src e.a) t) (readLo s i (e.src e.b) t) (readLo s i (e.src e.c) t) }

/-- The signed range of a word, to which SAT clamps (R248). -/
def clamp (v : Int) : Word := .ofInt 32 (max (-2 ^ 31) (min (2 ^ 31 - 1) v))

/-- Sum and difference of words, clamped when SAT (R248). -/
def addOf (sat : Bool) (x y : Word) : Word := if sat then clamp (x.toInt + y.toInt) else x + y
def subOf (sat : Bool) (x y : Word) : Word := if sat then clamp (x.toInt - y.toInt) else x - y
/-- The high half of the product (R248). -/
def mulhOf (uns : Bool) (x y : Word) : Word :=
  if uns then .ofNat 32 (x.toNat * y.toNat / 2 ^ 32) else .ofInt 32 (x.toInt * y.toInt / 2 ^ 32)
/-- The lesser and the greater of two words (R248). -/
def minOf (uns : Bool) (x y : Word) : Word :=
  if (if uns then y.toNat < x.toNat else y.toInt < x.toInt) then y else x
def maxOf (uns : Bool) (x y : Word) : Word :=
  if (if uns then x.toNat < y.toNat else x.toInt < y.toInt) then y else x

/-- The extended integer instructions (R248, R250, R252, R254, R258). -/
def intExt (e : Ext) : List Row :=
  [two (.iadd e) e (formSum (e.modBit 0) (addOf (e.modBit 0))) (addOf (e.modBit 0)),
   two (.isub e) e (formSum (e.modBit 0) (subOf (e.modBit 0))) (subOf (e.modBit 0)),
   two (.imul e) e formMul (· * ·),
   two (.imulh e) e (bothU (mulhOf (e.modBit 0))) (mulhOf (e.modBit 0)),
   two (.imin e) e (bothU (minOf (e.modBit 0))) (minOf (e.modBit 0)),
   two (.imax e) e (bothU (maxOf (e.modBit 0))) (maxOf (e.modBit 0)),
   two (.and e) e (bothU (· &&& ·)) (· &&& ·),
   two (.or e) e (bothU (· ||| ·)) (· ||| ·),
   two (.xor e) e (bothU (· ^^^ ·)) (· ^^^ ·),
   two (.andn e) e (bothU fun x y => x &&& ~~~y) (fun x y => x &&& ~~~y),
   two (.shl e) e formShl (fun x y => if y.toNat < 32 then x <<< y.toNat else 0),
   two (.shr e) e (bothU fun x y => if y.toNat < 32 then x >>> y.toNat else 0)
     (fun x y => if y.toNat < 32 then x >>> y.toNat else 0),
   two (.sar e) e (bothU fun x y => x.sshiftRight (min y.toNat 31)) (fun x y => x.sshiftRight (min y.toNat 31)),
   two (.rol e) e (bothU fun x y => x.rotateLeft (y.toNat % 32)) (fun x y => x.rotateLeft (y.toNat % 32)),
   two (.lea e) e (formLea (e.modBits 0 5)) (fun x y => (x <<< e.modBits 0 5) + y),
   two (.bfe e) e (bothU (bfeW (e.modBit 0))) (bfeW (e.modBit 0)),
   one (.iabs e) e (fun x => if e.modBit 0 then clamp x.toInt.natAbs else .ofInt 32 x.toInt.natAbs),
   one (.ineg e) e (fun x => if e.modBit 0 then clamp (-x.toInt) else -x),
   one (.not e) e (~~~ ·),
   one (.popc e) e popcW,
   one (.clz e) e clzW,
   one (.brev e) e brevW,
   three (.imad e) e formMad (fun x y z => x * y + z),
   three (.bfi e) e (threeU bfiW) bfiW,
   three (.bperm e) e (threeU bpermW) bpermW,
   three (.idp4 e) e (threeU (idp4W (e.modBit 0) (e.modBit 1))) (idp4W (e.modBit 0) (e.modBit 1))]

/-- Rows of base words with two sources, and with a literal. -/
def base (j : Instr) (w : BaseOps) (form : XForm → XForm → Option XForm) (f : Word → Word → Word) : Row :=
  { instr := j, info := w.info false,
    comp := fun s i => plain (.x w.d.toNat)
      (form (s.src32 i.ctx i.launch.rcd (regSrc false w.a.toNat)) (s.src32 i.ctx i.launch.rcd w.srcB))
      fun t => f (readLo s i (regSrc false w.a.toNat) t) (readLo s i w.srcB t) }
def baseLit (j : Instr) (w : BaseLit) (form : XForm → XForm → Option XForm) (f : Word → Word → Word) : Row :=
  { instr := j, info := w.info false,
    comp := fun s i => plain (.x w.d.toNat)
      (form (s.src32 i.ctx i.launch.rcd (regSrc false w.a.toNat)) (.u w.lit))
      fun t => f (readLo s i (regSrc false w.a.toNat) t) w.lit }
def base1 (j : Instr) (w : Base1) (f : Word → Word) : Row :=
  { instr := j, info := w.info,
    comp := fun s i => plain (.x w.d.toNat) (oneU f (s.src32 i.ctx i.launch.rcd w.src)) fun t => f (readLo s i w.src t) }
def base1Lit (j : Instr) (w : Base1Lit) (f : Word → Word) : Row :=
  { instr := j, info := w.info, comp := fun _ _ => plain (.x w.d.toNat) (some (.u (f w.lit))) fun _ => f w.lit }

/-- The integer base words (R33, R245), over their word and its literal form. -/
def intBase (w : BaseOps) (l : BaseLit) (v : Base1) (k : Base1Lit) : List Row :=
  let both (j j' : Instr) (form : XForm → XForm → Option XForm) (f : Word → Word → Word) : List Row :=
    [base j w form f, baseLit j' l form f]
  both (.iaddBase w) (.iaddBaseLit l) (formSum false (· + ·)) (· + ·)
    ++ both (.isubBase w) (.isubBaseLit l) (formSum false (· - ·)) (· - ·)
    ++ both (.imulBase w) (.imulBaseLit l) formMul (· * ·)
    ++ both (.imulhBase w) (.imulhBaseLit l) (bothU (mulhOf false)) (mulhOf false)
    ++ both (.iminBase w) (.iminBaseLit l) (bothU (minOf false)) (minOf false)
    ++ both (.imaxBase w) (.imaxBaseLit l) (bothU (maxOf false)) (maxOf false)
    ++ both (.andBase w) (.andBaseLit l) (bothU (· &&& ·)) (· &&& ·)
    ++ both (.orBase w) (.orBaseLit l) (bothU (· ||| ·)) (· ||| ·)
    ++ both (.xorBase w) (.xorBaseLit l) (bothU (· ^^^ ·)) (· ^^^ ·)
    ++ both (.andnBase w) (.andnBaseLit l) (bothU fun x y => x &&& ~~~y) (fun x y => x &&& ~~~y)
    ++ both (.shlBase w) (.shlBaseLit l) formShl (fun x y => if y.toNat < 32 then x <<< y.toNat else 0)
    ++ both (.shrBase w) (.shrBaseLit l) (bothU fun x y => if y.toNat < 32 then x >>> y.toNat else 0)
      (fun x y => if y.toNat < 32 then x >>> y.toNat else 0)
    ++ both (.sarBase w) (.sarBaseLit l) (bothU fun x y => x.sshiftRight (min y.toNat 31))
      (fun x y => x.sshiftRight (min y.toNat 31))
    ++ both (.rolBase w) (.rolBaseLit l) (bothU fun x y => x.rotateLeft (y.toNat % 32)) (fun x y => x.rotateLeft (y.toNat % 32))
    ++ both (.lea1Base w) (.lea1BaseLit l) (formLea 1) (fun x y => (x <<< 1) + y)
    ++ both (.lea2Base w) (.lea2BaseLit l) (formLea 2) (fun x y => (x <<< 2) + y)
    ++ both (.lea3Base w) (.lea3BaseLit l) (formLea 3) (fun x y => (x <<< 3) + y)
    ++ [base1 (.popcBase v) v popcW, base1Lit (.popcBaseLit k) k popcW, base1 (.clzBase v) v clzW,
        base1Lit (.clzBaseLit k) k clzW, base1 (.brevBase v) v brevW, base1Lit (.brevBaseLit k) k brevW,
        base1 (.notBase v) v (~~~ ·), base1Lit (.notBaseLit k) k (~~~ ·)]

end Sys2Proof.Claims

open Sys2Proof Sys2Proof.Machine Sys2Proof.Claims

def Sys2Proof.Claims.IntegerInstructionsWriteTheirResults : Prop :=
  ∀ e : Ext, ∀ r ∈ intExt e, r.Completes

def Sys2Proof.Claims.IntegerBaseWordsWriteTheirResults : Prop :=
  ∀ (w : BaseOps) (l : BaseLit) (v : Base1) (k : Base1Lit), ∀ r ∈ intBase w l v k, r.Completes

/-- Integer instructions complete and write their results, and change nothing else (R248, R252; also R245, R250, R254, R258). -/
def Obligations.IntegerInstructionsWriteResults : Prop :=
  Sys2Proof.Claims.IntegerInstructionsWriteTheirResults ∧ Sys2Proof.Claims.IntegerBaseWordsWriteTheirResults

namespace Sys2Proof.Claims

/-! ### Floating point, packed and conversions -/

/-- A 32-bit result computed from 32-bit operands, with its flags. -/
def fp (d : Dst) (eval : Reader → Nat × FFlags) (s : State) (i : Issue) : Calc :=
  { outs := [{ dst := d, val := fun t => .ofNat 32 (eval fun a => readLo s i a t).1 }], once := d.isQ,
    fl := fun t => (eval fun a => readLo s i a t).2 }

/-- Rows of extended instructions with one, two and three sources. -/
def fp1 (j : Instr) (e : Ext) (f : BitVec 9 → Src → Reader → Nat × FFlags) : Row :=
  { instr := j, info := e.info 1 1 0 0, comp := fp (dstOf e.d) (f e.mod (e.src e.a)) }
def fp2 (j : Instr) (e : Ext) (f : BitVec 9 → Src → Src → Reader → Nat × FFlags) : Row :=
  { instr := j, info := e.info 1 1 1 0, comp := fp (dstOf e.d) (f e.mod (e.src e.a) (e.src e.b)) }
def fp3 (j : Instr) (e : Ext) (f : BitVec 9 → Src → Src → Src → Reader → Nat × FFlags) : Row :=
  { instr := j, info := e.info 1 1 1 1, comp := fp (dstOf e.d) (f e.mod (e.src e.a) (e.src e.b) (e.src e.c)) }

/-- The extended instructions with a 32-bit floating-point or packed result (R261 to R283). -/
def fpExt (e : Ext) : List Row :=
  [fp2 (.fadd e) e faddEval, fp2 (.fmul e) e fmulEval, fp3 (.ffma e) e ffmaEval,
   fp2 (.fmin e) e (fminMaxEval false), fp2 (.fmax e) e (fminMaxEval true),
   fp1 (.frnd e) e frndEval, fp1 (.frcp e) e frcpEval, fp1 (.frsq e) e frsqEval, fp1 (.fsqrt e) e fsqrtEval,
   fp1 (.fex2 e) e fex2Eval, fp1 (.flg2 e) e flg2Eval, fp1 (.fsin e) e fsinEval, fp1 (.fcos e) e fcosEval,
   fp2 (.padd16 e) e padd16Eval, fp2 (.pmul16 e) e pmul16Eval, fp3 (.pfma16 e) e pfma16Eval,
   fp2 (.pmin16 e) e (pminMax16Eval false), fp2 (.pmax16 e) e (pminMax16Eval true),
   fp1 (.ftof e) e ftofEval, fp3 (.fpk8 e) e fpk8Eval, fp3 (.fpk4 e) e fpk4Eval, fp1 (.funpk e) e funpkEval]

/-- The floating-point base words and F20 words (R245, R269, R270): round to nearest even, no modifiers. -/
def fpBaseRows (w : BaseOps) (l : BaseLit) (f : F20Word) : List Row :=
  let d : Src := regSrc false w.d.toNat
  let a : Src := regSrc false w.a.toNat
  let dl : Src := regSrc false l.d.toNat
  let al : Src := regSrc false l.a.toNat
  let row (j : Instr) (acc : Bool) (ev : Reader → Nat × FFlags) : Row :=
    { instr := j, info := w.info acc, comp := fp (.x w.d.toNat) ev }
  let rowL (j : Instr) (acc : Bool) (ev : Reader → Nat × FFlags) : Row :=
    { instr := j, info := l.info acc, comp := fp (.x l.d.toNat) ev }
  let rowF (j : Instr) (ev : Reader → Nat × FFlags) : Row :=
    { instr := j, info := f.info, comp := fp (.x (f.d.setWidth 7).toNat) ev }
  let b := w.srcB
  let bl := litSrc l.lit
  let df : Src := regSrc false f.d.toNat
  let k := litSrc (.ofNat 32 (f.imm.toNat * 4096))
  [row (.faddBase w) false (faddEval 0 a b), rowL (.faddBaseLit l) false (faddEval 0 al bl),
   row (.fmulBase w) false (fmulEval 0 a b), rowL (.fmulBaseLit l) false (fmulEval 0 al bl),
   row (.ffmaDmBase w) true (ffmaEval 0 d a b), rowL (.ffmaDmBaseLit l) true (ffmaEval 0 dl al bl),
   row (.ffmaAccBase w) true (ffmaEval 0 a b d), rowL (.ffmaAccBaseLit l) true (ffmaEval 0 al bl dl),
   row (.fminBase w) false (fminMaxEval false 0 a b), rowL (.fminBaseLit l) false (fminMaxEval false 0 al bl),
   row (.fmaxBase w) false (fminMaxEval true 0 a b), rowL (.fmaxBaseLit l) false (fminMaxEval true 0 al bl),
   row (.padd16Base w) false (padd16Eval 0 a b), rowL (.padd16BaseLit l) false (padd16Eval 0 al bl),
   row (.pmul16Base w) false (pmul16Eval 0 a b), rowL (.pmul16BaseLit l) false (pmul16Eval 0 al bl),
   row (.pfma16AccBase w) true (pfma16Eval 0 a b d), rowL (.pfma16AccBaseLit l) true (pfma16Eval 0 al bl dl),
   rowF (.faddI f) (faddEval 0 df k), rowF (.fmulI f) (fmulEval 0 df k), rowF (.fminI f) (fminMaxEval false 0 df k),
   rowF (.fmaxI f) (fminMaxEval true 0 df k),
   rowF (.fmovI f) (fun _ => ((BitVec.ofNat 32 (f.imm.toNat * 4096)).toNat, 0))]

/-! ### Moves, 64-bit results, special registers -/

/-- A 64-bit operand of an item. -/
def readWide (s : State) (i : Issue) (a : Src) (sx : Bool) (t : Item) : DWord := readHi s i a sx t ++ readLo s i a t

/-- Results in the register at an operand code and the next, without flags. -/
def pairOf (d : BitVec 8) (lo hi : XForm × (Item → Word)) : List Out :=
  [{ dst := dstOf d, form := lo.1.kept, val := lo.2 }, { dst := dstHi d, form := hi.1.kept, val := hi.2 }]

/-- A move of forms (R164): a 32-bit operand, and under bit 0 of MOD a 64-bit one. -/
def movRow (e : Ext) : Row :=
  let n := if e.modBit 0 then 2 else 1
  { instr := .mov e, info := e.info n n 0 0,
    comp := fun s i =>
      let lo : Out := { dst := dstOf e.d, form := (s.src32 i.ctx i.launch.rcd (e.src e.a)).kept, val := readLo s i (e.src e.a) }
      let hi : Out :=
        { dst := dstHi e.d, form := (s.srcHi i.ctx i.launch.rcd (e.src e.a) false).kept, val := readHi s i (e.src e.a) false }
      { outs := if e.modBit 0 then [lo, hi] else [lo], once := false, fl := fun _ => 0 } }

/-- Sum and difference of 64 bits, immediates extended with their sign (R260). -/
def iadd64Row (e : Ext) : Row :=
  { instr := .iadd64 e, info := e.info 2 2 2 0,
    comp := fun s i =>
      { outs := outs64 i e.d (s.wideU i (e.src e.a) true && s.wideU i (e.src e.b) true) fun t =>
          if e.modBit 0 then readWide s i (e.src e.a) true t - readWide s i (e.src e.b) true t
          else readWide s i (e.src e.a) true t + readWide s i (e.src e.b) true t,
        once := (dstOf e.d).isQ, fl := fun _ => 0 } }

/-- The 64-bit product of two words plus a 64-bit operand (R260). -/
def imad64Row (e : Ext) : Row :=
  { instr := .imad64 e, info := e.info 2 1 1 2,
    comp := fun s i =>
      { outs := outs64 i e.d (s.narrowU i (e.src e.a) && s.narrowU i (e.src e.b) && s.wideU i (e.src e.c) true) fun t =>
          imad64D (e.modBit 0) (readLo s i (e.src e.a) t) (readLo s i (e.src e.b) t) (readWide s i (e.src e.c) true t),
        once := (dstOf e.d).isQ, fl := fun _ => 0 } }

/-- A float to an integer of 32 or 64 bits (R276, R277). -/
def ftoiRow (e : Ext) : Row :=
  let w64 := e.modBit 4
  { instr := .ftoi e, info := e.info (if w64 then 2 else 1) 1 0 0,
    comp := fun s i =>
      let v (t : Item) : Nat × FFlags :=
        ftoiVal (.ofBits (e.modBits 0 2)) (e.modBit 2) (e.modBit 3) (if w64 then 64 else 32) (readLo s i (e.src e.a) t).toNat
      let lo : Out := { dst := dstOf e.d, val := fun t => .ofNat 32 (v t).1 }
      let hi : Out := { dst := dstHi e.d, val := fun t => .ofNat 32 ((v t).1 / 2 ^ 32) }
      { outs := if w64 then [lo, hi] else [lo], once := (dstOf e.d).isQ, fl := fun t => (v t).2 } }

/-- An integer to a float (R276, R277). The high half of a 64-bit immediate is a free value (the spec does not state it). -/
def itofRow (e : Ext) : Row :=
  let w64 := e.modBit 4
  { instr := .itof e, info := e.info 1 (if w64 then 2 else 1) 0 0,
    comp := fun s i =>
      let hi (t : Item) : Word := if e.a == 0xF0 then Config.immHigh e.imm else readHi s i (e.src e.a) false t
      let lo (t : Item) : Word := readLo s i (e.src e.a) t
      let n (t : Item) : Int :=
        if w64 then (if e.modBit 2 then (hi t ++ lo t).toNat else (hi t ++ lo t).toInt)
        else if e.modBit 2 then (lo t).toNat else (lo t).toInt
      let v (t : Item) : Nat × FFlags := itofVal (.ofBits (e.modBits 0 2)) (n t)
      { outs := [{ dst := dstOf e.d, val := fun t => .ofNat 32 (v t).1 }], once := (dstOf e.d).isQ, fl := fun t => (v t).2 } }

/-- Words of the constant bank by an index (R166). -/
def movkRow (e : Ext) : Row :=
  { instr := .movk e, info := { e.info (if e.modBit 0 then 2 else 1) 1 0 0 with usesK := true },
    comp := fun s i =>
      let k (n : Nat) : Word := (s.kWord i.ctx n).getD 0
      let out (d : Dst) (h : Nat) : Out :=
        { dst := d, form := oneU (fun v => k (v.toNat + e.imm.toNat + h)) (s.src32 i.ctx i.launch.rcd (e.src e.a)),
          val := fun t => k ((readLo s i (e.src e.a) t).toNat + e.imm.toNat + h) }
      { outs := if e.modBit 0 then [out (dstOf e.d) 0, out (dstHi e.d) 1] else [out (dstOf e.d) 0], once := false,
        fl := fun _ => 0 } }

/-- One of two operands, as a predicate says; NEG is bit 0 of MOD, W64 bit 1 (R168). -/
def selRow (e : Ext) : Row :=
  let n := if e.modBit 1 then 2 else 1
  { instr := .sel e, info := e.info n n n 0,
    comp := fun s i =>
      let r := i.launch.rcd
      let p := i.ctx.pForm e.c.toNat
      let out (d : Dst) (fa fb : XForm) : Out :=
        { dst := d,
          form := match p with
            | .u v => (if xor v (e.modBit 0) then fa else fb).kept
            | _ => none
          val := fun t => (if xor (i.ctx.pAt r e.c.toNat t.c) (e.modBit 0) then fa else fb).at r i.ctx.cohort t.c }
      let lo := out (dstOf e.d) (s.src32 i.ctx r (e.src e.a)) (s.src32 i.ctx r (e.src e.b))
      let hi := out (dstHi e.d) (s.srcHi i.ctx r (e.src e.a) false) (s.srcHi i.ctx r (e.src e.b) false)
      { outs := if e.modBit 1 then [lo, hi] else [lo], once := false, fl := fun _ => 0 } }

/-- A special register (R148, R170); what a span reads of its lanes is free (log entry 87). -/
def rdsRow (e : Ext) : Row :=
  { instr := .rds e, info := uncut (e.info 1 0 0 0),
    comp := fun s i =>
      let f := (s.special i e.mod.toNat).norm
      { outs := [{ dst := dstOf e.d, form := f.kept, val := fun t => f.at i.launch.rcd i.ctx.cohort t.c }], once := false,
        fl := fun _ => 0 } }

/-- The form code of a register or predicate (R213). -/
def formqRow (e : Ext) : Row :=
  { instr := .formq e, info := uncut (e.info 1 (if e.modBit 0 then 0 else 1) 0 0),
    comp := fun _ i =>
      let v : Word := if e.modBit 0 then (match i.ctx.pForm e.a.toNat with
          | .u _ => 0
          | .m _ => 2
          | .e _ => 3)
        else if e.a.toNat < 128 then i.ctx.formCode i.launch.rcd e.a.toNat else 0
      { outs := [{ dst := dstOf e.d, form := some (.u v), val := fun _ => v }], once := false, fl := fun _ => 0 } }

/-- 32 predicates as a word (R174). -/
def pmovGetRow (e : Ext) : Row :=
  { instr := .pmov e, info := e.info 1 0 0 0,
    comp := fun _ i =>
      let ps := (List.range 32).map fun j => i.ctx.pForm (32 * e.modBits 1 2 + j)
      let word (c : Nat) : Word :=
        .ofNat 32 (((List.range 32).map fun j => if i.ctx.pAt i.launch.rcd (32 * e.modBits 1 2 + j) c then 2 ^ j else 0).sum)
      let uniform := ps.all fun p => match p with
        | .u _ => true
        | _ => false
      { outs := [{ dst := dstOf e.d, form := if uniform then i.first.map fun t => .u (word t.c) else none, val := fun t => word t.c }],
        once := false, fl := fun _ => 0 } }

/-- The moves and the instructions with 64-bit operands or results; `rds` of a span's lanes and `pmov` of a word into
predicates are not among them. -/
def wideRows (e : Ext) : List Row :=
  [movRow e, iadd64Row e, imad64Row e, ftoiRow e, itofRow e, movkRow e, selRow e, formqRow e]
    ++ (if e.modBit 0 then [] else [pmovGetRow e])

/-- The base words that move (R164, R245). -/
def movBaseRows (v : Base1) (k : Base1Lit) : List Row :=
  [{ instr := .movBase v, info := v.info,
     comp := fun s i =>
      { outs := [{ dst := .x v.d.toNat, form := (s.src32 i.ctx i.launch.rcd v.src).kept, val := readLo s i v.src }],
        once := false, fl := fun _ => 0 } },
   { instr := .movBaseLit k, info := k.info,
     comp := fun _ _ => { outs := [{ dst := .x k.d.toNat, form := some (.u k.lit), val := fun _ => k.lit }], once := false, fl := fun _ => 0 } }]

/-! ### Exchanges between the items of a strand -/

/-- The item of the group at a position of the strand. -/
def atPos (i : Issue) (j : Int) : Option Item := i.grp.find? fun u => decide ((i.ctx.pos u.c : Int) = j)

/-- What `sxch` reads for an item (R178): the A of the item its B operand names within its cluster of W positions, its own
A where that is none of the group's. -/
def sxchValue (s : State) (i : Issue) (e : Ext) (t : Item) : Word :=
  let w := 64 / 2 ^ e.modBits 2 3
  let pos := i.ctx.pos t.c
  let b := (readLo s i (e.src e.b) t).toNat
  let lo := pos - pos % w
  let j : Int := match e.modBits 0 2 with
    | 0 => ((lo + b % w : Nat) : Int)
    | 1 => (pos : Int) - b
    | 2 => ((pos + b : Nat) : Int)
    | _ => ((lo + (pos % w ^^^ b % w) : Nat) : Int)
  match atPos i j with
  | some u => if (lo : Int) ≤ j ∧ j < lo + w then readLo s i (e.src e.a) u else readLo s i (e.src e.a) t
  | none => readLo s i (e.src e.a) t

/-- `sred` (R180): the reduction of the affected items' values, once for the strand. -/
def sredRow (e : Ext) : Row :=
  { instr := .sred e, info := e.info 1 1 0 0,
    comp := fun s i =>
      let q := sredAll (e.modBits 0 4) (i.aff.map (readLo s i (e.src e.a)))
      { outs := [{ dst := dstOf e.d, form := some (.u q.1), val := fun _ => q.1 }], once := true, fl := fun _ => q.2 } }

/-- `vote.ballot` (R176): bit Pos(i) of a 64-bit result for each affected item whose predicate is 1. -/
def ballot (i : Issue) (e : Ext) : DWord :=
  .ofNat 64 ((i.aff.map fun t => if xor (i.ctx.pAt i.launch.rcd e.a.toNat t.c) (e.modBit 2) then 2 ^ i.ctx.pos t.c else 0).sum)

/-! ### Predicates -/

/-- A predicate result is written: the context is left as `WroteP` says. -/
def CompletesP (j : Instr) (m : Meta) (outs : State → Issue → List OutP) (fl : State → Issue → Item → FFlags) : Prop :=
  ∀ s i, Performs s m i → (∀ t ∈ i.aff, fl s i t &&& i.ctx.fctl = 0) →
    ∀ z, i.writtenP m (outs s i) = some z → s.fits z = true →
    ∃ u y, exec j s = .next u ∧ OnlyCtx s i u y
      ∧ WroteP i m (outs s i) (i.aff.foldl (fun f t => f ||| fl s i t) 0) y

/-- A comparison of words (R256). -/
def compares (cmp : Nat) (uns : Bool) (a b : Word) : Bool :=
  match cmp with
  | 0 => a == b
  | 1 => a != b
  | 2 => if uns then decide (a.toNat < b.toNat) else decide (a.toInt < b.toInt)
  | 3 => if uns then decide (a.toNat ≤ b.toNat) else decide (a.toInt ≤ b.toInt)
  | 4 => if uns then decide (b.toNat < a.toNat) else decide (b.toInt < a.toInt)
  | _ => if uns then decide (b.toNat ≤ a.toNat) else decide (b.toInt ≤ a.toInt)

/-- The predicate result of `icmp`: U where both operands are U, E where R151 grants it. -/
def icmpOut (e : Ext) (s : State) (i : Issue) : OutP :=
  { dst := dstPred e.d,
    form := match s.src32 i.ctx i.launch.rcd (e.src e.a), s.src32 i.ctx i.launch.rcd (e.src e.b) with
      | .u x, .u y => some (.u (compares (e.modBits 0 3) (e.modBit 3) x y))
      | x, y => i.eForm (e.modBits 0 3) (e.modBit 3) x y
    val := fun t => compares (e.modBits 0 3) (e.modBit 3) (readLo s i (e.src e.a) t) (readLo s i (e.src e.b) t) }

/-- The predicate result of `pcomb` (R172). -/
def pcombOut (e : Ext) (i : Issue) : OutP :=
  let fa := (i.ctx.pForm e.a.toNat).inv (e.modBit 2)
  let fb := (i.ctx.pForm e.b.toNat).inv (e.modBit 3)
  { dst := dstPred e.d,
    form := match fa, fb with
      | .u v, .u w => some (PForm.u (pcombB (e.modBits 0 2) v w))
      | .u v, .e p => some (pcombE (e.modBits 0 2) v (.e p))
      | .e p, .u v => some (pcombE (e.modBits 0 2) v (.e p))
      | _, _ => none
    val := fun t => pcombB (e.modBits 0 2) (xor (i.ctx.pAt i.launch.rcd e.a.toNat t.c) (e.modBit 2))
      (xor (i.ctx.pAt i.launch.rcd e.b.toNat t.c) (e.modBit 3)) }

/-- The predicates that `pmov` writes from a word (R174): those of the group that IMM names. -/
def pmovOuts (e : Ext) (s : State) (i : Issue) : List OutP :=
  ((List.range 32).filter fun j => e.imm.toNat.testBit j).map fun j =>
    { dst := .p (32 * e.modBits 1 2 + j),
      form := match s.src32 i.ctx i.launch.rcd (e.src e.a) with
        | .u v => some (.u (v.toNat.testBit j))
        | _ => none
      val := fun t => (readLo s i (e.src e.a) t).toNat.testBit j }

/-- The result of `vote` all, any and equal over the affected items (R176). -/
def voteOf (e : Ext) (i : Issue) : Bool :=
  let v (t : Item) : Bool := xor (i.ctx.pAt i.launch.rcd e.a.toNat t.c) (e.modBit 2)
  match e.modBits 0 2 with
  | 0 => i.aff.all v
  | 1 => i.aff.any v
  | _ => i.aff.all v || !i.aff.any v

end Sys2Proof.Claims

open Sys2Proof Sys2Proof.Machine Sys2Proof.Claims

def Sys2Proof.Claims.FloatInstructionsWriteTheirResults : Prop :=
  ∀ e : Ext, ∀ r ∈ fpExt e, r.Completes

def Sys2Proof.Claims.FloatBaseWordsWriteTheirResults : Prop :=
  ∀ (w : BaseOps) (l : BaseLit) (f : F20Word), ∀ r ∈ fpBaseRows w l f, r.Completes

/-- Floating-point and packed instructions complete, write their results and raise their flags (R234, R238, R245, R261 to
R283). -/
def Obligations.FloatInstructionsWriteResults : Prop :=
  Sys2Proof.Claims.FloatInstructionsWriteTheirResults ∧ Sys2Proof.Claims.FloatBaseWordsWriteTheirResults

def Sys2Proof.Claims.MovesAndWideInstructionsWriteTheirResults : Prop :=
  (∀ e : Ext, ∀ r ∈ wideRows e, r.Completes)
  ∧ (∀ (v : Base1) (k : Base1Lit), ∀ r ∈ movBaseRows v k, r.Completes)
  ∧ (∀ e : Ext, e.mod ≠ 0x0E → (rdsRow e).Completes)
  ∧ ∀ e : Ext, e.mod = 0x0E → ∀ s i, Performs s (rdsRow e).info i →
      (i.ctx.kind = .span → ∀ o ∈ ((rdsRow e).comp s i).outs, o.isM i = false) →
      s.fits (i.written (rdsRow e).info ((rdsRow e).comp s i).outs) = true →
      ∃ u y, exec (.rds e) s = .next u
        ∧ OnlyCtx (if i.ctx.kind = .span then { s with free := s.free + 1 } else s) i u y
        ∧ Wrote i (rdsRow e).info ((rdsRow e).comp s i).outs 0 y

/-- sxch, sred and vote.ballot complete and write their results (R176 to R180). -/
def Obligations.StrandExchangesWriteTheirResults : Prop :=
  (∀ e : Ext, ∀ s i v, Performs s (e.info 1 1 1 0) i → s.src32 i.ctx i.launch.rcd (e.src e.a) = .u v →
    (i.ctx.kind = .span → ∀ n, dstOf e.d = .x n → i.full = true) →
    s.fits (i.written (e.info 1 1 1 0) [{ dst := dstOf e.d, form := some (.u v), val := fun _ => v }]) = true →
    ∃ u y, exec (.sxch e) s = .next u ∧ OnlyCtx s i u y
      ∧ Wrote i (e.info 1 1 1 0) [{ dst := dstOf e.d, form := some (.u v), val := fun _ => v }] 0 y)
  ∧   (∀ e : Ext, ∀ s i, Performs s (e.info 1 1 1 0) i → i.ctx.kind ≠ .span →
    (∀ v, s.src32 i.ctx i.launch.rcd (e.src e.a) ≠ .u v) →
    s.fits (i.written (e.info 1 1 1 0) [{ dst := dstOf e.d, val := sxchValue s i e }]) = true →
    ∃ u y, exec (.sxch e) s = .next u ∧ OnlyCtx s i u y
      ∧ Wrote i (e.info 1 1 1 0) [{ dst := dstOf e.d, val := sxchValue s i e }] 0 y)
  ∧ (∀ e : Ext, ∀ s i, Performs s (e.info 1 1 0 0) i → i.ctx.kind ≠ .span → Calm i ((sredRow e).comp s i) →
    s.fits (i.written (e.info 1 1 0 0) ((sredRow e).comp s i).outs) = true →
    ∃ u y, exec (.sred e) s = .next u ∧ OnlyCtx s i u y
      ∧ Wrote i (e.info 1 1 0 0) ((sredRow e).comp s i).outs (i.raised [(sredRow e).comp s i]) y)
  ∧ ∀ e : Ext, e.modBits 0 2 = 3 → ∀ s i, Performs s (e.info 2 0 0 0) i → i.ctx.kind ≠ .span →
    s.fits (i.written (e.info 2 0 0 0) (outs64 i e.d true fun _ => ballot i e)) = true →
    ∃ u y, exec (.vote e) s = .next u ∧ OnlyCtx s i u y
      ∧ Wrote i (e.info 2 0 0 0) (outs64 i e.d true fun _ => ballot i e) 0 y

/-- icmp, fcmp, pcomb, pmov.set and vote complete and write their predicates (R172, R174, R176, R256, R266). -/
def Obligations.PredicateInstructionsWriteTheirResults : Prop :=
  ∀ e : Ext,
    CompletesP (.icmp e) (e.info 0 1 1 0) (fun s i => [icmpOut e s i]) (fun _ _ _ => 0)
    ∧ CompletesP (.pcomb e) (e.info 0 0 0 0) (fun _ i => [pcombOut e i]) (fun _ _ _ => 0)
    ∧ (e.modBit 0 = true → CompletesP (.pmov e) (e.info 0 1 0 0) (pmovOuts e) (fun _ _ _ => 0))
    ∧ (e.modBits 0 2 ≠ 3 → ∀ s i, Performs s (e.info 0 0 0 0) i →
        (i.ctx.kind = .span → ∃ v, i.ctx.pForm e.a.toNat = .u v) →
        ∀ z, i.writtenP (e.info 0 0 0 0) [{ dst := dstPred e.d, form := some (.u (voteOf e i)), val := fun _ => voteOf e i }] = some z →
          s.fits z = true →
          ∃ u y, exec (.vote e) s = .next u ∧ OnlyCtx s i u y
            ∧ WroteP i (e.info 0 0 0 0) [{ dst := dstPred e.d, form := some (.u (voteOf e i)), val := fun _ => voteOf e i }] 0 y)
    ∧ ∀ s i, Performs s (e.info 0 1 1 0) i → i.ctx.kind ≠ .span →
        let v (t : Item) : Bool × FFlags := fcmpHolds (e.modBits 0 4) (e.modBit 8)
          (srcMod (e.modBit 4) (e.modBit 5) (readLo s i (e.src e.a) t)) (srcMod (e.modBit 6) (e.modBit 7) (readLo s i (e.src e.b) t))
        let out : OutP := { dst := dstPred e.d, val := fun t => (v t).1 }
        (∀ t ∈ i.aff, (v t).2 &&& i.ctx.fctl = 0) →
        ∀ z, i.writtenP (e.info 0 1 1 0) [out] = some z → s.fits z = true →
          ∃ u y, exec (.fcmp e) s = .next u ∧ OnlyCtx s i u y
            ∧ WroteP i (e.info 0 1 1 0) [out] (i.aff.foldl (fun f t => f ||| (v t).2) 0) y

namespace Sys2Proof.Claims

/-! ### Every issue -/

/-- A row whose results a span cannot hold as U, A and q, and whose results do not fit. -/
def Row.NeedsStrands (r : Row) : Prop :=
  ∀ s i, Performs s r.info i → Calm i (r.comp s i) → i.ctx.kind = .span → (∃ o ∈ (r.comp s i).outs, o.isM i = true) →
    exec r.instr s = .next (s.materialise i.ctx i.launch.rcd)

/-- Other contexts have given up their places in the span file and nothing else (R160). -/
structure MadeRoom (s : State) (i : Issue) (u : State) (y : Ctx) : Prop where
  rest : u = { s with ctxs := u.ctxs }
  others : ∀ n, n ≠ i.ctx.id →
    (u.ctx? n).map (fun x => { x with spill := .home }) = (s.ctx? n).map fun x => { x with spill := .home }
  ctx : u.ctx? i.ctx.id = some y

/-- A row whose results do not fit the storage of the core as it stands (R159, R160): where spilling makes room the results are
written; else the items that were to be written fault. -/
def Row.Overfull (r : Row) : Prop :=
  ∀ s i, Performs s r.info i → Calm i (r.comp s i) → (i.ctx.kind = .span → ∀ o ∈ (r.comp s i).outs, o.isM i = false) →
    s.fits (i.written r.info (r.comp s i).outs) = false →
    (s.fitsBut (s.setCtx (i.written r.info (r.comp s i).outs)) i.ctx.core = true →
      ∃ u y, exec r.instr s = .next u ∧ MadeRoom s i u y ∧ Wrote i r.info (r.comp s i).outs (i.raised [r.comp s i]) y)
    ∧ (s.fitsBut (s.setCtx (i.written r.info (r.comp s i).outs)) i.ctx.core = false →
      exec r.instr s = .next (s.faultSome i.ctx.id 0x05 (i.aff.map Item.c) i.pc 0 false))

/-- A row whose computation raises an enabled exception (R240): performed once, the context faults FPTrap; else the items that
raise one fault, a span materialising first. -/
def Row.Traps (r : Row) : Prop :=
  ∀ s i, Performs s r.info i →
    ((r.comp s i).once = true → ∀ t, i.first = some t → (r.comp s i).fl t &&& i.ctx.fctl ≠ 0 →
      exec r.instr s = .next (s.faultCtx i.ctx.id 0x11 i.pc 0 false))
    ∧ ((r.comp s i).once = false → (∃ t ∈ i.aff, (r.comp s i).fl t &&& i.ctx.fctl ≠ 0) →
      exec r.instr s = .next (if i.ctx.kind = .span then s.materialise i.ctx i.launch.rcd
        else s.faultItems i.ctx.id 0x11 ((i.aff.filter fun t => (r.comp s i).fl t &&& i.ctx.fctl != 0).map Item.c) i.pc 0 false))

/-- The context has become `y`: its group's items stand where `to` sends them, else at the next instruction, marked registers
read 0, and nothing else of it has changed. -/
structure Went (i : Issue) (m : Meta) (goes : Nat → Option DWord) (y : Ctx) : Prop where
  same : y = { i.ctx with items := y.items, x := y.x, q := y.q, yielded := none }
  pcs : i.Stands (fun c => (goes c).getD (i.next m)) y
  xKept : ∀ n, ∀ c ∈ i.ctx.cs, y.xAt i.launch.rcd n c = if i.kills m (.x n) c then 0 else i.ctx.xAt i.launch.rcd n c
  qKept : ∀ n, ∀ c ∈ i.ctx.cs, y.qAt n c = if i.kills m (.q n) c then 0 else i.ctx.qAt n c

/-- The affected items go to one address. -/
def allTo (i : Issue) (pc : DWord) (c : Nat) : Option DWord := if (i.aff.map Item.c).contains c then some pc else none

/-- The instruction `j` moves its affected items to `pc` when the target passes R55, and faults BranchTarget when it does
not. -/
def Branches (j : Instr) (m : Meta) (pc : Issue → DWord) : Prop :=
  ∀ s i, Performs s m i →
    (s.targetOf i (pc i) = .ok → ∃ u y, exec j s = .next u ∧ OnlyCtx s i u y ∧ Went i m (allTo i (pc i)) y)
    ∧ (s.targetOf i (pc i) = .wrong → exec j s = .next (s.faultCtx i.ctx.id 0x02 i.pc 0 false))
    ∧ ∀ f, s.targetOf i (pc i) = .wait f → exec j s = .next (s.fetchWait i f)

/-- Each affected item goes to its own address or on to the next instruction, where `goes` finds no wrong target. -/
def eachTo (i : Issue) (goes : Item → Goes) (c : Nat) : Option DWord :=
  match (i.aff.find? fun t => t.c == c).map goes with
  | some (.to pc) => some pc
  | _ => none

/-- Where `brx` sends an item (R200, R201): beyond the table to the next instruction, else where the table's word says. -/
def brxGoes (e : Ext) (s : State) (i : Issue) (t : Item) : Goes :=
  let j := (readLo s i (e.src e.a) t).toNat
  if e.mod.toNat + 1 ≤ j then .next
  else
    let entry : DWord := i.pc + e.imm.signExtend 64 + .ofNat 64 (4 * j)
    match codeIndex i.launch entry with
    | none => .wrong
    | some _ => match s.fetchAt i.ctx.core i.launch entry.toNat 4 (s.lentTo (some i.ctx.id) none) with
      | .ok w => s.goesTo i (i.pc + w.signExtend 64)
      | f => .wait f

/-- Where `ret` sends an item (R202, R203): to the code word its operand numbers. -/
def retGoes (e : Ext) (s : State) (i : Issue) (t : Item) : Goes :=
  let n := (readLo s i (e.src e.a) t).toNat
  if i.launch.words ≤ n then .wrong else s.goesTo i (.ofNat 64 (i.launch.code + 4 * n))

/-- An indexed transfer: it completes when every affected item has a place to go, and the items without one fault
BranchTarget. -/
def Scatters (j : Instr) (m : Meta) (a : Src) (goes : State → Issue → Item → Goes) : Prop :=
  ∀ s i, Performs s m i → (i.ctx.kind = .span → ∃ v, s.src32 i.ctx i.launch.rcd a = .u v) →
    ((∀ t ∈ i.aff, goes s i t = .next ∨ ∃ pc, goes s i t = .to pc) →
      ∃ u y, exec j s = .next u ∧ OnlyCtx s i u y ∧ Went i m (eachTo i (goes s i)) y)
    ∧ ((∀ t ∈ i.aff, ∀ f, goes s i t ≠ .wait f) → (∃ t ∈ i.aff, goes s i t = .wrong) → i.ctx.kind ≠ .span →
      exec j s = .next (s.faultItems i.ctx.id 0x02 ((i.aff.filter fun t => goes s i t == .wrong).map Item.c) i.pc 0 false))

end Sys2Proof.Claims

open Sys2Proof Sys2Proof.Machine Sys2Proof.Claims

/-- Words written out from the encodings decode to their instructions, and illegal ones are refused (R29 to R44). -/
def Obligations.WorkedEncodingsDecode : Prop :=
  decodeWords [0x3F002238] = .ok (.clause { wait := 2, setA := 2, setB := 3, rgn := true, yld := false }, 1)
  ∧ decodeWords [0x01060608] = .ok (.iaddBase { d := 3, a := 1, alr := true, b := 2, blr := false, bk := false }, 1)
  ∧ decodeWords [0x540815FD, 0x3F000000] = .ok (.ffmaDmBaseLit { d := 4, a := 5, alr := false, lit := 0x3F000000 }, 2)
  ∧ decodeWords [0x3023FC00] = .ok (.faddI { d := 2, imm := 0x3FC00 }, 1)
  ∧ decodeWords [0x3113DCCC] = .ok (.fmulI { d := 1, imm := 0x3DCCC }, 1)
  ∧ decodeWords [0x8C007000, 0x0A0BE0FF, 0x00000384] = .ok (.fadd
      { guard := 3, neg := true, alr := false, blr := false, clr := false, mod := 0, d := 0x0A, a := 0x0B, b := 0xE0, c := 0xFF,
        imm := 900, lit := none }, 3)
  ∧ decodeWords [0xBFF02000, 0x0104080C, 0x130E2024] = .ok (.pair
      { guard := 1, neg := false, span := .two .iadd { d := 2, a := 2, alr := false, b := 3, blr := false, bk := false },
        strand := .two .fmul { d := 7, a := 8, alr := false, b := 9, blr := false, bk := false } }, 3)
  ∧ decodeWords [0x3F000FF0] = .ok (.clause { wait := 0, setA := 15, setB := 15, rgn := false, yld := false }, 1)
  ∧ decodeWords [0x630001FD, 0x20] = .ok (.braBase 0x20, 2)
  ∧ (∀ ws ∈ ([[0], [0x3F000FF3], [0x3F000220], [0x540815FC, 7], [0xBFF02000, 0x3F000FF0, 0x130E2024],
      [0xCC00E000, 0x0A0BE0FF, 0, 0, 0]] : List (List Word)), (decodeWords ws).toOption = none)

/-- Decoding an encoded well-formed instruction gives it back (R26 to R44). -/
def Obligations.DecodingAnEncodedInstructionGivesItBack : Prop :=
  ∀ i : Instr, i.wf = true → ∀ ws, encode i = some ws → ∀ rest, decodeWords (ws ++ rest) = .ok (i, ws.length)

/-- Whatever decodes is well formed and is encoded by the words it came from (R26 to R44). -/
def Obligations.DecodedWordsAreTheInstructionsEncoding : Prop :=
  ∀ ws i n, decodeWords ws = .ok (i, n) → i.wf = true ∧ encode i = some (ws.take n) ∧ n = instrLength (ws.headD 0) ∧ n ≤ ws.length

/-- A step executes the instruction that the words at the issuing group's PC decode to, the context's entries being in the span
file and the words having come through the L2 banks (R26, R73, R96, R160; log entries 1, 2). -/
def Obligations.StepRunsTheDecodedInstruction : Prop :=
  (∀ s n i k j ws, s.inputs = [] → s.cur = some n → (s.ready n).issue? = some i → (∀ t ∈ i.grp, t.place.count ≠ 17) →
    codeIndex i.launch i.pc = some k →
    (∀ m (h : m < ws.length), (s.ready n).fetchAt i.ctx.core i.launch (i.pc.toNat + 4 * m) 4
      ((s.ready n).lentTo (some i.ctx.id) none) = .ok ws[m]) →
    decodeWords ws = .ok (j, ws.length) → k + ws.length ≤ i.launch.words →
    step s = finish s (exec j ((s.ready n).codeRead i.ctx.core i.launch i.pc.toNat ws.length ((s.ready n).lentTo (some i.ctx.id) none))))
  ∧ ∀ (s : State) (n : Nat) (x : Ctx), s.ctx? n = some x → x.spill = .home →
    s.ready n = ({ s with cur := some n } : State).modCtx n fun y => { y with issued := s.clock }

/-- A step takes the oldest input first; a context that issues is one that its core starts next (R407, R408); with nothing to do only time
passes (the model's choice, log entries 2 and 10). -/
def Obligations.StepTakesInputsFirstAndEndsEveryMove : Prop :=
  (∀ s i rest, s.inputs = i :: rest → step s = finish s (exec i { s with inputs := rest, cur := none }))
  ∧ (∀ s, s.inputs = [] → s.cur = none → s.noteReady.moves = [] → step s = .next (s.noteReady.after s))
  ∧ (∀ (s : State) (id : Nat) (t : State), s.cur = none → s.turn = (some (.ctx id), t) →
      ∃ (x : Ctx) (core : Nat) (span : Bool), x ∈ s.noteReady.nextStarts core span ∧ x.id = id
        ∧ t.ctx? id = (s.noteReady.ctx? id).map fun y => { y with readySince := none, gives := false })
  ∧ (∀ b t, finish b (.next t) = .next (t.after b) ∧ (t.after b).cur = none)
  ∧ ∀ s n, s.inputs = [] → s.cur = some n → (s.ready n).issue? = none → step s = .next ((s.ready n).after s)

/-- From an orderly state every step answers a next state (R8). -/
def Obligations.OrderlyMachineGoesOn : Prop := ∀ s : State, s.orderly = true → s.Goes

/-- Usage counts stay below 2^64 and every step ends its turn (R436, R444; log entry 76). -/
def Obligations.UsageCountsFitIsKept : Prop :=
  ∀ s t, (∀ v ∈ s.slices, v.usage < 2 ^ 64) → step s = .next t → t.cur = none ∧ ∀ v ∈ t.slices, v.usage < 2 ^ 64

def Sys2Proof.Claims.MemoryReadsTheLastWrite : Prop :=
  ∀ (m : Memory), m.wf = true → ∀ a (bs : List Byte) b,
    (m.writeList a bs).read b = if a ≤ b ∧ b < a + bs.length then bs.getD (b - a) 0 else m.read b

def Sys2Proof.Claims.MemoryOperationsKeepTheCanonicalForm : Prop :=
  ∀ (m : Memory), m.wf = true →
    (∀ a v, (m.write a v).wf = true) ∧ (∀ a bs, (m.writeList a bs).wf = true) ∧ (∀ a n, (m.wipe a n).wf = true)
    ∧ (∀ p, Memory.wf (m.filter p) = true)
    ∧ ∀ m' : Memory, m'.wf = true → (∀ a, m.read a = m'.read a) → m = m'

/-- Memory reads back what was written last and keeps its canonical form (R3; the model's form of memory). -/
def Obligations.MemoryReadsTheLastWriteAndStaysCanonical : Prop :=
  Sys2Proof.Claims.MemoryReadsTheLastWrite ∧ Sys2Proof.Claims.MemoryOperationsKeepTheCanonicalForm

/-- Operand forms read, item by item, what the operand code names (R35, R149, R151). -/
def Obligations.OperandsReadAsTheirCodesSay : Prop :=
  ∀ (s : State) (x : Ctx) (r : LaunchRec) (a : Src), ∀ c ∈ x.cs,
    (s.src32 x r a).at r x.cohort c = s.opAt x r a c ∧ ∀ sx, (s.srcHi x r a sx).at r x.cohort c = s.opHiAt x r a sx c

/-- popc, clz, brev, bfe, bfi and bperm compute the bits their entries define (R250, R254). -/
def Obligations.IntegerWordFunctionsMeetTheirDefinitions : Prop :=
  (∀ x : Word, (popcW x).toNat = ((List.range 32).filter fun k => x.getLsbD k).length)
  ∧ clzW 0 = 32 ∧ (∀ x : Word, ∀ k < 32, x.getLsbD k = true → (∀ j, k < j → x.getLsbD j = false) → (clzW x).toNat = 31 - k)
  ∧ (∀ x : Word, ∀ k < 32, (brevW x).getLsbD k = x.getLsbD (31 - k))
  ∧ (∀ x b : Word, ∀ sx, ∀ k < 32, (bfeW sx x b).getLsbD k =
      if k < fieldLen b then x.getLsbD (b.toNat % 256 + k) else sx && decide (0 < fieldLen b) && x.getLsbD (b.toNat % 256 + fieldLen b - 1))
  ∧ (∀ x b c : Word, ∀ k < 32, (bfiW x b c).getLsbD k =
      if b.toNat % 256 ≤ k ∧ k < b.toNat % 256 + fieldLen b then x.getLsbD (k - b.toNat % 256) else c.getLsbD k)
  ∧ ∀ x y c : Word, ∀ j < 4, byteOf (bpermW x y c) j =
      let k := byteOf c j % 8
      let v := if k < 4 then byteOf x k else byteOf y (k - 4)
      match byteOf c j / 8 % 4 with
      | 0 => v
      | 1 => 0
      | 2 => if 128 ≤ v then 255 else 0
      | _ => 255

def Sys2Proof.Claims.SpansMaterialiseForResultsTheyCannotHold : Prop :=
  ∀ e : Ext, (∀ r ∈ intExt e, r.NeedsStrands) ∧ (∀ r ∈ fpExt e, r.NeedsStrands) ∧ ∀ r ∈ wideRows e, r.NeedsStrands

def Sys2Proof.Claims.ResultsThatDoNotFitFault : Prop :=
  ∀ e : Ext, (∀ r ∈ intExt e, r.Overfull) ∧ (∀ r ∈ fpExt e, r.Overfull) ∧ ∀ r ∈ wideRows e, r.Overfull

/-- A computation that raises an enabled exception faults FPTrap (R240). -/
def Obligations.EnabledExceptionsTrap : Prop :=
  ∀ e : Ext, (∀ r ∈ fpExt e, r.Traps) ∧ (ftoiRow e).Traps ∧ (itofRow e).Traps

def Sys2Proof.Claims.InstructionsThatAffectNoItemOnlyGoOn : Prop :=
  ∀ j opx e, j.asExt = some (opx, e) → ∀ s i, s.issue? = some i → i.place.count < 16 → i.place.long < 2 →
    i.guarded e.guard e.neg false = some [] → (i.atEntry = true → i.ctx.staged = 0) →
    ∃ u y, exec j s = .next u ∧ OnlyCtx s i u y ∧ y = { i.ctx with items := y.items, x := y.x, q := y.q, yielded := none }
      ∧ i.Moved { words := if e.lit.isSome then 5 else 3 } y
      ∧ (∀ n, ∀ c ∈ i.ctx.cs, y.xAt i.launch.rcd n c = i.ctx.xAt i.launch.rcd n c
          ∨ y.xAt i.launch.rcd n c = 0 ∧ (e.alr || e.blr || e.clr) = true)
      ∧ ∀ n, ∀ c ∈ i.ctx.cs, y.qAt n c = i.ctx.qAt n c ∨ y.qAt n c = 0 ∧ (e.alr || e.blr || e.clr) = true

def Sys2Proof.Claims.TooManyInstructionsOfAClauseFault : Prop :=
  ∀ j ws, encode j = some ws → (∀ h, j ≠ .clause h) → ∀ s i, s.issue? = some i → 16 ≤ i.place.count →
    exec j s = .next (s.faultCtx i.ctx.id 0x0E i.pc 0 false)

/-- An instruction that affects no item only goes on; a seventeenth instruction of a clause faults (R46, R154, R157; log entry
18). -/
def Obligations.ClausesGoOnWithoutItemsAndFaultWhenTooLong : Prop :=
  Sys2Proof.Claims.InstructionsThatAffectNoItemOnlyGoOn ∧ Sys2Proof.Claims.TooManyInstructionsOfAClauseFault

def Sys2Proof.Claims.OutstandingRegistersMakeAnInstructionWait : Prop :=
  ∀ e : Ext, ∀ r ∈ intExt e ++ fpExt e ++ wideRows e, ∀ s i, s.issue? = some i → i.place.count < 16 →
    i.guarded e.guard e.neg false = some i.aff → i.aff ≠ [] → (i.atEntry = true → i.ctx.staged = 0) →
    s.outstanding i.ctx (i.grp.map Item.c) (r.info.reads ++ r.info.writes) = true → exec r.instr s = .next s

/-- An instruction waits for outstanding registers, materialises a span it cannot write in, and spills or faults when its results do
not fit (R50, R152, R159, R160, R184). -/
def Obligations.SpansFaultWaitOrMaterialiseBeforeTheyIssue : Prop :=
  Sys2Proof.Claims.SpansMaterialiseForResultsTheyCannotHold ∧ Sys2Proof.Claims.ResultsThatDoNotFitFault ∧ Sys2Proof.Claims.OutstandingRegistersMakeAnInstructionWait

/-- bra, brx, call and ret move their affected items or fault BranchTarget (R55, R198 to R203). -/
def Obligations.BranchesMoveTheirItems : Prop :=
  (∀ e : Ext, Branches (.bra e) (e.info 0 0 0 0) fun i => i.pc + e.imm.signExtend 64)
  ∧ (∀ d : Word, Branches (.braBase d) { words := 2 } fun i => i.pc + d.signExtend 64)
  ∧ (∀ e : Ext, Scatters (.brx e) (e.info 0 1 0 0) (e.src e.a) (brxGoes e))
  ∧ (∀ e : Ext, Scatters (.ret e) (e.info 0 1 0 0) (e.src e.a) (retGoes e))
  ∧ ∀ (e : Ext) s i, Performs s (e.info 1 0 0 0) i →
      let pc := i.pc + e.imm.signExtend 64
      let link : Word := .ofNat 32 (wordIndex i.launch (i.pc + 12))
      let out : Out := { dst := dstOf e.d, form := some (.u link), val := fun _ => link }
      s.targetOf i pc = .ok → (i.ctx.kind = .span → out.isM i = false) → s.fits (i.written (e.info 1 0 0 0) [out]) = true →
      ∃ u y z, exec (.call e) s = .next u ∧ OnlyCtx s i u y ∧ Wrote i (e.info 1 0 0 0) [out] 0 z
        ∧ y = { z with items := y.items } ∧ i.Stands (fun c => (allTo i pc c).getD (i.next (e.info 1 0 0 0))) y

namespace Sys2Proof.Claims

/-! ### Paths and contexts -/

/-- Whenever the group performs the instruction under a condition, it only goes on: marked registers die and nothing else of the
machine changes. -/
def GoesOn (j : Instr) (m : Meta) (pre : State → Issue → Prop) : Prop :=
  ∀ s i, Performs s m i → pre s i → ∃ u y, exec j s = .next u ∧ OnlyCtx s i u y ∧ Wrote i m [] 0 y

/-- Items of the group wait where they stand, in one way, and nothing else of the context has changed. -/
def Issue.Waits (i : Issue) (w : Wait) (since : Nat) (y : Ctx) : Prop :=
  y = { i.ctx with items := y.items }
    ∧ y.items = i.ctx.items.map fun t => if (i.grp.map Item.c).contains t.c then { t with wait := w, since := since } else t

/-- The group waits, and nothing else of the machine changes. -/
def HoldsBack (j : Instr) (s : State) (i : Issue) (w : Wait) : Prop :=
  ∃ u y, exec j s = .next u ∧ OnlyCtx s i u y ∧ Issue.Waits i w s.clock y

/-- The items of a context with the coordinate that its predicate depends on below a threshold, and the others. -/
def coordOf (i : Issue) (p : EPred) (c : Nat) : Nat := pick3 p.dim (coord i.launch.rcd i.ctx.cohort c)

/-- What the guard is worth for an item. -/
def guardOf (i : Issue) (p : EPred) (neg : Bool) (c : Nat) : Bool := xor (p.at (coord i.launch.rcd i.ctx.cohort c)) neg

/-- A part of a split span (R186, R187): the items it holds, each where its own guard value sends it, with the registers it
had, the guard's predicate uniform, and one split more. -/
structure Part (s : State) (i : Issue) (g : Nat) (m : Meta) (pc : DWord) (cs : List Nat) (taken neg : Bool) (y : Ctx) : Prop where
  kind : y.kind = i.ctx.kind ∧ y.launch = i.ctx.launch ∧ y.cohort = i.ctx.cohort ∧ y.core = i.ctx.core
    ∧ y.fflags = i.ctx.fflags ∧ y.fctl = i.ctx.fctl ∧ y.region = i.ctx.region ∧ y.split = i.ctx.split + 1
  cs : y.cs = cs
  pcs : ∀ t ∈ y.items, t.pc = if taken then pc else i.next m
  xs : ∀ n, ∀ c ∈ y.cs, y.xAt i.launch.rcd n c = i.ctx.xAt i.launch.rcd n c
  qs : ∀ n, ∀ c ∈ y.cs, y.qAt n c = i.ctx.qAt n c
  guard : y.pForm g = .u (xor taken neg)
  ps : ∀ n, n ≠ g → ∀ c ∈ y.cs, y.pAt i.launch.rcd n c = i.ctx.pAt i.launch.rcd n c

/-- A context made of items of another: where they stand and what they read is as it was (R155, R184). -/
structure PartOf (r : LaunchRec) (x y : Ctx) : Prop where
  of : y.launch = x.launch ∧ y.cohort = x.cohort ∧ y.core = x.core ∧ y.fflags = x.fflags ∧ y.fctl = x.fctl ∧ y.region = x.region
  items : ∀ t ∈ y.items, t ∈ x.items
  xs : ∀ n, ∀ c ∈ y.cs, y.xAt r n c = x.xAt r n c
  qs : ∀ n, ∀ c ∈ y.cs, y.qAt n c = x.qAt n c
  ps : ∀ n, ∀ c ∈ y.cs, y.pAt r n c = x.pAt r n c

/-- The registers of a context live and hold values for items of it alone. -/
structure Owns (x : Ctx) : Prop where
  xs : ∀ g ∈ x.x, ∀ c ∈ g.live, c ∈ x.cs
  slots : ∀ g ∈ x.x, ∀ l, g.form = .m l → ∀ v ∈ l, v.1 ∈ x.cs
  qs : ∀ g ∈ x.q, ∀ c ∈ g.live, c ∈ x.cs
  ps : ∀ g ∈ x.p, ∀ l, g.form = .m l → ∀ v ∈ l, v.1 ∈ x.cs

/-! ### Pairs -/

/-- The value of a two-source base operation on its operands, and on the register it writes where it reads it, with its flags
(R33, R42). -/
def op2Value (op : Op2) (a b d : Src) (rd : Src → Word) : Word × FFlags :=
  let x := rd a
  let y := rd b
  let float (v : Nat × FFlags) : Word × FFlags := (.ofNat 32 v.1, v.2)
  match op with
  | .iadd => (x + y, 0)
  | .isub => (x - y, 0)
  | .imul => (x * y, 0)
  | .imulh => (mulhOf false x y, 0)
  | .imin => (minOf false x y, 0)
  | .imax => (maxOf false x y, 0)
  | .and => (x &&& y, 0)
  | .or => (x ||| y, 0)
  | .xor => (x ^^^ y, 0)
  | .andn => (x &&& ~~~y, 0)
  | .shl => (if y.toNat < 32 then x <<< y.toNat else 0, 0)
  | .shr => (if y.toNat < 32 then x >>> y.toNat else 0, 0)
  | .sar => (x.sshiftRight (min y.toNat 31), 0)
  | .rol => (x.rotateLeft (y.toNat % 32), 0)
  | .lea1 => ((x <<< 1) + y, 0)
  | .lea2 => ((x <<< 2) + y, 0)
  | .lea3 => ((x <<< 3) + y, 0)
  | .fadd => float (faddEval 0 a b rd)
  | .fmul => float (fmulEval 0 a b rd)
  | .ffmaDm => float (ffmaEval 0 d a b rd)
  | .ffmaAcc => float (ffmaEval 0 a b d rd)
  | .fmin => float (fminMaxEval false 0 a b rd)
  | .fmax => float (fminMaxEval true 0 a b rd)
  | .padd16 => float (padd16Eval 0 a b rd)
  | .pmul16 => float (pmul16Eval 0 a b rd)
  | .pfma16Acc => float (pfma16Eval 0 a b d rd)

/-- The value a slot of a pair computes for an item (R42, R43): its registers are q registers in the span slot and x registers
in the strand slot; none for a memory word. -/
def slotValue (s : State) (i : Issue) (span : Bool) (w : Slot) (t : Item) : Option (Word × FFlags) :=
  let rd (a : Src) : Word := readLo s i a t
  let reg (n : Nat) : Src := regSrc span n
  let b (bk : Bool) (n : BitVec 7) : Src := if bk then kSrc n.toNat else reg n.toNat
  match w with
  | .two op f => some (op2Value op (reg f.a.toNat) (b f.bk f.b) (reg f.d.toNat) rd)
  | .one op f =>
    let x := rd (b f.bk f.b)
    some (match op with
      | .mov => (x, 0)
      | .popc => (popcW x, 0)
      | .clz => (clzW x, 0)
      | .brev => (brevW x, 0)
      | .not => (~~~x, 0))
  | .f20 op f =>
    let k : Word := .ofNat 32 (f.imm.toNat * 4096)
    let d := reg f.d.toNat
    let v := match op with
      | .fadd => faddEval 0 d (litSrc k) rd
      | .fmul => fmulEval 0 d (litSrc k) rd
      | .fmin => fminMaxEval false 0 d (litSrc k) rd
      | .fmax => fminMaxEval true 0 d (litSrc k) rd
      | .fmov => (k.toNat, 0)
    some (.ofNat 32 v.1, v.2)
  | .mem _ _ => none

/-- The register number a slot writes. -/
def slotD : Slot → Nat
  | .two _ f => f.d.toNat
  | .one _ f => f.d.toNat
  | .f20 _ f => f.d.toNat
  | .mem _ f => f.d.toNat

/-- The result of a slot. -/
def slotOut (s : State) (i : Issue) (span : Bool) (w : Slot) : Out :=
  { dst := if span then .q (slotD w) else .x (slotD w), val := fun t => ((slotValue s i span w t).getD (0, 0)).1 }

end Sys2Proof.Claims

open Sys2Proof Sys2Proof.Machine Sys2Proof.Claims

def Sys2Proof.Claims.HeadersSetUpTheirClauses : Prop :=
  ∀ (h : ClauseWord) (s : State) (i : Issue), s.issue? = some i →
    (s.maskBusy i.ctx h.wait = true → HoldsBack (.clause h) s i (.flags h.wait))
    ∧ (s.maskBusy i.ctx h.wait = false → h.rgn = true → s.reading i.ctx (i.grp.map Item.c) = true →
        HoldsBack (.clause h) s i .region)
    ∧ (s.maskBusy i.ctx h.wait = false → (h.rgn = true → s.reading i.ctx (i.grp.map Item.c) = false) →
        s.deliver i h.wait = none → (h.rgn = true ∨ i.atEntry = true → i.ctx.staged = 0) →
        ∃ u y, exec (.clause h) s = .next u ∧ OnlyCtx s i u y
          ∧ y = { i.ctx with items := y.items, region := if h.rgn then i.ctx.region + 1 else i.ctx.region, yielded := none,
                                gives := h.yld }
          ∧ y.items = i.ctx.items.map fun t =>
              let place : Place := { count := 0, long := 0, setA := h.setA, setB := h.setB }
              let e : Entry := { pc := i.pc, region := i.ctx.region, fflags := i.ctx.fflags, place := place }
              if (i.grp.map Item.c).contains t.c then
                { t with pc := i.pc + 4, place := place, since := s.clock, wait := .none,
                         region := if h.rgn then i.ctx.region + 1 else t.region, entry := if h.rgn then e else t.entry }
              else t)

def Sys2Proof.Claims.StagedCopiesCommitAtRegionEntries : Prop :=
  (∀ (s : State) (x : Ctx), s.ctx? x.id = some x → x.staged ≠ 0 →
    ∃ u, s.commitStaged x.id = u ∧ u = { s with ctxs := u.ctxs, regs := u.regs } ∧ u.ctx? x.id = some { x with staged := 0 }
      ∧ (∀ n, n ≠ x.id → u.ctx? n = s.ctx? n)
      ∧ u.vreg (sliceOf x.core) 0xEA0 = .ofNat 32 (min ((s.vreg (sliceOf x.core) 0xEA0).toNat + x.staged) 0xFFFFFFFF)
      ∧ ∀ fn off, (fn, off) ≠ (s.leader (sliceOf x.core) + 1, 0xEA0) → u.reg fn off = s.reg fn off)
  ∧ ∀ (h : ClauseWord) s i, s.issue? = some i → s.maskBusy i.ctx h.wait = false → s.deliver i h.wait = none →
      h.rgn = true → s.reading i.ctx (i.grp.map Item.c) = false → ∃ u y, exec (.clause h) s = .next u ∧ u.ctx? i.ctx.id = some y ∧ y.staged = 0

/-- A clause header waits for its flags and region, sets up its clause, and commits staged copies (R45 to R48, R322, R411,
R415). -/
def Obligations.HeadersSetUpClausesAndCommitStagedCopies : Prop :=
  Sys2Proof.Claims.HeadersSetUpTheirClauses ∧ Sys2Proof.Claims.StagedCopiesCommitAtRegionEntries

/-- nop, mat, wait, yield and join go on, and wait says for what and how long (R190, R194, R204 to R212). -/
def Obligations.WaitingInstructionsGoOnWhenTheirTimeComes : Prop :=
  (∀ e : Ext, GoesOn (.nop e) (e.info 0 0 0 0) fun _ _ => True)
  ∧ (∀ e : Ext, GoesOn (.mat e) (e.info 0 0 0 0) fun _ i => i.ctx.kind ≠ .span)
  ∧ (∀ e : Ext, e.modBit 0 = false → GoesOn (.wait e) (e.info 0 0 0 0) fun s i =>
      s.maskBusy i.ctx (e.imm.truncate 12) = false ∧ s.deliver i (e.imm.truncate 12) = none)
  ∧ (∀ e : Ext, GoesOn (.join e) (e.info 0 0 0 0) fun _ i => i.grp.length ≠ i.ctx.items.length)
  ∧ ∀ (e : Ext) (s : State) (i : Issue), Performs s (e.info 0 0 0 0) i →
      (i.ctx.kind = .span → exec (.mat e) s = .next (s.materialise i.ctx i.launch.rcd))
      ∧ (e.modBit 0 = false → s.maskBusy i.ctx (e.imm.truncate 12) = true → HoldsBack (.wait e) s i (.flags (e.imm.truncate 12)))
      ∧ (e.modBit 0 = true → ∃ u y, exec (.wait e) s = .next u ∧ OnlyCtx s i u y
          ∧ y = { i.ctx with items := y.items, yielded := none } ∧ i.Moved (e.info 0 0 0 0) y
          ∧ ∀ t ∈ y.items, (i.grp.map Item.c).contains t.c = true → t.wait = .clock (s.clock + s.coreClocks i.ctx.core e.imm.toNat))
      ∧ (e.lit = none → ∃ u y z, exec (.yield e) s = .next u ∧ OnlyCtx s i u z ∧ Wrote i (e.info 0 0 0 0) [] 0 y
          ∧ z = { y with yielded := if i.ctx.kind ≠ .span ∧ ∃ t ∈ i.ctx.items, t.pc ≠ i.pc then some (i.next (e.info 0 0 0 0)) else none, gives := true })

def Sys2Proof.Claims.JoinsMergeOrWaitOrPass : Prop :=
  ∀ (e : Ext) (s : State) (i : Issue), Performs s (e.info 0 0 0 0) i → i.grp.length = i.ctx.items.length →
    s.mate i.launch.rcd i.ctx i.pc = none →
    ((s.holdsAll i.ctx = true ∨ i.launch.rcd.joinWait = 0) →
      ∃ u y, exec (.join e) s = .next u ∧ OnlyCtx s i u y ∧ y = { i.ctx with items := y.items }
        ∧ i.Stands (fun _ => i.pc + 12) y)
    ∧ (s.holdsAll i.ctx = false → i.launch.rcd.joinWait ≠ 0 →
      HoldsBack (.join e) s i (.join (s.clock + s.coreClocks i.ctx.core i.launch.rcd.joinWait) i.ctx.items.length (s.remaining i.ctx)))

def Sys2Proof.Claims.MergedContextsHoldTheItemsOfBoth : Prop :=
  ∀ (s : State) (r : LaunchRec) (low other : Ctx) (kind : CtxKind) (place : Option Nat) (lane : Nat),
    s.joinable r low other = true → s.mergeKind r low other = some (kind, place) → (∀ c ∈ low.cs, c ∉ other.cs) →
    Owns low → Owns other →
    let y := mergeCtx low other kind place lane
    (∀ t, t ∈ y.items ↔ t ∈ low.items ∨ t ∈ other.items)
      ∧ (kind ≠ .span → y.items.length ≤ 64) ∧ (kind = .span → isBox r low.cohort (low.cs ++ other.cs) = true)
      ∧ y.fflags = low.fflags ||| other.fflags ∧ y.staged = low.staged + other.staged ∧ y.id = low.id
      ∧ (∀ n, ∀ c ∈ low.cs, y.xAt r n c = low.xAt r n c ∧ y.qAt n c = low.qAt n c ∧ y.pAt r n c = low.pAt r n c)
      ∧ ∀ n, ∀ c ∈ other.cs, y.xAt r n c = other.xAt r n c ∧ y.qAt n c = other.qAt n c ∧ y.pAt r n c = other.pAt r n c

/-- A join passes, waits or merges, and a merge keeps every item and register (R155, R193 to R195; log entries 38, 54). -/
def Obligations.JoinsMergeTheItemsOfContexts : Prop :=
  Sys2Proof.Claims.JoinsMergeOrWaitOrPass ∧ Sys2Proof.Claims.MergedContextsHoldTheItemsOfBoth

namespace Sys2Proof.Claims

/-- Every context stands under its own number with each of its items once, no item is in two of them, and none waits in a barrier of
a group. -/
def keysApart (s : State) : Prop :=
  ∀ x ∈ s.ctxs, s.ctx? x.id = some x ∧ x.id < s.nextId ∧ x.cs.Nodup ∧ (∀ y ∈ s.ctxs, y.id ≠ x.id → ∀ k ∈ x.keys, k ∉ y.keys)
    ∧ ∀ t ∈ x.items, ∀ g n pd, t.wait ≠ .bar g n pd

end Sys2Proof.Claims

open Sys2Proof Sys2Proof.Machine Sys2Proof.Claims

/-- exit ends the affected items, which no context holds any more; the others keep their context (R204, R205, R304). -/
def Obligations.ExitedItemsLeaveTheirContext : Prop :=
  (∀ (e : Ext) (s : State) (i : Issue), Performs s (e.info 0 0 0 0) i → s.exitFail i.ctx = none →
    ∃ u, exec (.exit e) s = .next u
      ∧ u = ((s.transfer i (e.info 0 0 0 0) fun _ => none).exitItems i.ctx (i.aff.map Item.c)).settleJoins
      ∧ (keysApart s → ∀ x ∈ u.ctxs, ∀ t ∈ i.aff, i.ctx.key t.c ∉ x.keys))
  ∧ (∀ (e : Ext) (s : State) (i : Issue) t, Performs s (e.info 0 0 0 0) i → s.exitFail i.ctx = some t →
      exec (.exit e) s
        = .next (({ s with taskFails := s.taskFails.filter fun v => v != t } : State).faultCtx i.ctx.id t.cause i.pc 0 false))
  ∧ ∀ (s : State) (x : Ctx) (cs : List Nat), s.ctx? x.id = some x →
      ((∃ c ∈ x.cs, c ∉ cs) → ∃ y, (s.dropItems x.id cs).ctx? x.id = some y ∧ (∀ t, t ∈ y.items ↔ t ∈ x.items ∧ t.c ∉ cs)
        ∧ ∀ r n, ∀ c ∈ y.cs, y.xAt r n c = x.xAt r n c ∧ y.qAt n c = x.qAt n c ∧ y.pAt r n c = x.pAt r n c)
      ∧ ((∀ c ∈ x.cs, c ∈ cs) → (s.dropItems x.id cs).ctx? x.id = none)
      ∧ ∀ n, n ≠ x.id → (s.dropItems x.id cs).ctx? n = s.ctx? n

def Sys2Proof.Claims.SpansSplitAtTheirBranches : Prop :=
  ∀ (e : Ext) (s : State) (i : Issue) (p : EPred) (bound : Nat) (below : Bool), s.issue? = some i → i.place.count < 16 →
    i.ctx.kind = .span → i.ctx.pForm e.guard.toNat = .e p → (i.atEntry = true → i.ctx.staged = 0) →
    (∀ c ∈ i.ctx.cs, guardOf i p e.neg c = if coordOf i p c < bound then below else !below) →
    (∃ c ∈ i.ctx.cs, coordOf i p c < bound) → (∃ c ∈ i.ctx.cs, ¬ coordOf i p c < bound) →
    i.grp.length = i.ctx.items.length → i.ctx.split < 4 → 0 < s.freeSpans i.ctx.core →
    s.queueSpans i.ctx.core i.launch.slice i.launch.rcd.queue ≤ s.spanLimit i.launch.slice i.launch.rcd.queue →
    s.targetOf i (i.pc + e.imm.signExtend 64) = .ok → (∀ x ∈ s.ctxs, x.id < s.nextId) →
    let m := e.info 0 0 0 0
    let pc := i.pc + e.imm.signExtend 64
    ∃ u a b, exec (.bra e) s = .next u ∧ u = { s with ctxs := u.ctxs, nextId := s.nextId + 1 }
      ∧ u.ctx? i.ctx.id = some a ∧ u.ctx? s.nextId = some b ∧ (∀ n, n ≠ i.ctx.id → n ≠ s.nextId → u.ctx? n = s.ctx? n)
      ∧ Part s i e.guard.toNat m pc (i.ctx.cs.filter fun c => decide (coordOf i p c < bound)) below e.neg a
      ∧ Part s i e.guard.toNat m pc (i.ctx.cs.filter fun c => !decide (coordOf i p c < bound)) (!below) e.neg b
      ∧ a.place = i.ctx.place ∧ b.place = none

def Sys2Proof.Claims.MaterialisedSpansKeepEveryItem : Prop :=
  ∀ (s : State) (x : Ctx) (r : LaunchRec), (∀ y ∈ s.ctxs, y.id < s.nextId) → x.id < s.nextId →
    ∃ made, (s.materialise x r).ctxs = (s.ctxs.filter fun y => y.id != x.id) ++ made
      ∧ (made.flatMap Ctx.cs).Perm x.cs
      ∧ ∀ y ∈ made, PartOf r x y
        ∧ ((y.kind = .strand ∧ y.pending = none ∧ ∃ j, ∀ c ∈ y.cs, c / 64 = j) ∨ (y.id = x.id ∧ y.kind = x.kind ∧ y.pending.isSome))

/-- A span splits at a coordinate guard, and a materialised span keeps every item and value (R155, R184 to R187). -/
def Obligations.SpansSplitAndMaterialiseKeepingEveryItem : Prop :=
  Sys2Proof.Claims.SpansSplitAtTheirBranches ∧ Sys2Proof.Claims.MaterialisedSpansKeepEveryItem

def Sys2Proof.Claims.StatusRegistersTakeWhatIsWritten : Prop :=
  ∀ (e : Ext) (s : State) (i : Issue) (t : Item), Performs s (e.info 0 1 0 0) i → i.first = some t →
    (s.flagsDue i.ctx = false →
      ∃ u y z, exec (.wrs e) s = .next u ∧ OnlyCtx s i u z ∧ Wrote i (e.info 0 1 0 0) [] 0 y
        ∧ z = if e.mod = 0x13 then { y with fflags := (readLo s i (e.src e.a) t).setWidth 5 }
              else { y with fctl := (readLo s i (e.src e.a) t).setWidth 5 })
    ∧ (s.flagsDue i.ctx = true → exec (.wrs e) s = .next s)

/-- Moves, selections, 64-bit sums and products, conversions to and from integers, special registers and status writes
complete (R164, R168, R260; also R166, R170, R174, R213, R277). -/
def Obligations.MovesWideAndStatusInstructionsWriteResults : Prop :=
  Sys2Proof.Claims.MovesAndWideInstructionsWriteTheirResults ∧ Sys2Proof.Claims.StatusRegistersTakeWhatIsWritten

/-- A pair performs both of its slots on the registers as they stood (R41 to R44, R153). -/
def Obligations.PairsWriteBothResults : Prop :=
  ∀ (w : PairWord) (s : State) (i : Issue), Performs s (pairInfo w) i →
    (∀ t ∈ i.aff, (slotValue s i true w.span t).isSome) → (∀ t ∈ i.aff, (slotValue s i false w.strand t).isSome) →
    let cs := (s.slotCalc i true w.span).toList ++ (s.slotCalc i false w.strand).toList
    (∀ k ∈ cs, Calm i k) → (i.ctx.kind = .span → ∀ o ∈ cs.flatMap Calc.outs, o.isM i = false) →
    s.fits (i.written (pairInfo w) (cs.flatMap Calc.outs)) = true →
    ∃ u y, exec (.pair w) s = .next u ∧ OnlyCtx s i u y
      ∧ Wrote i (pairInfo w) [slotOut s i true w.span, slotOut s i false w.strand] (i.raised cs) y

namespace Sys2Proof.Claims

/-! ### Memory instructions -/

/-- A load: what it names, where its value goes, and whether one value serves the context (`ldq`, R325). -/
structure LoadRow where
  instr : Instr
  info : Meta
  form : MemForm
  d : BitVec 8
  uni : Bool

/-- The loads of the instruction set (R324, R325). -/
def loads (e : Ext) (w : BaseOps) (l : BaseLit) : List LoadRow :=
  [{ instr := .ld e, info := e.loadInfo, form := e.memForm (e.modBits 3 3), d := e.d, uni := false },
   { instr := .ldq e, info := e.ldqInfo, form := e.memForm (e.modBits 3 3), d := e.d, uni := true },
   { instr := .ldB32Base w, info := { w.info false with long := true }, form := w.memForm, d := w.d.setWidth 8, uni := false },
   { instr := .ldB32BaseLit l, info := { l.info false with long := true }, form := l.memForm, d := l.d.setWidth 8, uni := false },
   { instr := .ldqB32Base w, info := { w.info false with long := true }, form := w.memForm, d := w.d.setWidth 8, uni := true },
   { instr := .ldqB32BaseLit l, info := { l.info false with long := true }, form := l.memForm, d := l.d.setWidth 8, uni := true }]

/-- A store: what it names and the operand it stores (R326, R327). -/
structure StoreRow where
  instr : Instr
  info : Meta
  form : MemForm
  data : Src

/-- The stores of the instruction set. -/
def stores (e : Ext) (w : BaseOps) (l : BaseLit) : List StoreRow :=
  let f := e.memForm (e.modBits 3 3)
  [{ instr := .st e, info := uncut { e.info 0 (if f.a64 then 2 else 1) 1 (widthRegs f.w) with once := decide (2 ≤ f.ord) }, form := f,
     data := e.src e.c },
   { instr := .stB32Base w, info := storeInfo (w.info false), form := w.memForm, data := regSrc false w.d.toNat },
   { instr := .stB32BaseLit l, info := storeInfo (l.info false), form := l.memForm, data := regSrc false l.d.toNat }]

/-- The items whose accesses are made: the affected items, or the one with the lowest index for `ldq` (R325). -/
def whose (i : Issue) (uni : Bool) : List Item := if uni then i.first.toList else i.aff

/-- The results of a load of bytes: the words of its width, in registers from its destination up (R317). -/
def loadOuts (i : Issue) (d : BitVec 8) (w : Nat) (uni : Bool) (bytes : Item → List Byte) : List Out :=
  (List.range (widthRegs w)).map fun j =>
    let word (t : Item) : Word := (widthWords w (bytes t)).getD j 0
    { dst := codeDst d j, form := if uni then i.first.map fun t => .u (word t) else none,
      val := fun t => if uni then (i.first.map word).getD 0 else word t }

/-- A load's group may perform it as it stands: a span performs `ldq` alone, and into an x register for all its items (R320). -/
def mayLoad (i : Issue) (r : LoadRow) : Prop := i.ctx.kind = .span → r.uni = true ∧ (r.d.toNat < 128 → i.full = true)

/-- The outstanding operation of a load of an item (R49, R324): its result is to land in its registers. -/
structure LoadOp (s : State) (i : Issue) (r : LoadRow) (ps : List Piece) (t : Item) (o : Op) : Prop where
  of : o.core = i.ctx.core ∧ o.launch = i.ctx.launch ∧ o.cohort = i.ctx.cohort ∧ o.pc = i.pc ∧ o.flag = i.place.flag
  items : o.items = if r.uni then i.aff.map Item.c else [t.c]
  dst : o.dst = codeRegs r.d (widthRegs r.form.w)
  kind : o.kind = .load (ps.map fun p => (p.key, p.len)) r.form.w (r.form.hint == 1 || ps.any fun p => p.mt != 0)
    (if r.form.ord = 1 ∨ r.form.ord = 3 then some r.form.scope else none) r.uni
  va : o.va = .ofNat 64 (s.ea i r.form t)

/-- What the operations of a load that passes its checks are made of. -/
def checkedAt (s : State) (i : Issue) (f : MemForm) (ps : Item → List Piece) (t : Item) : Checked × List Piece :=
  ({ item := t, va := s.ea i f t, chk := .ok (ps t) }, ps t)

/-- The bytes an item stores, lowest first (R3, R317, R327). -/
def storeData (s : State) (i : Issue) (a : Src) (w : Nat) (t : Item) : List Byte :=
  match w with
  | 5 => leBytes 8 (readWide s i a false t).toNat
  | 6 => s.operandBytes i a 4 t
  | _ => (leBytes 4 (readLo s i a t).toNat).take (widthBytes w)

/-- The byte that the last of some stores leaves at a place, if one stores there. -/
def lastAt (cells : List (Nat × Byte)) (k : Nat) : Option Byte := (cells.reverse.find? fun c => c.1 == k).map Prod.snd

/-- A release need not wait (R346). -/
def Released (s : State) (i : Issue) (needs : Prop) (scope : Nat) : Prop :=
  needs → i.ctx.rel = none ∧ s.released i.ctx scope s.nextId = true

/-- The instruction's accesses go through the checks of R319 and find every byte; `drops` says that no value returns to it. Together they
fit the allowances of the groups that they leave by (R466). -/
def Reaches (s : State) (i : Issue) (f : MemForm) (a : Access) (aligned : Nat) (drops : Bool) (bad : Piece → Bool) (n : Nat)
    (ts : List Item) (ps : Item → List Piece) : Prop :=
  (∀ t ∈ ts, s.checkAccess i f.space (s.ea i f t) n t a aligned drops bad = .ok (ps t))
    ∧ s.crowded i.launch.slice (ts.flatMap fun t => (ps t).map fun p => (p.key, p.len)) = false

/-- A core's L1 takes dirty bytes of some lines with nothing in the way (R16): no set would hold more than eight lines, and the
dirty-line FIFO no more than 512. -/
def roomInL1 (s : State) (core : Nat) (lines : List Nat) : Prop :=
  (∀ n ∈ lines, (s.l1.filter fun l => l.core == core && l1Set l.line == l1Set n).length
      + (lines.filter fun k => l1Set k == l1Set n && (s.l1Line? core k).isNone).length ≤ 8)
    ∧ (s.l1.filter fun l => l.core == core && !l.dirty.isEmpty).length
      + (lines.filter fun k => (s.l1Line? core k).all fun l => l.dirty.isEmpty).length ≤ 512

/-- Of some lines of a core's L1 the clean bytes have been dropped, and nothing else of any L1 has changed (R331, R348). -/
def DroppedClean (s u : State) (core : Nat) (which : Nat → Bool) : Prop :=
  ∀ v, v ∈ u.l1 ↔ v.bytes ≠ [] ∧ ∃ w ∈ s.l1,
    v = if w.core = core ∧ which w.line = true then { w with bytes := w.bytes.filter fun b => w.dirty.contains b.1 } else w

/-- No bank holds a peer's line dirty (R100). -/
def peersClean (s : State) : Prop := ∀ v ∈ s.l2, linePeer v.line = true → v.dirty = false

/-- The operations that were outstanding still are; of a load the lines that it must not install may have grown (R100, R103), and what
its core has written over the lines that it waits for (R344). -/
def keepsOps (s u : State) : Prop := ∀ o ∈ s.ops, ∃ p ∈ u.ops, p = { o with nofill := p.nofill, cross := p.cross }

/-- The state after an issue with its marked registers read for the last time (R157). -/
def afterKills (s : State) (i : Issue) (m : Meta) : State := s.modCtx i.ctx.id fun x => x.kill (i.grp.map Item.c) m.marks

/-- The cores after an acquire (R348): one at `.dev` or wider is noted in its core. -/
def coresAfter (s : State) (core : Nat) (wide : Prop) [Decidable wide] : List CoreSt :=
  if wide then (s.setCore core fun c => { c with acq := s.nextId }).cores else s.cores

/-- The lines of the bytes of some items. -/
def linesAt (ts : List Item) (ps : Item → List Piece) : List Nat := ts.flatMap fun t => pieceLines (ps t)

/-- Bytes wait on their way to their home, and their item for the acknowledgement (R347). -/
def OnItsWay (s u : State) (b : Nat × Byte) (c : Nat) : Prop :=
  ((∃ w ∈ u.homeWrites, s.nextId ≤ w.id ∧ b ∈ w.cells) ∨ (∃ w ∈ u.xwrites, s.nextId ≤ w.id ∧ b ∈ w.cells))
    ∧ ∃ o ∈ u.ops, s.nextId ≤ o.id ∧ o.kind = .ack (homeOf b.1) ∧ o.items = [c]

/-! ### Requests to an atomic service unit -/

/-- An instruction that sends a request for each address (R332 to R340): the bytes it works on, the registers and bytes of
its result when it has one, and the request its items make. -/
structure AtomRow where
  instr : Instr
  info : Meta
  form : MemForm
  size : Nat
  result : Bool
  regs : Nat
  bad : Piece → Bool
  asks : State → Issue → AsuReq → Item → Prop

/-- The 32- or 64-bit value of an operand. -/
def atomValue (s : State) (i : Issue) (w64 : Bool) (a : Src) (t : Item) : DWord :=
  if w64 then readWide s i a false t else (readLo s i a t).setWidth 64

/-- `atom`, `red` and `cas128`. -/
def atomics (e : Ext) : List AtomRow :=
  let w64 := e.modBit 5
  let n := if w64 then 8 else 4
  let regs := if w64 then 2 else 1
  let base := if e.modBit 6 then 2 else 1
  let res := e.d != 0xC0
  let op (s : State) (i : Issue) (r : AsuReq) (t : Item) : Prop :=
    ∃ ops, r.kind = .atomic (e.modBits 0 4) (e.modBit 4) w64 (e.modBit 7) ops
      ∧ (t.c, atomValue s i w64 (e.src e.b) t, atomValue s i w64 (e.src e.c) t) ∈ ops
  let cas (s : State) (i : Issue) (r : AsuReq) (t : Item) : Prop :=
    ∃ ops, r.kind = .cas128 ops ∧ (t.c, s.operandBytes i (e.src e.b) 4 t, s.operandBytes i (e.src e.c) 4 t) ∈ ops
  [{ instr := .atom e, info := { e.info (if res then regs else 0) base regs regs with long := res, once := true, whole := !res },
     form := e.atomForm (e.modBit 6), size := n, result := res, regs := regs, bad := Piece.hostDevice, asks := op },
   { instr := .red e, info := { e.info 0 base regs 0 with once := true, whole := true },
     form := e.atomForm (e.modBit 6), size := n, result := false, regs := regs, bad := Piece.hostDevice, asks := op },
   { instr := .cas128 e, info := { e.info (if res then 4 else 0) base 4 4 with long := res, once := true, whole := !res },
     form := e.atomForm (e.modBit 6), size := 16, result := res, regs := 4, bad := fun p => Phys.isHost p.key, asks := cas }]

/-- An operation that a request leaves behind: a result to land in registers from an operand code up, or an acknowledgement or acquire
that no register waits for. -/
def asked (d : BitVec 8) (regs : Nat) (o : Op) : Prop :=
  (o.dst = codeRegs d regs ∨ o.dst = []) ∧ ((∃ h, o.kind = .ack h) ∨ ∃ k n a uni, o.kind = .atomic k n a uni)

/-- An atomic's new value (R336, R337): what stands in memory afterwards, none where a `cas` does not match. Operations 0 to
9; `old` is what memory held, `v` and `c` the operands. -/
def atomicNew (op : Nat) (uns : Bool) (n : Nat) (old v c : BitVec n) : Option (BitVec n) :=
  match op with
  | 0 => some (old + v)
  | 1 => some (if (if uns then v.toNat < old.toNat else v.toInt < old.toInt) then v else old)
  | 2 => some (if (if uns then old.toNat < v.toNat else old.toInt < v.toInt) then v else old)
  | 3 => some (old &&& v)
  | 4 => some (old ||| v)
  | 5 => some (old ^^^ v)
  | 6 => some v
  | 7 => if old = v then some c else none
  | 8 => some (if v.toNat ≤ old.toNat then 0 else old + 1)
  | _ => some (if old = 0 ∨ v.toNat < old.toNat then v else old - 1)

end Sys2Proof.Claims

open Sys2Proof Sys2Proof.Machine Sys2Proof.Claims

/-- Effective addresses, pieces and local addresses follow their operands (R314; also R316, R318). -/
def Obligations.AddressesFollowTheirOperands : Prop :=
  (∀ (s : State) (i : Issue) (f : MemForm) (t : Item),
    (f.a64 = false → (s.ea i f t : Int) = ((readLo s i f.base t).toNat + (readLo s i f.index t).toNat * f.scale + f.off) % 2 ^ 32)
    ∧ (f.a64 = true → (s.ea i f t : Int)
        = ((readWide s i f.base false t).toNat + (readLo s i f.index t).toNat * f.scale + f.off) % 2 ^ 64))
  ∧ (∀ va n : Nat, (piecesFrom n va n).flatMap (fun p => (List.range p.2).map (p.1 + ·)) = (List.range n).map (va + ·)
      ∧ ∀ p ∈ piecesFrom n va n, (p.2 = 1 ∨ p.2 = 2 ∨ p.2 = 4 ∨ p.2 = 8) ∧ p.1 % p.2 = 0)
  ∧ ∀ (r : LaunchRec) (k c c' off off' : Nat), linear r k c < r.nx * r.ny * r.nz → linear r k c' < r.nx * r.ny * r.nz →
      localVa r k c off = localVa r k c' off' → linear r k c = linear r k c' ∧ off = off'

def Sys2Proof.Claims.LoadsOfTheCoreWriteWhatTheyRead : Prop :=
  ∀ (e : Ext) (w : BaseOps) (l : BaseLit), ∀ r ∈ loads e w l, ∀ (s : State) (i : Issue) (bytes : Item → List Byte),
    Performs s r.info i → mayLoad i r →
    ((r.form.space = 5 ∧ ∀ t ∈ whose i r.uni, s.ea i r.form t % widthBytes r.form.w = 0
        ∧ bytes t = s.kBytes i.ctx (s.ea i r.form t) (widthBytes r.form.w))
      ∨ (2 ≤ r.form.space ∧ r.form.space < 5 ∧ s.acquiring i.ctx (i.grp.map Item.c) = false ∧ ∀ t ∈ whose i r.uni, ∃ a,
        s.checkShelf i r.form.space (s.ea i r.form t) (widthBytes r.form.w) false = .ok a ∧ (s.granAt a).state ≠ .filling
        ∧ bytes t = s.shelfRead a (widthBytes r.form.w))) →
    s.fits (i.written r.info (loadOuts i r.d r.form.w r.uni bytes)) = true →
    let acquires := r.form.space < 5 ∧ (r.form.ord = 1 ∨ r.form.ord = 3)
    ∃ u y z, exec r.instr s = .next u ∧ OnlyCtx { s with l1 := u.l1, cores := u.cores } i u z
      ∧ Wrote i r.info (loadOuts i r.d r.form.w r.uni bytes) 0 y ∧ u.cores = coresAfter s i.ctx.core (acquires ∧ 5 ≤ r.form.scope)
      ∧ z = { y with acq := if acquires ∧ 5 ≤ r.form.scope then s.nextId else y.acq }
      ∧ if acquires ∧ r.form.scope ≠ 0 ∧ r.form.scope ≠ 2 then DroppedClean s u i.ctx.core fun _ => true else u.l1 = s.l1

def Sys2Proof.Claims.LoadsOfMemoryWaitForTheirData : Prop :=
  ∀ (e : Ext) (w : BaseOps) (l : BaseLit), ∀ r ∈ loads e w l, ∀ (s : State) (i : Issue) (ps : Item → List Piece),
    Performs s r.info i → mayLoad i r → r.form.space < 2 → s.acquiring i.ctx (i.grp.map Item.c) = false →
    Reaches s i r.form .load 1 false (fun _ => false) (widthBytes r.form.w) (whose i r.uni) ps →
    (∀ t ∈ whose i r.uni, (ps t).any Piece.device = true → s.busyItem i.ctx t.c = false) →
    s.fitsFrom (afterKills (s.addLoads i r.form r.d r.uni ((whose i r.uni).map (checkedAt s i r.form ps))) i r.info) i.ctx.core = true →
    ∃ u y new, exec r.instr s = .next u ∧ OnlyCtx { s with ops := s.ops ++ new, nextId := u.nextId } i u y
      ∧ Wrote i r.info [] 0 y ∧ new.length = (whose i r.uni).length
      ∧ ∀ p ∈ (whose i r.uni).zip new, LoadOp s i r (ps p.1) p.1 p.2

/-- Loads of the constant bank and shelves complete at once; loads of memory become outstanding (R113, R317 to R325). -/
def Obligations.LoadsWriteWhatTheyReadOrWait : Prop :=
  Sys2Proof.Claims.LoadsOfTheCoreWriteWhatTheyRead ∧ Sys2Proof.Claims.LoadsOfMemoryWaitForTheirData

def Sys2Proof.Claims.StoresOfNormalTypeStayWithTheCore : Prop :=
  ∀ (e : Ext) (w : BaseOps) (l : BaseLit), ∀ r ∈ stores e w l, ∀ (s : State) (i : Issue) (ps : Item → List Piece),
    Performs s r.info i → r.form.space < 2 → s.acquiring i.ctx (i.grp.map Item.c) = false →
    s.reading i.ctx (i.grp.map Item.c) = false →
    Reaches s i r.form .store 1 true (fun _ => false) (widthBytes r.form.w) i.aff ps →
    (∀ t ∈ i.aff, ∀ p ∈ ps t, p.mt = 0) → r.form.hint ≠ 1 → s.atomicPending i.ctx (i.grp.map Item.c) (linesAt i.aff ps) = false →
    Released s i (r.form.ord = 2) r.form.scope →
    let cells := i.aff.flatMap fun t => storeBytes (ps t) (storeData s i r.data r.form.w t)
    (roomInL1 s i.ctx.core (linesOf cells) →
      ∃ u y, exec r.instr s = .next u ∧ OnlyCtx { s with l1 := u.l1, nextId := u.nextId } i u y ∧ Wrote i r.info [] 0 y
        ∧ ∀ core k clean, u.l1Byte core k clean
            = if core = i.ctx.core ∧ (lastAt cells k).isSome then lastAt cells k else s.l1Byte core k clean)
    ∧ (s.l1CanRoom i.ctx.core (linesAt i.aff ps) = true →
      ∃ u y, exec r.instr s = .next u
        ∧ u = { s with ctxs := u.ctxs, ops := u.ops, homeWrites := u.homeWrites, xwrites := u.xwrites, l1 := u.l1, l2 := u.l2,
                       l2err := u.l2err, poison := u.poison, ecc := u.ecc, host := u.host, regs := u.regs, fields := u.fields,
                       nextId := u.nextId }
        ∧ (peersClean s → u.host = s.host ∧ u.poison = s.poison ∧ u.ecc = s.ecc ∧ u.regs = s.regs)
        ∧ (∀ n, n ≠ i.ctx.id → u.ctx? n = s.ctx? n) ∧ u.ctx? i.ctx.id = some y ∧ Wrote i r.info [] 0 y ∧ keepsOps s u)

def Sys2Proof.Claims.OtherStoresLeaveForTheirHomes : Prop :=
  ∀ (e : Ext) (w : BaseOps) (l : BaseLit), ∀ r ∈ stores e w l, ∀ (s : State) (i : Issue) (ps : Item → List Piece),
    Performs s r.info i → r.form.space < 2 → s.acquiring i.ctx (i.grp.map Item.c) = false →
    s.reading i.ctx (i.grp.map Item.c) = false →
    Reaches s i r.form .store 1 true (fun _ => false) (widthBytes r.form.w) i.aff ps →
    ((∀ t ∈ i.aff, ∀ p ∈ ps t, p.mt ≠ 0) ∨ r.form.hint = 1) →
    (∀ t ∈ i.aff, (ps t).any Piece.device = true → s.busyItem i.ctx t.c = false) →
    s.atomicPending i.ctx (i.grp.map Item.c) (linesAt i.aff ps) = false → s.mayLeave i.ctx.core (linesAt i.aff ps) = true →
    Released s i (r.form.ord = 2) r.form.scope →
    ∃ u y, exec r.instr s = .next u
      ∧ u = { s with ctxs := u.ctxs, ops := u.ops, homeWrites := u.homeWrites, xwrites := u.xwrites, l1 := u.l1, l2 := u.l2,
                     l2err := u.l2err, poison := u.poison, ecc := u.ecc, host := u.host, regs := u.regs, fields := u.fields,
                     nextId := u.nextId }
      ∧ (peersClean s → u.host = s.host ∧ u.poison = s.poison ∧ u.ecc = s.ecc ∧ u.regs = s.regs)
      ∧ (∀ n, n ≠ i.ctx.id → u.ctx? n = s.ctx? n) ∧ u.ctx? i.ctx.id = some y ∧ Wrote i r.info [] 0 y
      ∧ keepsOps s u ∧ (∀ v ∈ s.homeWrites, v ∈ u.homeWrites) ∧ (∀ v ∈ s.xwrites, v ∈ u.xwrites)
      ∧ ∀ t ∈ i.aff, ∀ b ∈ storeBytes (ps t) (storeData s i r.data r.form.w t), OnItsWay s u b t.c

/-- Stores of normal type become dirty bytes of the core; others leave for their homes with an acknowledgement owed (R321,
R326, R327, R345, R347; log entry 13). -/
def Obligations.StoresStayWithTheCoreOrLeaveForTheirHomes : Prop :=
  Sys2Proof.Claims.StoresOfNormalTypeStayWithTheCore ∧ Sys2Proof.Claims.OtherStoresLeaveForTheirHomes

/-- A store to a shelf writes its bytes and makes an empty granule resident (R113, R327). -/
def Obligations.StoresToAShelfWriteItsBytes : Prop :=
  ∀ (e : Ext) (w : BaseOps) (l : BaseLit), ∀ r ∈ stores e w l, ∀ (s : State) (i : Issue) (a : Item → ShelfAt),
    Performs s r.info i → 2 ≤ r.form.space → s.shelf.wf = true → s.acquiring i.ctx (i.grp.map Item.c) = false →
    s.reading i.ctx (i.grp.map Item.c) = false →
    (∀ t ∈ i.aff, s.checkShelf i r.form.space (s.ea i r.form t) (widthBytes r.form.w) true = .ok (a t)
      ∧ (s.granAt (a t)).state ≠ .filling ∧ (s.granAt (a t)).holds = 0) →
    Released s i (r.form.ord = 2) r.form.scope →
    let cells := i.aff.flatMap fun t =>
      let bs := storeData s i r.data r.form.w t
      (List.range bs.length).map fun j => ((a t).key + j, bs.getD j 0)
    ∃ u y, exec r.instr s = .next u
      ∧ OnlyCtx { s with shelf := u.shelf, shelfPoison := u.shelfPoison, grans := u.grans } i u y ∧ Wrote i r.info [] 0 y
      ∧ (∀ k, u.shelf.read k = (lastAt cells k).getD (s.shelf.read k))
      ∧ ∀ t ∈ i.aff, (u.granAt (a t)).state = if (s.granAt (a t)).state = .empty then .resident else (s.granAt (a t)).state

/-- A release waits until what the core wrote before has been acknowledged for its scope (R346, R347). -/
def Obligations.ReleasesWaitForWhatTheCoreWrote : Prop :=
  (∀ (s : State) (i : Issue) (scope : Nat) (go : State → Act),
    (∀ r, i.ctx.rel = some r → r.pc = i.pc → ∃ t ∈ i.grp, t.c ∉ r.items) →
    s.releaseThen i scope go
      = if s.released i.ctx scope s.nextId then go (s.modCtx i.ctx.id fun y => { y with rel := none })
        else .set (({ s with nextId := s.nextId + 1 } : State).modCtx i.ctx.id fun y =>
          { y with rel := some { mark := s.nextId, pc := i.pc, lines := [], items := i.grp.map Item.c } }))
  ∧ (∀ (s : State) (i : Issue) (scope : Nat) (r : Rel) (go : State → Act), i.ctx.rel = some r → r.pc = i.pc →
    (∀ t ∈ i.grp, t.c ∈ r.items) →
    s.releaseThen i scope go
      = if s.released i.ctx scope r.mark then go (s.modCtx i.ctx.id fun y => { y with rel := none }) else .stall)
  ∧ ∀ (s : State) (x : Ctx) (scope mark : Nat), s.released x scope mark = true ↔
      ((scope ≠ 0 → scope ≠ 2 → ∀ l ∈ s.l1, l.core = x.core → l.dirty ≠ [] → mark ≤ l.order)
        ∧ ∀ o ∈ s.ops, o.core = x.core → ∀ h, o.kind = .ack h → scopeHomes scope (fieldOf x.core) h = false)

def Sys2Proof.Claims.FencesComplete : Prop :=
  ∀ (e : Ext) (s : State) (i : Issue), Performs s (uncut (e.info 0 0 0 0)) i →
    (e.modBits 3 2 ≠ 1 → Released s i True (e.modBits 0 3)) → (e.modBits 3 2 ≠ 2 → s.reading i.ctx i.ctx.cs = false) →
    ∃ u y z, exec (.fence e) s = .next u ∧ OnlyCtx { s with l1 := u.l1, cores := u.cores } i u z
      ∧ Wrote i (uncut (e.info 0 0 0 0)) [] 0 y ∧ u.cores = coresAfter s i.ctx.core (e.modBits 3 2 ≠ 2 ∧ 5 ≤ e.modBits 0 3)
      ∧ z = { y with acq := if e.modBits 3 2 ≠ 2 ∧ 5 ≤ e.modBits 0 3 then s.nextId else y.acq }
      ∧ if e.modBits 3 2 ≠ 2 ∧ e.modBits 0 3 ≠ 0 ∧ e.modBits 0 3 ≠ 2 then DroppedClean s u i.ctx.core fun _ => true else u.l1 = s.l1

def Sys2Proof.Claims.PrefetchesComplete : Prop :=
  ∀ (e : Ext) (s : State) (i : Issue),
    let m := uncut (e.info 0 (if (e.memForm 0).a64 then 2 else 1) 1 0)
    let w := s.prefetchWalks i (e.memForm 0)
    let full (t : Item) : Prop := w.checkAccess i (e.memForm 0).space (w.ea i (e.memForm 0) t) 1 t .load 1 false (fun _ => false) = .full
    let awaits := s.awaitsWalk i (i.aff.map (s.prefetchVa i (e.memForm 0)))
    Performs s m i → (awaits = true ∨ (∃ t ∈ i.aff, full t) → exec (.prf e) s = .next s)
      ∧ (awaits = false → (∀ t ∈ i.aff, ¬ full t) →
    ∃ u y, exec (.prf e) s = .next u ∧ u.ctx? i.ctx.id = some y ∧ Wrote i m [] 0 y
      ∧ (∀ n, n ≠ i.ctx.id → u.ctx? n = s.ctx? n)
      ∧ u.mem = s.mem ∧ u.shelf = s.shelf ∧ u.grans = s.grans ∧ u.homeWrites = s.homeWrites ∧ u.xwrites = s.xwrites ∧ u.asu = s.asu
      ∧ u.copies = s.copies ∧ u.faults = s.faults ∧ u.groups = s.groups ∧ u.launches = s.launches ∧ u.cohorts = s.cohorts
      ∧ (∃ new, u.ops = s.ops ++ new ∧ ∀ o ∈ new, o.items = [] ∧ o.dst = [])
      ∧ ∀ w ∈ s.l1, (w.core ≠ i.ctx.core ∨ w.dirty ≠ [] ∧ ∀ v ∈ s.l1, v.core = w.core → v.line = w.line → v = w) → w ∈ u.l1)

def Sys2Proof.Claims.CacheControlsComplete : Prop :=
  ∀ (e : Ext) (s : State) (i : Issue),
    let m := uncut (e.info 0 (if e.a == 0xFF then 0 else if e.modBit 3 then 2 else 1) 0 0)
    let lines := linesOf ((i.aff.filterMap fun t => s.whereIs i (s.ea i (e.atomForm (e.modBit 3)) t)).map fun k => (k, 0))
    let clean (ns : List Nat) : Prop := (∀ n ∈ ns, ∀ v, s.l1Line? i.ctx.core n = some v → v.dirty = []) ∧ s.writePending i.ctx.core ns = false
    Performs s m i → (∀ r, i.ctx.rel = some r → r.pc ≠ i.pc) → (e.modBits 0 3 < 2 → clean lines) →
    (e.modBits 0 3 < 2 ∨ e.modBits 0 3 = 4 → s.awaitsWalk i (i.aff.map (s.ea i (e.atomForm (e.modBit 3)))) = false) →
    (e.modBits 0 3 = 3 → ∀ v ∈ s.l1, v.core = i.ctx.core → v.dirty = []) →
    ∃ u y, exec (.cctl e) s = .next u ∧ Wrote i m [] 0 y
      ∧ OnlyCtx { s with l1 := u.l1, l2 := u.l2, l2err := u.l2err, poison := u.poison, ecc := u.ecc, host := u.host, regs := u.regs } i u y
      ∧ (e.modBits 0 3 < 4 → u.l2 = s.l2 ∧ u.l2err = s.l2err ∧ u.poison = s.poison ∧ u.ecc = s.ecc ∧ u.host = s.host ∧ u.regs = s.regs)
      ∧ (e.modBits 0 3 = 0 ∨ 3 ≤ e.modBits 0 3 → u.l1 = s.l1)
      ∧ (e.modBits 0 3 = 1 → DroppedClean s u i.ctx.core lines.contains)
      ∧ (e.modBits 0 3 = 2 → u.l1 = s.l1.filter fun v => !(v.core == i.ctx.core && v.dirty.isEmpty))
      ∧ (4 ≤ e.modBits 0 3 → (∀ n ∈ lines, u.l2Line? (sliceOf i.ctx.core) n = none)
          ∧ (∀ v ∈ u.l2, v ∈ s.l2) ∧ ∀ v ∈ s.l2, v.line ∉ lines → v ∈ u.l2)

/-- fence, prf and cctl complete: an acquiring fence drops the core's clean bytes, a prefetch writes no memory and faults nothing, and
cache control drops or keeps the lines it names (R329, R331, R361, R362). -/
def Obligations.FencesAndCacheControlsComplete : Prop :=
  Sys2Proof.Claims.FencesComplete ∧ Sys2Proof.Claims.PrefetchesComplete ∧ Sys2Proof.Claims.CacheControlsComplete

def Sys2Proof.Claims.AtomicsSendARequestForEachAddress : Prop :=
  ∀ (e : Ext), ∀ r ∈ atomics e, ∀ (s : State) (i : Issue) (ps : Item → List Piece),
    Performs s r.info i → (r.result = true → i.ctx.kind ≠ .span) → s.acquiring i.ctx (i.grp.map Item.c) = false →
    s.reading i.ctx (i.grp.map Item.c) = false → Reaches s i r.form .atomic r.size (!r.result) r.bad r.size i.aff ps →
    (∀ t ∈ i.aff, ps t ≠ []) →
    (∀ n ∈ linesAt i.aff ps, s.l1Line? i.ctx.core n = none) →
    (∀ n, s.queued n = 0 ∨ s.queued n + i.aff.length ≤ 256) → (∀ t ∈ i.aff, (ps t).any Piece.device = true → s.busyItem i.ctx t.c = false) →
    s.mayLeave i.ctx.core (linesAt i.aff ps) = true → Released s i (r.form.ord = 2 ∨ r.form.ord = 3) r.form.scope →
    (∀ new, new.length ≤ 2 * i.aff.length → (∀ o ∈ new, asked e.d r.regs o) →
      s.fitsFrom (afterKills { s with ops := s.ops ++ new } i r.info) i.ctx.core = true) →
    ∃ u y new, exec r.instr s = .next u
      ∧ u = { s with ctxs := u.ctxs, ops := u.ops, asu := s.asu ++ new, l2 := u.l2, l2err := u.l2err, poison := u.poison,
                     ecc := u.ecc, host := u.host, regs := u.regs, fields := u.fields, nextId := u.nextId }
      ∧ (peersClean s → u.host = s.host ∧ u.poison = s.poison ∧ u.ecc = s.ecc ∧ u.regs = s.regs) ∧ keepsOps s u
      ∧ (∀ n, n ≠ i.ctx.id → u.ctx? n = s.ctx? n) ∧ u.ctx? i.ctx.id = some y ∧ Wrote i r.info [] 0 y
      ∧ (∀ t ∈ i.aff, ∃ q ∈ new, q.items.contains t.c = true ∧ ((ps t).map Piece.key).head? = some q.key ∧ q.waiting = false
          ∧ q.core = i.ctx.core ∧ q.launch = i.ctx.launch ∧ q.cohort = i.ctx.cohort ∧ r.asks s i q t
          ∧ (r.result = true → ∃ o ∈ u.ops, q.ops.contains o.id = true ∧ o.items = [t.c] ∧ o.dst = codeRegs e.d r.regs
              ∧ o.flag = i.place.flag))
      ∧ (new.flatMap AsuReq.items).Perm (i.aff.map Item.c)

def Sys2Proof.Claims.AtomicValuesFollowTheirOperations : Prop :=
  (∀ op < 10, ∀ uns ftz (old v c : Word),
    (asuValue op uns false ftz old.toNat v.toNat c.toNat).1 = (atomicNew op uns 32 old v c).map BitVec.toNat)
  ∧ (∀ op < 10, ∀ uns ftz (old v c : DWord),
    (asuValue op uns true ftz old.toNat v.toNat c.toNat).1 = (atomicNew op uns 64 old v c).map BitVec.toNat)
  ∧ ∀ (k : AsuKind) (bs : List Byte), (asuRun k bs).2.1 = false → (asuRun k bs).1 = bs

/-- atom, red and cas128 send one request for each address, and the owner computes the new value (R320, R333, R336, R337,
R339). -/
def Obligations.AtomicsSendRequestsThatUpdateMemory : Prop :=
  Sys2Proof.Claims.AtomicsSendARequestForEachAddress ∧ Sys2Proof.Claims.AtomicValuesFollowTheirOperations

/-- Accesses outside their space, misaligned or on a wrong granule fault their items (R313, R318, R319). -/
def Obligations.AccessesThatFailAreRecorded : Prop :=
  (∀ (s : State) (i : Issue) (space va n : Nat) (t : Item) (a : Access) (aligned : Nat) (drops : Bool) (bad : Piece → Bool),
    (space = 0 ∧ 2 ^ 48 ≤ va ∨ space = 1 ∧ i.launch.rcd.lsize < va + n → s.checkAccess i space va n t a aligned drops bad = .fault 0x05)
    ∧ (¬(space = 0 ∧ 2 ^ 48 ≤ va ∨ space = 1 ∧ i.launch.rcd.lsize < va + n) → va % aligned ≠ 0 →
        s.checkAccess i space va n t a aligned drops bad = .fault 0x03))
  ∧ (∀ (s : State) (i : Issue) (space addr n : Nat) (store : Bool),
    (addr % n ≠ 0 → s.checkShelf i space addr n store = .error 0x03)
    ∧ (addr % n = 0 → s.shelfAt i.ctx i.launch.rcd (space - 1) addr n = none → s.checkShelf i space addr n store = .error 0x05)
    ∧ ∀ a, addr % n = 0 → s.shelfAt i.ctx i.launch.rcd (space - 1) addr n = some a →
      (store = true → space = 2 → s.checkShelf i space addr n store = .error 0x07)
      ∧ (store = false → (s.granAt a).state = .empty → s.checkShelf i space addr n store = .error 0x07)
      ∧ (store = false → (s.granAt a).state = .resident → s.shelfBad a n = true → s.checkShelf i space addr n store = .error 0x0A))
  ∧ ∀ (e : Ext) (w : BaseOps) (l : BaseLit) (s : State) (i : Issue),
      let chk (f : MemForm) (a : Access) (t : Item) : Chk :=
        s.checkAccess i f.space (s.ea i f t) (widthBytes f.w) t a 1 (a == .store) fun _ => false
      let failed (f : MemForm) (a : Access) (t : Item) : Checked := { item := t, va := s.ea i f t, chk := chk f a t }
      (∀ r ∈ loads e w l, Performs s r.info i → r.uni = false → i.ctx.kind ≠ .span → r.form.space < 2 →
        s.acquiring i.ctx (i.grp.map Item.c) = false → (∃ t ∈ i.aff, (chk r.form .load t).cause.isSome) →
        exec r.instr s = .next (s.faultChecked i ((i.aff.map (failed r.form .load)).filter fun c => c.chk.cause.isSome)))
      ∧ ∀ r ∈ stores e w l, Performs s r.info i → i.ctx.kind ≠ .span → r.form.space < 2 →
        s.acquiring i.ctx (i.grp.map Item.c) = false → s.reading i.ctx (i.grp.map Item.c) = false →
        (∃ t ∈ i.aff, (chk r.form .store t).cause.isSome) →
        exec r.instr s = .next (s.faultChecked i ((i.aff.map (failed r.form .store)).filter fun c => c.chk.cause.isSome))

namespace Sys2Proof.Claims

/-! ### Data that arrives -/

/-- Local memory after writes of bytes: the last at each place stands there. -/
def Performed (s u : State) (cells : List (Nat × Byte)) : Prop :=
  ∀ k, Phys.isLocal k = true → u.mem.read k = (lastAt cells k).getD (s.mem.read k)

/-- The context has become `y` as an operation's words landed in the registers of its items, and nothing else of the context has
changed but its flags, those that its items' region entries record, and the limit that an acquire sets (R323, R325, R334, R338). -/
structure Landed (o : Op) (r : LaunchRec) (uni : Bool) (words : List Word) (fl : BitVec 5) (x y : Ctx) : Prop where
  same : y = { x with x := y.x, q := y.q, fflags := x.fflags ||| fl, acq := y.acq,
                      items := x.items.map fun t => if o.items.contains t.c then
                        { t with entry := { t.entry with fflags := t.entry.fflags ||| fl } } else t }
  xs : ∀ (j n : Nat) (v : Word), o.dst[j]? = some (RegRef.x n) → words[j]? = some v → ∀ c ∈ x.cs, c ∈ o.items → y.xAt r n c = v
  qs : ∀ (j n : Nat) (v : Word), o.dst[j]? = some (RegRef.q n) → words[j]? = some v → ∀ c ∈ x.cs, y.qAt n c = v
  xKept : ∀ n, ∀ c ∈ x.cs, (RegRef.x n ∉ o.dst ∨ c ∉ o.items) → y.xAt r n c = x.xAt r n c
  qKept : ∀ n, RegRef.q n ∉ o.dst → ∀ c ∈ x.cs, y.qAt n c = x.qAt n c

/-- Each context stands under its own number, and none that an operation serves is a span. -/
def strandsOnly (s : State) (o : Op) : Prop := ∀ x ∈ s.ctxs, s.ctx? x.id = some x ∧ (o.serves x = true → x.kind ≠ .span)

/-- The byte that a load takes: the core's own where it holds one it may use, else what the home gives (R325, R345); clean bytes only
where the core holds every byte that it reads of the line (R355), and not for an acquire at `.grp` or wider (R348). -/
def takes (s : State) (o : Op) (acq : Option Nat) (k : Nat) : Byte :=
  let mine := match acq with
    | some n => decide (n = 0 ∨ n = 2)
    | none => true
  let whole := o.parts.all fun p => lineOf p.1 != lineOf k || (List.range p.2).all fun j => (s.l1Byte o.core (p.1 + j) mine).isSome
  (s.l1Byte o.core k (mine && whole)).getD (s.homeByte (sliceOf o.core) k)

/-- No error waits that a read could not correct (R83, R105). -/
def errorsMendable (s : State) : Prop := (∀ e ∈ s.ecc, e.2 = false) ∧ ∀ e ∈ s.l2err, e.2 = false

/-- The state after a group's instruction that has changed something else goes on: its marks kill and its items move. -/
def goesOn (u : State) (i : Issue) (m : Meta) : State := (u.modCtx i.ctx.id fun x => x.kill (i.grp.map Item.c) m.marks).advance i m

/-- The handle an item names (R366). -/
def handleAt (s : State) (i : Issue) (e : Ext) (t : Item) : Word := readLo s i (e.src e.a) t

/-- A span names one handle or one address for all its items (13). -/
def oneForAll (s : State) (i : Issue) (a : Src) : Prop := i.ctx.kind = .span → ∃ v, s.src32 i.ctx i.launch.rcd a = .u v

/-! ### Requests on barriers and signals -/

/-- An instruction on a barrier or a signal (R372 to R383): whether it releases, whether it reads the object, its bytes, the room it
keeps for a status, the wait of its items, and the request. -/
structure ObjRow where
  instr : Instr
  info : Meta
  size : Nat
  rel : Bool
  reads : Bool
  keeps : Issue → Ctx → Ctx := fun _ x => x
  wait : State → Issue → AsuReq → Option Wait
  asks : State → Issue → AsuReq → Item → Prop

def objects (e : Ext) : List ObjRow :=
  let base := if e.modBit 0 then 2 else 1
  let b (s : State) (i : Issue) (t : Item) : Word := readLo s i (e.src e.b) t
  let keeps (i : Issue) (x : Ctx) : Ctx := x.reserveP i e.d (decide (i.aff.length ≤ 1))
  [{ instr := .barinit e, info := { e.info 0 base 1 0 with once := true, whole := true }, size := 64, rel := true, reads := false,
     wait := fun _ _ _ => none, asks := fun s i q _ => ∃ t ∈ i.aff, t.c ∈ q.items ∧ q.kind = .barinit (b s i t).toNat },
   { instr := .barr e, info := { e.info (if e.d != 0xC0 then 1 else 0) base 0 0 with once := true, whole := true }, size := 64, rel := true,
     reads := true, wait := fun _ _ _ => none, asks := fun _ _ q _ => q.kind = .barr q.items.length },
   { instr := .barw e, info := { e.info 0 base 1 0 with once := true, whole := true }, size := 64, rel := false, reads := true,
     keeps := keeps, wait := fun _ _ q => some (.barw q.id),
     asks := fun s i q t => ∃ toks, q.kind = .barw toks e.d e.scope ∧ (t.c, b s i t) ∈ toks },
   { instr := .sigs e, info := { e.info 0 base 1 0 with once := true, whole := true }, size := 16, rel := true, reads := true,
     wait := fun _ _ _ => none,
     asks := fun s i q _ => q.kind = .sigs (((i.aff.filter fun t => q.items.contains t.c).map (b s i)).foldl (· + ·) 0) },
   { instr := .sigw e, info := { e.info 0 base 1 0 with once := true, whole := true }, size := 16, rel := false, reads := true,
     keeps := keeps, wait := fun s i q => some (.sigw q.id (s.clock + s.fieldClocks (fieldOf i.ctx.core) (2 ^ i.launch.rcd.barLog))),
     asks := fun s i q t => ∃ vals, q.kind = .sigw vals e.d e.scope ∧ (t.c, b s i t) ∈ vals }]

end Sys2Proof.Claims

open Sys2Proof Sys2Proof.Machine Sys2Proof.Claims

/-- Write-backs, home writes, invalidations, acknowledgements and cross-field writes move bytes to memory (R101, R102, R345,
R347, R351). -/
def Obligations.WritesReachTheirHomes : Prop :=
  (∀ (s : State) (core line : Nat) (v : L1Line), s.l1Line? core line = some v → s.mayWriteBack v = true → v.bytes ≠ [] →
    ∃ u, exec (.l1WriteBack core line) s = .next u ∧ u.mem = s.mem ∧ (peersClean s → u.host = s.host) ∧ u.ctxs = s.ctxs
      ∧ (u.l1Line? core line).map L1Line.dirty = some []
      ∧ ∀ b ∈ v.bytes, b.1 ∈ v.dirty → (∃ w ∈ u.homeWrites, s.nextId ≤ w.id ∧ (line * 128 + b.1, b.2) ∈ w.cells)
          ∨ ∃ w ∈ u.xwrites, s.nextId ≤ w.id ∧ (line * 128 + b.1, b.2) ∈ w.cells)
  ∧ (∀ (s : State) (core line : Nat) (v : L1Line), s.l1Line? core line = some v → v.core = core → v.line = line → v.dirty = [] →
    ∃ u, exec (.l1CleanLineExpiry core line) s = .next u ∧ u = { s with l1 := u.l1 } ∧ u.l1Line? core line = none
      ∧ ∀ c n, (c, n) ≠ (core, line) → u.l1Line? c n = s.l1Line? c n)
  ∧ (∀ (s : State) (w : HomeWrite), s.homeWrites.find? (fun v => v.id == w.id && !v.sent) = some w → s.firstAtHome w = true →
    lineLocal w.line = true → s.mem.wf = true →
    ((s.dirEntry w.line).isNone → ∃ u, exec (.homeWrite w.id) s = .next u ∧ Performed s u w.cells ∧ u.ctxs = s.ctxs
        ∧ (w.peer = true → u.resp = some .ok)
        ∧ u.homeWrites = s.homeWrites.filter (fun v => v.id != w.id)
        ∧ ∀ o ∈ u.ops, ∀ n, w.ack = some n → o.acks n = true → o.back.isSome)
    ∧ ((s.dirEntry w.line).isSome → exec (.homeWrite w.id) s
        = .next { s with homeWrites := updWhere (fun v => v.id == w.id) (fun v => { v with sent := true }) s.homeWrites }))
  ∧ (∀ (s : State) (w : HomeWrite), s.homeWrites.find? (fun v => v.id == w.id && v.sent && lineLocal v.line) = some w →
    s.mem.wf = true → s.holdersParked w.line = false → ∃ u, exec (.invalidationAcksDone w.id) s = .next u ∧ Performed s u w.cells ∧ u.dirEntry w.line = none
      ∧ u.homeWrites = s.homeWrites.filter fun v => v.id != w.id)
  ∧ (∀ (s : State) (slice line : Nat), linePeer line = true → ∃ u, exec (.holderInvalidation slice line) s = .next u
      ∧ u = { s with ops := u.ops, l2 := u.l2, l2err := u.l2err, poison := u.poison, host := u.host, regs := u.regs, resp := some .ok }
      ∧ (peersClean s → u.host = s.host ∧ u.poison = s.poison ∧ u.regs = s.regs) ∧ keepsOps s u
      ∧ (∀ v, v ∈ u.l2 ↔ v ∈ s.l2 ∧ ¬(v.slice = slice ∧ v.line = line))
      ∧ ∀ p ∈ u.ops, ∀ parts w noL1 acq uni, p.kind = .load parts w noL1 acq uni → sliceOf p.core = slice →
          (∃ q ∈ parts, lineOf q.1 = line) → line ∈ p.nofill)
  ∧ (∀ (s : State) (o : Op) (h : Home), s.ops.find? (fun p => p.id == o.id) = some o → o.kind = .ack h →
    ∃ u, exec (.writeAcknowledgement o.id true) s = .next u ∧ u.mem = s.mem ∧ u.ctxs = s.ctxs
      ∧ (h ≠ .peer → o.back.isSome → u = { s with ops := s.ops.filter (fun p => p.id != o.id), fields := u.fields })
      ∧ (h = .peer → u.homeWrites = s.homeWrites.filter (fun w => w.ack != some o.issue)
          ∧ u.asu = s.asu.filter (fun r => r.issue != o.issue) ∧ (∀ p ∈ u.ops, p.id ≠ o.id)
          ∧ ∀ p ∈ s.ops, p.id ≠ o.id → ∃ q ∈ u.ops, q = { p with nofill := q.nofill }))
  ∧ (∀ (s : State) (w : XWrite) (c : Nat × Byte) (rest : List (Nat × Byte)), s.xwrites.find? (fun v => v.id == w.id) = some w →
    s.mayApply w.src w.dst w.seq w.stamp = true → w.cells = c :: rest → s.mem.wf = true → s.dirEntry (lineOf c.1) = none →
    (∀ v ∈ s.homeWrites, v.line ≠ lineOf c.1) →
    ∃ u, exec (.crossFieldWriteApply w.id) s = .next u ∧ Performed s u w.cells ∧ u.xwrites = s.xwrites.filter fun v => v.id != w.id)
  ∧ ∀ (s : State) (src dst : Nat), s.beaconDue src dst = true → dst < s.fields.length →
      src < (s.fields.getD dst FieldSt.reset).seen.length →
      ∃ u, exec (.fieldBeacon src dst) s = .next u ∧ u = { s with fields := u.fields }
        ∧ (u.fields.getD dst FieldSt.reset).seen.getD src 0 = (s.fields.getD src FieldSt.reset).vc.getD src 0

/-- Landing loads and atomics write what memory held, and failed answers fault their items (R323 to R325, R334, R337, R471). -/
def Obligations.LoadsReturnWhatMemoryHolds : Prop :=
  (∀ (s : State) (o : Op) (l : Launch) parts w noL1 acq uni, s.ops.find? (fun p => p.id == o.id) = some o →
    o.kind = .load parts w noL1 acq uni → s.launch? o.launch = some l → s.mayLand o = true → s.loadBad o = false → errorsMendable s →
    o.cross = [] → (∀ p ∈ parts, ∀ j < p.2, Phys.isPeer (p.1 + j) = false) → strandsOnly s o → o.dst.Nodup →
    ∃ u, exec (.loadDataLanding o.id .home) s = .next u ∧ u.ops = s.ops.filter (fun p => p.id != o.id) ∧ u.mem = s.mem
      ∧ (∀ x ∈ s.ctxs, o.serves x = false → u.ctx? x.id = some x)
      ∧ ∀ x ∈ s.ctxs, o.serves x = true → ∃ y, u.ctx? x.id = some y
          ∧ Landed o l.rcd uni (widthWords w (parts.flatMap fun p => (List.range p.2).map fun j => takes s o acq (p.1 + j))) 0 x y)
  ∧ (∀ (s : State) (o : Op) parts w noL1 acq uni (a : Answer) (cause : Nat), s.ops.find? (fun p => p.id == o.id) = some o →
    o.kind = .load parts w noL1 acq uni → o.remote = true →
    (a, cause) ∈ [(Answer.refused, 0x05), (.linkDown, 0x0C), (.linkParked, 0x0B), (.poison, 0x0A)] →
    exec (.loadDataLanding o.id a) s = .next (s.landFault o uni cause))
  ∧ (∀ (s : State) (r : AsuReq), s.asu.find? (fun q => q.id == r.id) = some r → s.asuReady r = true → r.key + r.size ≤ 2 ^ 40 →
    s.dirEntry (lineOf r.key) = none → r.stamp = [] → s.poisoned r.key r.size = false → errorsMendable s →
    s.path (sliceOf r.core) r.key 0 = .up → s.mem.wf = true → r.ops.Nodup →
    ((∃ op uns w64 ftz ops, r.kind = .atomic op uns w64 ftz ops) ∨ ∃ ops, r.kind = .cas128 ops ∧ ∀ v ∈ ops, v.2.2.length = 16) →
    let done := asuRun r.kind ((List.range r.size).map fun j => s.mem.read (r.key + j))
    ∃ u, exec (.asuRequest r.id) s = .next u ∧ u.asu = s.asu.filter (fun q => q.id != r.id) ∧ u.ctxs = s.ctxs
      ∧ (∀ k, Phys.isLocal k = true → u.mem.read k = if r.key ≤ k ∧ k < r.key + r.size then done.1.getD (k - r.key) 0 else s.mem.read k)
      ∧ ∀ q ∈ r.ops.zip done.2.2, ∀ o ∈ u.ops, o.id = q.1 → o.acks r.issue = false → o.back = some q.2.1 ∧ o.fl = q.2.2)
  ∧ (∀ (s : State) (o : Op) (l : Launch) key bytes acq uni bs, s.ops.find? (fun p => p.id == o.id) = some o →
    o.kind = .atomic key bytes acq uni → Phys.isPeer key = false → o.back = some bs → bs.length ≠ 1 → s.launch? o.launch = some l →
    strandsOnly s o → o.dst.Nodup →
    (∀ x ∈ s.ctxs, o.serves x = true → x.fctl &&& o.fl = 0) →
    ∃ u, exec (.atomicResultLanding o.id .home) s = .next u ∧ u.ops = s.ops.filter (fun p => p.id != o.id) ∧ u.mem = s.mem
      ∧ ∀ x ∈ s.ctxs, if o.serves x then ∃ y, u.ctx? x.id = some y
          ∧ Landed o l.rcd uni (widthWords (if bytes = 16 then 6 else if bytes = 8 then 5 else 4) bs) (if o.dst = [] then 0 else o.fl) x y
        else u.ctx? x.id = some x)
  ∧ ∀ (s : State) (o : Op) parts w noL1 acq uni n, s.ops.find? (fun p => p.id == o.id) = some o → o.kind = .load parts w noL1 acq uni →
      o.parkedAt = some n → let t : State := { s with clock := max s.clock (n + millis 40) }
      exec (.parkedAccessTimeout o.id) s = .next (if t.parkedLong o n then t.landFault o uni 0x0B else s)

/-- gnew, gjoin, gleave and gfree make, fill, empty and free group records (R366 to R371, R378, R379). -/
def Obligations.GroupsAreMadeJoinedAndFreed : Prop :=
  (∀ (e : Ext) (s : State) (i : Issue) (h : Word), let m := uncut { e.info 1 0 0 0 with once := true }
    let out : Out := { dst := dstOf e.d, form := some (.u h), val := fun _ => h }
    Performs s m i → (i.ctx.kind = .span → out.isM i = false) → s.fits (i.written m [out]) = true →
    (∀ n, s.freeSlot i.ctx.core = some n → h = (s.newRecord i.ctx n).1.handle →
      ∃ u y g, exec (.gnew e) s = .next u ∧ OnlyCtx { s with groups := s.groups ++ [g], grpGens := u.grpGens } i u y
        ∧ Wrote i m [out] 0 y ∧ g.core = i.ctx.core ∧ g.slot = n ∧ g.launch = i.ctx.launch ∧ g.members = [] ∧ g.handle = h)
    ∧ (s.freeSlot i.ctx.core = none → h = -1 → ∃ u y, exec (.gnew e) s = .next u ∧ OnlyCtx s i u y ∧ Wrote i m [out] 0 y))
  ∧ (∀ (e : Ext) (s : State) (i : Issue) (g : Item → GroupRec), let m := uncut (e.info 0 1 0 0)
    Performs s m i → oneForAll s i (e.src e.a) → (∀ t ∈ i.aff, s.group? i.ctx (handleAt s i e t) = some (g t)) →
    let z := s.reachGroups i.ctx.core (i.aff.map fun t => ((g t).ref, t.c))
    ((∀ t ∈ i.aff, i.ctx.key t.c ∈ (g t).members ∨ t.groups.length < 8) →
      exec (.gjoin e) s = .next (goesOn (i.aff.foldl (fun u t => u.joinRecord i.ctx t (g t)) z) i m))
    ∧ exec (.gleave e) s = .next (goesOn (i.aff.foldl
        (fun u t => if (g t).members.contains (i.ctx.key t.c) then u.leaveRecord (g t) (i.ctx.key t.c) else u) z) i m))
  ∧ (∀ (s : State) (core : Nat) (gs : List (GroupRef × Nat)), let u := s.reachGroups core gs
    u = { s with clock := u.clock, groups := u.groups, cohorts := u.cohorts } ∧ s.clock ≤ u.clock
      ∧ ∀ g, (u.phase? g).map (fun p => { p with last := (0, 0) }) = (s.phase? g).map fun p => { p with last := (0, 0) })
  ∧ (∀ (e : Ext) (s : State) (i : Issue) (t : Item) (g : GroupRec), let m := uncut { e.info 0 1 0 0 with once := true }
    Performs s m i → oneForAll s i (e.src e.a) → i.first = some t → s.group? i.ctx (handleAt s i e t) = some g →
    exec (.gfree e) s = .next (goesOn ((s.reachGroup g.ref i.ctx.core t.c).freeRecord g) i m))
  ∧ (∀ (s : State) (x : Ctx) (t : Item) (g : GroupRec), s.ctx? x.id = some x → s.record? g.core g.slot = some g → g.phase.arrived = [] →
    x.key t.c ∉ g.members → ∃ u y q, s.joinRecord x t g = u ∧ u = { s with ctxs := u.ctxs, groups := u.groups } ∧ u.ctx? x.id = some y
      ∧ u.record? g.core g.slot = some q ∧ q.members = g.members ++ [x.key t.c]
      ∧ y.items = x.items.map fun v => if v.c == t.c then { v with groups := v.groups ++ [g.handle] } else v)
  ∧ ∀ (s : State) (g : GroupRec), (s.freeRecord g).record? g.core g.slot = none
      ∧ ∀ x ∈ (s.freeRecord g).ctxs, x.launch = g.launch → ∀ t ∈ x.items, g.handle ∉ t.groups

/-- bar waits for its group and wakes it; barinit, barr, barw, sigs and sigw send their requests (R371 to R384). -/
def Obligations.BarriersAndObjectsTakeTheirRequests : Prop :=
  (∀ (e : Ext) (s : State) (i : Issue) (g : Item → GroupRef), let m := uncut { e.info 0 1 0 0 with once := true }
    Performs s m i → oneForAll s i (e.src e.a) → (i.ctx.kind = .span → e.d.toNat < 96 → i.full = true) →
    (∀ t ∈ i.aff, s.barGroup i.ctx t.c (handleAt s i e t) = some (g t)) → Released s i True 1 →
    let one := i.aff.tail.all fun t => i.aff.head?.all fun u => handleAt s i e t == handleAt s i e u
    s.fitsFrom ((afterKills s i m).modCtx i.ctx.id fun x => x.reserveP i e.d one) i.ctx.core = true →
    ∃ z y, exec (.bar e) s = .next (i.aff.foldl (fun u t => u.arrive (g t) (i.ctx.key t.c)) z)
      ∧ OnlyCtx { s with clock := z.clock, groups := z.groups, cohorts := z.cohorts } i z y ∧ WroteP i m [] 0 y
      ∧ ∀ t ∈ i.aff, ∃ v ∈ y.items, v.c = t.c ∧ v.wait = .bar (g t) (handleAt s i e t) e.d)
  ∧ (∀ (s : State) (g : GroupRef) (k : ItemKey) (p : Phase), s.phase? g = some p → p.broken = false →
    let now := if p.arrived.contains k then p.arrived else p.arrived ++ [k]
    let q : Phase := { p with arrived := now, since := some (p.since.getD s.clock) }
    ((∃ v ∈ s.membersOf g, v ∉ now) → s.arrive g k = s.setPhase g q)
    ∧ ((∀ v ∈ s.membersOf g, v ∈ now) → s.arrive g k
        = ((s.setPhase g q).setPhase g { q with arrived := [], since := none }).wakeBar g true 0))
  ∧ (∀ (s : State) (x : Ctx) (l : Launch) (pd : BitVec 8) (pc : DWord) (ok : Bool) (cause : Nat) (d : DWord) (scope : Nat),
    s.ctx? x.id = some x → s.launch? x.launch = some l → x.kind ≠ .span → pd.toNat < 96 → x.items ≠ [] →
    (∀ z ∈ s.ctxs, s.ctx? z.id = some z ∧ (z.id ≠ x.id → z.launch = x.launch → z.cohort = x.cohort → ∀ c ∈ z.cs, c ∉ x.cs)) →
    ∃ y, (s.wakeItems x.id x.cs pd pc ok cause d scope).ctx? x.id = some y ∧ (∀ c ∈ x.cs, y.pAt l.rcd pd.toNat c = ok)
      ∧ y.items = x.items.map fun t => { t with wait := .none, since := s.clock })
  ∧ (∀ (e : Ext), ∀ r ∈ objects e, ∀ (s : State) (i : Issue) (ps : Item → List Piece),
    let f : MemForm := { e.atomForm (e.modBit 0) with ord := if r.rel then 2 else 0 }
    Performs s r.info i → i.ctx.cs.Nodup → oneForAll s i f.base → (i.ctx.kind = .span → f.a64 = true → ∃ v, s.srcHi i.ctx i.launch.rcd f.base false = .u v) →
    (i.ctx.kind = .span → e.d.toNat < 128 → i.full = true) → s.acquiring i.ctx (i.grp.map Item.c) = false →
    s.reading i.ctx (i.grp.map Item.c) = false → Reaches s i f .atomic r.size false Piece.notObject r.size i.aff ps →
    (∀ t ∈ i.aff, ps t ≠ [] ∧ ∀ p ∈ ps t, r.reads = true → s.poisoned p.key p.len (sliceOf i.ctx.core) = false) →
    ((∃ w, r.instr = .barinit w) → ∀ t ∈ i.aff, ∀ u, i.aff.find? (fun v => s.ea i f v == s.ea i f t) = some u →
      0 < (readLo s i (e.src e.b) u).toNat ∧ (readLo s i (e.src e.b) u).toNat ≤ 2 ^ 20) →
    (∀ n ∈ linesAt i.aff ps, s.l1Line? i.ctx.core n = none) → (∀ n, s.queued n = 0 ∨ s.queued n + i.aff.length ≤ 256) →
    s.mayLeave i.ctx.core (linesAt i.aff ps) = true → Released s i (r.rel = true) e.scope →
    (∀ new, new.length ≤ 2 * i.aff.length → (∀ o ∈ new, asked e.d 1 o) →
      s.fitsFrom (afterKills (({ s with ops := s.ops ++ new } : State).modCtx i.ctx.id (r.keeps i)) i r.info) i.ctx.core = true) →
    ∃ u y new, exec r.instr s = .next u
      ∧ u = { s with ctxs := u.ctxs, ops := u.ops, asu := s.asu ++ new, l2 := u.l2, l2err := u.l2err, poison := u.poison,
                     ecc := u.ecc, host := u.host, regs := u.regs, fields := u.fields, nextId := u.nextId }
      ∧ (peersClean s → u.host = s.host ∧ u.poison = s.poison ∧ u.ecc = s.ecc ∧ u.regs = s.regs) ∧ keepsOps s u ∧ (∀ n, n ≠ i.ctx.id → u.ctx? n = s.ctx? n) ∧ u.ctx? i.ctx.id = some y
      ∧ y = { i.ctx with items := y.items, x := y.x, q := y.q, p := y.p, yielded := none } ∧ y.cs = i.ctx.cs
      ∧ (∀ v ∈ y.items, v.c ∈ i.grp.map Item.c → v.pc = i.next r.info)
      ∧ (∀ n, ∀ c ∈ i.ctx.cs, y.pAt i.launch.rcd n c = i.ctx.pAt i.launch.rcd n c)
      ∧ (∀ n, ∀ c ∈ i.ctx.cs, y.xAt i.launch.rcd n c = if i.kills r.info (.x n) c then 0 else i.ctx.xAt i.launch.rcd n c)
      ∧ (∀ n, ∀ c ∈ i.ctx.cs, y.qAt n c = if i.kills r.info (.q n) c then 0 else i.ctx.qAt n c)
      ∧ ∀ t ∈ i.aff, ∃ q ∈ new, t.c ∈ q.items ∧ ((ps t).map Piece.key).head? = some q.key ∧ q.waiting = false ∧ r.asks s i q t
          ∧ ∀ w, r.wait s i q = some w → ∃ v ∈ y.items, v.c = t.c ∧ v.wait = w)
  ∧ ∀ (s : State) (q : AsuReq) (k barLog bound count : Nat), q.key + 64 ≤ 2 ^ 40 → q.key % 64 = 0 → s.mem.wf = true →
      let slice := sliceOf q.core
      let num (u : State) (off n : Nat) : Nat := u.objNat slice q.key off n
      num s 0 4 = bound → 0 < bound → bound ≤ 2 ^ 20 → num s 4 4 = count → num s 12 1 = 0 → num s 14 2 = 0 →
      (count + k < bound → num (s.doBarr q k barLog) 4 4 = count + k ∧ num (s.doBarr q k barLog) 8 4 = num s 8 4)
      ∧ (count + k = bound → s.waitersAt q.key = [] →
          num (s.doBarr q k barLog) 4 4 = 0 ∧ num (s.doBarr q k barLog) 8 4 = (num s 8 4 + 1) % 2 ^ 32)
      ∧ (bound < count + k → s.waitersAt q.key = [] → num (s.doBarr q k barLog) 12 1 = 1 ∧ num (s.doBarr q k barLog) 13 1 = 8)

namespace Sys2Proof.Claims

/-! ### Copies, shelves, tile tasks, children, traps -/

/-- One number for all: a result in form U. -/
def same (d : BitVec 8) (v : Word) : Out := { dst := dstOf d, form := some (.u v), val := fun _ => v }

/-- A result in form U has room, in a span as well (R152, R153, R159). -/
def room (s : State) (i : Issue) (m : Meta) (o : Out) : Prop :=
  (i.ctx.kind = .span → o.isM i = false) ∧ s.fits (i.written m [o]) = true

/-- The words that an instruction reads in q registers from one up (R117, R289). -/
def wordsAt (i : Issue) (e : Ext) (n : Nat) (ws : List Word) : Prop :=
  ws.length = n ∧ ∀ j < n, i.ctx.qForm (e.a.toNat - 128 + j) = .u (ws.getD j 0)

/-- The number that a core gives its next copy (R116). -/
def nextSeq (s : State) (core : Nat) : Nat := if ((s.coreSt core).copySeq + 1) % 2 ^ 32 = 0 then 1 else ((s.coreSt core).copySeq + 1) % 2 ^ 32

/-- The forms of a copy (R117, R134). -/
def copyForms (e : Ext) : List (Instr × Nat) := [(.cpy e, 0), (.cpy2 e, 1), (.cpy3 e, 2), (.cpyg e, 3)]

/-- What the issue of a copy needs to know. -/
def copyInfo (e : Ext) (form : Nat) : Meta :=
  { e.info 1 (copyWords form) (if form = 3 then 1 else 0) 0 with long := true, once := true, whole := true }

/-- The granule named by core, shelf and number. -/
def granOf (s : State) (g : Nat × Nat × Nat) : Gran := s.gran g.1 g.2.1 g.2.2

/-- A `grel` empties the granule without waiting (R143). -/
def releasable (s : State) (g : Nat × Nat × Nat) : Prop :=
  (granOf s g).state = .empty ∨ (granOf s g).state = .resident ∧ (granOf s g).holds = 0

/-- `gstat`'s two bits for a granule (R145): 0 EMPTY, 1 FILLING, 2 RESIDENT, 3 none of the cohort's. -/
def granCode (s : State) (i : Issue) (space first j : Nat) : Nat :=
  let a := first + 4096 * j
  if a / 2 ^ 21 ≠ first / 2 ^ 21 then 3
  else match s.shelfOf i.ctx.core i.ctx.launch i.ctx.cohort i.launch.rcd space a 4096 with
    | none => 3
    | some b => match (s.granAt b).state with
      | .empty => 0
      | .filling => 1
      | .resident => 2

/-- The items of a group have gone on and wait there for a number. -/
def waitsAfter (y : Ctx) (cs : List Nat) (w : Wait) : Prop := ∀ t ∈ y.items, t.c ∈ cs → t.wait = w

/-- A task record as it is posted (R289, R294). -/
structure Posted (s : State) (i : Issue) (kind acc : Nat) (ws : List Word) (fmt : Word) (flag : Option Nat) (t : TaskRec) : Prop where
  of : t.core = i.ctx.core ∧ t.launch = i.ctx.launch ∧ t.cohort = i.ctx.cohort ∧ t.slice = i.launch.slice
  what : t.kind = kind ∧ t.acc = acc ∧ t.words = ws ∧ t.fmt = fmt ∧ t.flag = flag ∧ t.state = .posted
  when_ : t.stamp = s.clock

end Sys2Proof.Claims

open Sys2Proof Sys2Proof.Machine Sys2Proof.Claims

/-- Copy instructions accept their copies with rising sequence numbers (R116 to R119, R133 to R138). -/
def Obligations.CopiesAreAcceptedInOrder : Prop :=
  ∀ (e : Ext), ∀ r ∈ copyForms e, ∀ (s : State) (i : Issue) (ws : List Word), let m := copyInfo e r.2
    let idx := if r.2 = 3 then i.aff.map fun t => (readLo s i (e.src e.b) t).toNat else []
    let d := readDesc r.2 ws idx
    let seq := nextSeq s i.ctx.core
    Performs s m i → wordsAt i e (copyWords r.2) ws → s.checkCopy i.ctx i.launch ws d = none →
    (s.copies.filter fun c => c.core == i.ctx.core).length < 64 → room s i m (same e.d (.ofNat 32 seq)) →
    ∃ u y z c o, exec r.1 s = .next u
      ∧ u = { s with ctxs := u.ctxs, copies := s.copies ++ [c], ops := s.ops ++ [o], grans := u.grans, cores := u.cores,
                     curReqs := u.curReqs, nextId := u.nextId, free := u.free }
      ∧ (∀ n, n ≠ i.ctx.id → u.ctx? n = s.ctx? n) ∧ u.ctx? i.ctx.id = some y
      ∧ Wrote i m [same e.d (.ofNat 32 seq)] 0 z ∧ y = { z with staged := i.ctx.staged + 1 }
      ∧ (u.coreSt i.ctx.core).copySeq = seq ∧ c.seq = seq ∧ c.core = i.ctx.core ∧ c.launch = i.ctx.launch ∧ c.cohort = i.ctx.cohort
      ∧ c.items = i.aff.map Item.c ∧ c.desc = ws ∧ c.idx.map BitVec.toNat = idx.map (· % 2 ^ 32)
      ∧ c.dst = s.dstGrans i.ctx.core i.ctx.launch i.ctx.cohort i.launch.rcd d ∧ (∀ g ∈ c.dst, (granOf u g).state = .filling)
      ∧ o.kind = .copy c.id ∧ o.flag = i.place.flag ∧ o.items = i.aff.map Item.c

/-- ctok, ccan, grel, gstat and publ read, cancel, release, report and publish (R113, R135, R139 to R145). -/
def Obligations.ShelfInstructionsDoWhatTheyName : Prop :=
  (∀ (e : Ext) (s : State) (i : Issue) (q : Word), let m := { e.info 1 1 0 0 with whole := true }
    let v : Word := .ofNat 32 (s.copyStatus i.ctx.core q.toNat)
    Performs s m i → s.src32 i.ctx i.launch.rcd (e.src e.a) = .u q → room s i m (same e.d v) →
    ∃ u y, exec (.ctok e) s = .next u ∧ OnlyCtx s i u y ∧ Wrote i m [same e.d v] 0 y)
  ∧ (∀ (s : State) (core seq : Nat), s.copyStatus core seq
      = if seq = 0 then 0xFFFF
        else if (∃ c ∈ s.copies, c.core = core ∧ c.seq = seq ∧ c.resumed = false) then 0
        else ((s.doneCopies.find? fun q => q.core == core && q.seq == seq && !q.saved).map DoneCopy.status).getD 0xFFFF)
  ∧ (∀ (e : Ext) (s : State) (i : Issue) (q : Word), let m := { e.info 0 1 0 0 with whole := true }
    Performs s m i → s.src32 i.ctx i.launch.rcd (e.src e.a) = .u q →
    ∃ u y, exec (.ccan e) s = .next u ∧ OnlyCtx { s with copies := u.copies } i u y ∧ Wrote i m [] 0 y
      ∧ u.copies.map Copy.id = s.copies.map Copy.id
      ∧ (∀ c ∈ s.copies, (c.core ≠ i.ctx.core ∨ c.seq ≠ q.toNat ∨ c.resumed = true) → c ∈ u.copies)
      ∧ ∀ c ∈ u.copies, c.core = i.ctx.core → c.seq = q.toNat → c.resumed = false → c.force.isSome)
  ∧ (∀ (e : Ext) (s : State) (i : Issue) (b : Word), let m := { e.info 0 1 0 0 with whole := true }
    let first := (b + e.imm).toNat
    let n := e.modBits 2 7 + 1
    let gs := s.gransOf i.ctx.core i.ctx.launch i.ctx.cohort i.launch.rcd (e.modBits 0 2) first (n * 4096)
    Performs s m i → s.src32 i.ctx i.launch.rcd (e.src e.a) = .u b →
    ((first % 4096 ≠ 0 ∨ s.shelfOf i.ctx.core i.ctx.launch i.ctx.cohort i.launch.rcd (e.modBits 0 2) first (n * 4096) = none) →
      exec (.grel e) s = .next (s.faultCtx i.ctx.id 0x05 i.pc (.ofNat 64 first) false))
    ∧ (first % 4096 = 0 → (s.shelfOf i.ctx.core i.ctx.launch i.ctx.cohort i.launch.rcd (e.modBits 0 2) first (n * 4096)).isSome →
      i.ctx.rel = none → (∀ g ∈ gs, (granOf s g).rel = false) →
      ((∀ g ∈ gs, releasable s g) →
        ∃ u y, exec (.grel e) s = .next u ∧ OnlyCtx { s with grans := u.grans } i u y ∧ Wrote i m [] 0 y
          ∧ ∀ g ∈ gs, (granOf u g).state = .empty)
      ∧ (∀ before g after, gs = before ++ g :: after → (∀ h ∈ before, releasable s h) → ¬ releasable s g →
        ∃ u y, exec (.grel e) s = .next u ∧ OnlyCtx { s with grans := u.grans, nextId := s.nextId + 1 } i u y
          ∧ y = { i.ctx with rel := some { mark := s.nextId, pc := i.pc, lines := [], left := after.length + 1 } }
          ∧ (∀ h ∈ before, (granOf u h).state = .empty) ∧ (granOf u g).state = (granOf s g).state)))
  ∧ (∀ (e : Ext) (s : State) (i : Issue) (b : Word), let m := { e.info 1 1 0 0 with whole := true }
    let first := (b + e.imm).toNat
    let v : Word := .ofNat 32 (((List.range 16).map fun j => granCode s i (e.modBits 0 2) first j * 4 ^ j).sum)
    Performs s m i → s.src32 i.ctx i.launch.rcd (e.src e.a) = .u b → first % 4096 = 0 → (shelfCore i.ctx.core first).isSome →
    room s i m (same e.d v) → ∃ u y, exec (.gstat e) s = .next u ∧ OnlyCtx s i u y ∧ Wrote i m [same e.d v] 0 y)
  ∧ ∀ (e : Ext) (s : State) (i : Issue) (n : Word), let m := { e.info 0 1 0 0 with once := true, whole := true }
    let ctl := s.vreg (s.leader i.launch.slice) (0x804 + 16 * n.toNat)
    Performs s m i → s.src32 i.ctx i.launch.rcd (e.src e.a) = .u n → n.toNat ≤ 15 → ctl.toNat.testBit 31 = true →
    fieldOfWord ctl 16 8 = i.launch.asid →
    ∃ u y p, exec (.publ e) s = .next u ∧ OnlyCtx { s with publs := s.publs ++ [p], nextId := s.nextId + 1 } i u y ∧ Wrote i m [] 0 y
      ∧ p.id = s.nextId ∧ p.slice = s.leader i.launch.slice ∧ p.win = n.toNat ∧ p.flipped = false ∧ waitsAfter y (i.grp.map Item.c) (.publ s.nextId)

/-- tpost, chb and che post records, open and close chains, or fault (R294, R296, R305, R309 to R312; log entry 27). -/
def Obligations.TasksAndChainsArePosted : Prop :=
  (∀ (e : Ext) (s : State) (i : Issue) (ws : List Word) (fmt : Word), let m := { e.info 0 16 1 0 with long := true, once := true, whole := true }
    Performs s m i → wordsAt i e 16 ws → (∀ t ∈ i.aff, readLo s i (e.src e.b) t = fmt) →
    s.checkTask i.ctx i.launch.rcd ws fmt = none → s.deskFull i.ctx.core = false →
    ∃ u y t o, exec (.tpost e) s = .next u
      ∧ u = { s with ctxs := u.ctxs, tasks := s.tasks ++ [t], ops := s.ops ++ [o], chains := u.chains, slots := u.slots, grans := u.grans,
                     nextId := u.nextId }
      ∧ (∀ n, n ≠ i.ctx.id → u.ctx? n = s.ctx? n) ∧ u.ctx? i.ctx.id = some y ∧ Wrote i m [] 0 y
      ∧ Posted s i ((ws.getD 0 0).toNat % 16) ((ws.getD 0 0).toNat / 16 % 2) ws fmt i.place.flag t
      ∧ o.kind = .task t.id ∧ o.flag = i.place.flag ∧ o.items = i.aff.map Item.c)
  ∧ (∀ (e : Ext) (s : State) (i : Issue) (ws : List Word) (cause : Nat), let m := { e.info 0 16 1 0 with long := true, once := true, whole := true }
    Performs s m i →
    ((∃ t ∈ i.aff, ∃ v ∈ i.aff, readLo s i (e.src e.b) t ≠ readLo s i (e.src e.b) v) →
      exec (.tpost e) s = .next (s.faultCtx i.ctx.id 0x06 i.pc 0 false))
    ∧ ∀ fmt, wordsAt i e 16 ws → (∀ t ∈ i.aff, readLo s i (e.src e.b) t = fmt) → s.checkTask i.ctx i.launch.rcd ws fmt = some cause →
      exec (.tpost e) s = .next (s.faultCtx i.ctx.id cause i.pc 0 false))
  ∧ (∀ (e : Ext) (s : State) (i : Issue), let m := { e.info 0 0 0 0 with once := true, whole := true }
    let acc := e.modBits 0 1
    Performs s m i → s.deskFull i.ctx.core = false →
    ∃ u y t c, exec (.chb e) s = .next u
      ∧ u = { s with ctxs := u.ctxs, tasks := s.tasks ++ [t], chains := u.chains, slots := u.slots, nextId := u.nextId }
      ∧ (∀ n, n ≠ i.ctx.id → u.ctx? n = s.ctx? n) ∧ u.ctx? i.ctx.id = some y ∧ Wrote i m [] 0 y ∧ Posted s i 8 acc [] 0 none t
      ∧ c ∈ u.chains ∧ (u.slot i.ctx.core i.ctx.launch i.ctx.cohort acc).chain = some c.id ∧ c.closed = false ∧ c.tasks = 0
      ∧ ∀ n, (s.slot i.ctx.core i.ctx.launch i.ctx.cohort acc).chain = some n → n ≠ c.id → ∀ d ∈ u.chains, d.id = n → d.closed = true)
  ∧ ∀ (e : Ext) (s : State) (i : Issue), let m := { e.info 0 (if e.modBit 1 then 2 else 0) 0 0 with once := true, whole := true }
    let acc := e.modBits 0 1
    let q := s.slot i.ctx.core i.ctx.launch i.ctx.cohort acc
    let va (t : Item) : Nat := (readWide s i (e.src e.a) false t).toNat
    Performs s m i → (e.modBit 1 = true → (∃ v w, s.src32 i.ctx i.launch.rcd (e.src e.a) = .u v ∧ s.srcHi i.ctx i.launch.rcd (e.src e.a) false = .u w)
      ∧ ∀ t ∈ i.aff, va t % 16 = 0 ∧ va t < 2 ^ 48) → s.slotFail i.ctx acc = none →
    (q.chain = none → ∃ u y, exec (.che e) s = .next u ∧ OnlyCtx s i u y ∧ Wrote i m [] 0 y)
    ∧ (∀ n, q.chain = some n → s.deskFull i.ctx.core = false → ∃ u y t, exec (.che e) s = .next u
        ∧ u = { s with ctxs := u.ctxs, tasks := s.tasks ++ [t], chains := u.chains, slots := u.slots, nextId := u.nextId }
        ∧ (∀ k, k ≠ i.ctx.id → u.ctx? k = s.ctx? k) ∧ u.ctx? i.ctx.id = some y ∧ Wrote i m [] 0 y ∧ Posted s i 9 acc [] 0 none t
        ∧ (u.slot i.ctx.core i.ctx.launch i.ctx.cohort acc).chain = none
        ∧ ∀ d ∈ u.chains, d.id = n → d.closed = true ∧ (e.modBit 1 = false → d.report = none)
          ∧ (e.modBit 1 = true → ∀ v ∈ i.aff, d.report = some (va v)))

/-- launch starts a child, trap posts a system call and waits, brk faults only when enabled (R426; also R402 to R404, R424). -/
def Obligations.ChildrenTrapsAndBreakpointsAreTaken : Prop :=
  (∀ (e : Ext) (s : State) (i : Issue) (t : Item) (p : Piece) (n : Nat) (s1 : State),
    let m : Meta := { e.info 1 (if e.modBit 0 then 2 else 1) 0 0 with long := true, once := true, whole := true }
    let va := s.ea i { e.atomForm (e.modBit 0) with space := 0 } t
    let out := same e.d (.ofNat 32 n)
    Performs s m i → i.first = some t → va % 128 = 0 → va < 2 ^ 48 →
    s.translate i.ctx.core i.launch.slice i.launch.asid 0 .load (s.lentTo (some i.ctx.id) none) [(va, 128)] = .ok [p] →
    s.path (sliceOf i.ctx.core) p.key p.len = .up → s.path (sliceOf i.ctx.core) p.key 128 = .up →
    s.crowded i.launch.slice [(p.key, p.len)] = false → s.recordHeld i.ctx (i.aff.map Item.c) p = false → s.recordBad i.ctx.core p = false →
    let j : Issue := { i with ctx := { i.ctx with parkedAt := none } }
    let rd := (s.setCtx j.ctx).readRecord i.ctx.core i.launch p
    rd.2.newNumber = (n, s1) → room s1 j m out →
    let o : Op :=
      { id := s1.nextId, issue := s1.nextId, core := i.ctx.core, launch := i.ctx.launch, cohort := i.ctx.cohort, items := i.aff.map Item.c,
        flag := i.place.flag, dst := [], kind := .child n (e.modBit 1), va := .ofNat 64 va, pc := i.pc, back := none, fl := 0, parkedAt := none,
        cross := [], nofill := [], ev := false }
    let w : State := { s1.setCtx (j.written m [out]) with ops := s1.ops ++ [o], nextId := s1.nextId + 1 }
    let c := w.childLaunch i n rd.1
    exec (.launch e) s = .next ((if c.launches.any (fun l => l.num == n && l.unread) then c else c.childTaken n).advance i m)
      ∧ (p.key + 128 ≤ 2 ^ 40 → ∀ b < 128,
          rd.1.getD b 0 = (s.l1Byte i.ctx.core (p.key + b) true).getD (s.homeByte (sliceOf i.ctx.core) (p.key + b))))
  ∧ (∀ (e : Ext) (s : State) (i : Issue), let m := { e.info 0 (if e.modBit 0 then 2 else 0) 0 0 with long := true, once := true }
    Performs s m i → i.ctx.kind ≠ .span → Released s i True 6 →
    (e.modBit 0 = true → ∃ v w, s.src32 i.ctx i.launch.rcd (e.src e.a) = .u v ∧ s.srcHi i.ctx i.launch.rcd (e.src e.a) false = .u w) →
    ∃ u y c o, exec (.trap e) s = .next u
      ∧ OnlyCtx { s with syscalls := s.syscalls ++ [c], ops := s.ops ++ [o], nextId := s.nextId + 1 } i u y
      ∧ Wrote i { m with marks := [] } [] 0 y ∧ waitsAfter y (i.aff.map Item.c) (.syscall s.nextId)
      ∧ c.id = s.nextId ∧ c.seq = none ∧ c.slice = s.leader i.launch.slice ∧ c.code = e.imm.truncate 16 ∧ c.launch = i.ctx.launch
      ∧ c.cohort = i.ctx.cohort ∧ c.core = i.ctx.core ∧ c.cfirst = i.ctx.cs.headD 0 ∧ c.mask = maskOf (i.ctx.cs.headD 0) (i.aff.map Item.c)
      ∧ c.region = i.ctx.region ∧ c.pc = wordIndex i.launch i.pc ∧ c.items = i.aff.map Item.c
      ∧ (∀ t ∈ i.aff, c.arg = if e.modBit 0 then readWide s i (e.src e.a) false t else 0)
      ∧ o.kind = .syscall s.nextId ∧ o.flag = i.place.flag ∧ o.items = i.aff.map Item.c)
  ∧ ∀ (e : Ext) (s : State) (i : Issue), let m := { e.info 0 0 0 0 with whole := true }
    Performs s m i →
    ((s.vreg i.launch.slice 0xE94).toNat.testBit 0 = false → ∃ u y, exec (.brk e) s = .next u ∧ OnlyCtx s i u y ∧ Wrote i m [] 0 y)
    ∧ ((s.vreg i.launch.slice 0xE94).toNat.testBit 0 = true → ∃ u y z f, exec (.brk e) s = .next u
        ∧ OnlyCtx { s with faults := s.faults ++ [f], nextId := s.nextId + 1 } i u z ∧ Wrote i m [] 0 y ∧ z = { y with held := some s.nextId }
        ∧ f.id = s.nextId ∧ f.cause = 0x10 ∧ f.scope = 1 ∧ f.pc = wordIndex i.launch i.pc ∧ f.detail = .ofNat 64 (e.imm.toNat % 2 ^ 16)
        ∧ f.next = true ∧ f.items = i.ctx.cs)

/-- A fault records its cause, place and items, and holds them (R188, R416, R418, R420; log entries 14, 39). -/
def Obligations.FaultsAreRecordedAndTheirItemsHeld : Prop :=
  (∀ (s : State) (x : Ctx) (l : Launch) (cause : Nat) (pc detail : DWord) (next : Bool), s.ctx? x.id = some x → s.launch? x.launch = some l →
    ∃ u f y, s.faultCtx x.id cause pc detail next = u ∧ u = { s with ctxs := u.ctxs, faults := s.faults ++ [f], nextId := s.nextId + 1 }
      ∧ (∀ n, n ≠ x.id → u.ctx? n = s.ctx? n) ∧ u.ctx? x.id = some y ∧ y = { x with held := some s.nextId } ∧ f.id = s.nextId ∧ f.seq = none
      ∧ f.slice = s.leader l.slice ∧ f.cause = cause ∧ f.scope = 1 ∧ f.launch = x.launch ∧ f.cohort = x.cohort ∧ f.core = x.core
      ∧ f.cfirst = x.cs.headD 0 ∧ f.mask = -1 ∧ f.pc = wordIndex l pc ∧ f.detail = detail ∧ f.items = x.cs ∧ f.next = next
      ∧ f.auto = (s.vreg l.slice 0xE10).toNat.testBit cause ∧ f.needs = !f.auto)
  ∧ ∀ (s : State) (x : Ctx) (l : Launch) (cause : Nat) (cs : List Nat) (pc detail : DWord) (next : Bool), s.ctx? x.id = some x →
      s.launch? x.launch = some l → x.kind ≠ .span → (∀ c ∈ cs, c ∈ x.cs) → cs.Nodup →
      (∀ z ∈ s.ctxs, z.id < s.nextId ∧ (z.launch = x.launch → z.cohort = x.cohort → z.id ≠ x.id → ∀ c ∈ z.cs, c ∉ cs)) →
      ∃ u f, s.faultItems x.id cause cs pc detail next = u ∧ u.faults = s.faults ++ [f] ∧ u.mem = s.mem ∧ u.regs = s.regs
        ∧ f.id = s.nextId ∧ f.cause = cause ∧ f.scope = 0 ∧ f.launch = x.launch ∧ f.cohort = x.cohort ∧ f.core = x.core
        ∧ f.cfirst = x.cs.headD 0 ∧ f.mask = maskOf (x.cs.headD 0) cs ∧ f.pc = wordIndex l pc ∧ f.detail = detail ∧ f.items = cs ∧ f.next = next
        ∧ (∀ z ∈ u.ctxs, z.launch = x.launch → z.cohort = x.cohort → ∀ t ∈ z.items, t.c ∈ cs → t.wait = .fault f.id)
        ∧ (∀ c ∈ cs, ∃ z ∈ u.ctxs, z.launch = x.launch ∧ z.cohort = x.cohort ∧ c ∈ z.cs
            ∧ (z.kind = .solo ∨ ∃ t ∈ z.items, t.c = c ∧ t.parked = true))
        ∧ ∀ z ∈ s.ctxs, z.id ≠ x.id → z ∈ u.ctxs

namespace Sys2Proof.Claims

/-- A RESUME of a fault, of a whole context or not, goes on with an item, or rolls it back (R419): it waits for nothing that the RESUME
does not end. -/
def resumed (t : Item) (whole next : Bool) : Bool :=
  match t.wait with
  | .none => true
  | .fault _ => !whole
  | .flags _ => !next
  | .quiet => !next
  | .region => !next
  | _ => false

end Sys2Proof.Claims

open Sys2Proof Sys2Proof.Machine Sys2Proof.Claims

def Sys2Proof.Claims.ResumedItemsGoOn : Prop :=
  ∀ (s : State) (slice seq : Nat) (f : Fault15), s.pendingFault slice seq = some f →
    (∀ x ∈ s.ctxs, s.ctx? x.id = some x ∧ x.cs.Nodup) →
    ∃ u, exec (.faultResume slice seq) s = .next u ∧ u = { s with ctxs := u.ctxs, faults := s.faults.filter fun g => g.id != f.id }
      ∧ ∀ x ∈ s.ctxs, ∃ y, u.ctx? x.id = some y ∧ y.cs = x.cs ∧ y.x = x.x ∧ y.q = x.q ∧ y.p = x.p
        ∧ (x.held = some f.id → x.cs ≠ [] → y.held = none)
        ∧ ∀ t ∈ x.items, ∃ v ∈ y.items, v.c = t.c ∧
            if (x.held ≠ some f.id ∧ t.wait ≠ .fault f.id) ∨ resumed t (x.held == some f.id) f.next = false then v = t
            else if f.next then v.pc = t.pc ∧ v.wait = .none
            else v.pc = t.entry.pc ∧ v.region = t.entry.region ∧ v.wait = .quiet

def Sys2Proof.Claims.EndedItemsAndKilledLaunchesEnd : Prop :=
  (∀ (s : State) (slice seq : Nat) (f : Fault15), s.pendingFault slice seq = some f →
    ∃ u, exec (.faultEnd slice seq) s = .next u
      ∧ u = ({ s with faults := s.faults.filter fun g => g.id != f.id } : State).endItems f.keys 5
      ∧ (keysApart s → ∀ x ∈ u.ctxs, ∀ k ∈ f.keys, k ∉ x.keys))
  ∧ ∀ (s : State) (slice seq : Nat) (f : Fault15), s.pendingFault slice seq = some f →
    ∃ u t, exec (.faultKill slice seq) s = .next u
      ∧ t = ({ s with faults := s.faults.filter fun g => g.id != f.id } : State).cancel f.launch
      ∧ u = { t with faults := t.faults ++ [killedRecord t.nextId f], nextId := t.nextId + 1 }
      ∧ (∀ l, s.launch? f.launch = some l → ∃ k, u.launch? f.launch = some k ∧ k.stopped = true ∧ 6 ≤ k.status)
      ∧ (keysApart s → ∀ x ∈ u.ctxs, x.launch = f.launch → x.items = [])

def Sys2Proof.Claims.FaultRecordsAreWritten : Prop :=
  (∀ (s : State) (f : Fault15), s.faults.find? (fun g => g.id == f.id && g.seq.isNone) = some f → s.faultRoom f.slice = true →
    let head := fieldOfWord (s.vreg f.slice 0xE04) 0 7
    let base := fieldOfWord (s.vreg f.slice 0xE00) 0 28 * 4096 + 64 * head
    s.holdersOf f.slice base 64 = none → s.mem.wf = true → (∀ j < 64, Phys.isLocal (s.localPhys f.slice (base + j)) = true) →
    f.slice < s.slices.length →
    ∃ u, exec (.faultRecordWrite f.id) s = .next u ∧ u.ctxs = s.ctxs
      ∧ (∀ j < 64, u.mem.read (s.localPhys f.slice (base + j)) = (f.bytes (s.slice f.slice).fltSeq).getD j 0)
      ∧ fieldOfWord (u.vreg f.slice 0xE04) 0 7 = (head + 1) % 128
      ∧ (u.slice f.slice).fltSeq = ((s.slice f.slice).fltSeq + 1) % 65536
      ∧ (f.needs = true → ∀ g ∈ u.faults, g.id = f.id → g.seq = some (s.slice f.slice).fltSeq)
      ∧ (f.needs = false → ∀ g ∈ u.faults, g.id ≠ f.id))
  ∧ ∀ (s : State) (slice seq : Nat) (f : Fault15), s.pendingFault slice seq = some f →
    let g : Folio := { Folio.blank 2 f.slice s.clock with
      ctxs := s.ctxs.filter fun x => x.held == some f.id || x.items.any fun t => t.wait == .fault f.id
      groups := s.groups.filter fun q => q.launch == f.launch && q.members.any fun k => k.cohort == f.cohort
      launches := s.launches.filter fun l => l.num == f.launch, faults := [f] }
    let bs := s.folioBytes g f.slice (s.faultingPc f)
    ∃ u, exec (.faultDump slice seq) s = .next u ∧ u.ctxs = s.ctxs ∧ u.faults = s.faults ∧ (s.ecc = [] → s.l2err = [] → u.regs = s.regs)
      ∧ (s.area f.slice 0xE14 0xE18 = none → u = s.setSlice f.slice fun v => { v with dumpErr := true })
      ∧ ∀ off n, s.area f.slice 0xE14 0xE18 = some (off, n) →
        (n < bs.length → u = s.setSlice f.slice fun v => { v with dumpErr := true })
        ∧ (bs.length ≤ n → s.mem.wf = true → s.holdersOf f.slice off bs.length = none → u.readLocal f.slice off bs.length = bs
          ∧ (f.slice < s.slices.length → (u.slice f.slice).dumpErr = false))

def Sys2Proof.Claims.SystemCallsAreRecordedAndAnswered : Prop :=
  (∀ (s : State) (slice seq : Nat) (c : Syscall) (result : Byte),
    s.syscalls.find? (fun d => d.slice == slice && d.seq == some seq) = some c → (∀ x ∈ s.ctxs, s.ctx? x.id = some x ∧ x.cs.Nodup) →
    ∃ u, exec (.syscallDone slice seq result) s = .next u ∧ u.syscalls = s.syscalls.filter (fun d => d.id != c.id)
      ∧ u.ops = s.ops.filter (fun o => o.kind != .syscall c.id)
      ∧ (result = 0 → u.faults = s.faults
          ∧ ∀ x ∈ s.ctxs, ∃ y, u.ctx? x.id = some y ∧ y = { x with items := y.items, acq := y.acq }
            ∧ y.items = x.items.map fun t => if t.wait = .syscall c.id then { t with wait := .none, since := s.clock } else t)
      ∧ (result ≠ 0 → ∀ x ∈ s.ctxs, (s.launch? x.launch).isSome → (∃ t ∈ x.items, t.wait = .syscall c.id) →
          ∃ f ∈ u.faults, f.cause = 0x0F ∧ f.detail = .ofNat 64 result.toNat ∧ f.launch = x.launch ∧ f.cohort = x.cohort
            ∧ f.next = true ∧ f.items = (x.items.filter fun t => t.wait == .syscall c.id).map Item.c))
  ∧ ∀ (s : State) (c : Syscall), s.syscalls.find? (fun d => d.id == c.id && d.seq.isNone) = some c → s.callRoom c.slice = true →
      s.hostUp = true → ∃ u, exec (.syscallRecordWrite c.id) s = .next u ∧ u.ctxs = s.ctxs
        ∧ (∀ d ∈ u.syscalls, d.id = c.id → d.seq = some (s.slice c.slice).scSeq)
        ∧ (errorsMendable s → (s.vreg c.slice 0xE54).getLsbD 1 = false →
          fieldOfWord (u.vreg c.slice 0xE28) 0 6 = (fieldOfWord (s.vreg c.slice 0xE28) 0 6 + 1) % 64
          ∧ (c.slice < s.slices.length → (u.slice c.slice).scSeq = ((s.slice c.slice).scSeq + 1) % 65536))

/-- RESUME, END, KILL and DUMP act on their record; records and system calls are written and answered (R414, R418, R419,
R424). -/
def Obligations.FaultActionsReturnOrEnd : Prop :=
  Sys2Proof.Claims.ResumedItemsGoOn ∧ Sys2Proof.Claims.EndedItemsAndKilledLaunchesEnd ∧ Sys2Proof.Claims.FaultRecordsAreWritten
    ∧ Sys2Proof.Claims.SystemCallsAreRecordedAndAnswered

namespace Sys2Proof.Claims

/-! ### Events -/

/-- Of the machine only the registers of BAR0 may have changed, and of them only one. -/
def OnlyReg (s u : State) (fn off : Nat) : Prop :=
  u = { s with regs := u.regs } ∧ ∀ f o, (f, o) ≠ (fn, off) → u.reg f o = s.reg f o

/-- A register took the bits of a mask from a word and kept the others. -/
def Took (s u : State) (fn off : Nat) (val mask : Word) : Prop :=
  ∀ j < 32, (u.reg fn off).getLsbD j = if mask.getLsbD j then val.getLsbD j else (s.reg fn off).getLsbD j

/-- The event changes nothing. -/
def Idle (j : Instr) (s : State) : Prop := exec j s = .next s

/-- The registers that clear when they are read: the event of the read, the offset, and the bits that clear (R5). -/
def Counter (slice : Nat) (r : Instr × Nat × Word) : Prop :=
  r ∈ ([(.slcEcccorRead slice, 0x440, -1), (.slcEccuncRead slice, 0x444, -1), (.l2bRecallRead slice, 0x62C, -1),
   (.mxeSatcntRead slice, 0xA00, -1), (.mxeNancntRead slice, 0xA04, -1), (.slcDropcntRead slice, 0x448, -1),
   (.dstLrefcntRead slice, 0x204, -1), (.cpeCpycntRead slice, 0xEA0, -1), (.slcScrheadRead slice, 0xE28, 0xFF00)] : List (Instr × Nat × Word))

/-- Only the slices' own records have changed, and of them only those of some slices. -/
def OnlySlices (s u : State) (p : Nat → Prop) : Prop := u = { s with slices := u.slices } ∧ ∀ n, ¬ p n → u.slice n = s.slice n

end Sys2Proof.Claims

open Sys2Proof Sys2Proof.Machine Sys2Proof.Claims

def Sys2Proof.Claims.RegistersTakeWhatIsWritten : Prop :=
  (∀ (s : State) (who : Writer) (slice off : Nat) (val : Word), s.serves slice = true → vfMayWrite who off = true →
    off ≠ 0x400 → off ≠ 0x420 → off ≠ 0xE00 → (off < 0x480 ∨ 0x500 ≤ off) →
    let breaks := 0x800 ≤ off ∧ off < 0x900 ∧ off % 16 = 0 ∧ (s.reg (slice + 1) (off + 4)).getLsbD 31 = true
    ∃ u, exec (.registerWrite who (slice + 1) off val) s = .next u ∧ OnlyReg { s with slices := u.slices } u (slice + 1) off
      ∧ (¬ breaks → u.slices = s.slices)
      ∧ (breaks → s.slices.length = 16 → OnlySlices s { s with slices := u.slices } (· = slice)
          ∧ (off - 0x800) / 16 ∈ (u.slice slice).badWin)
      ∧ ∀ j < 32, (u.reg (slice + 1) off).getLsbD j = if (vfStored off).getLsbD j then val.getLsbD j
          else (s.reg (slice + 1) off).getLsbD j && !((vfCleared off).getLsbD j && val.getLsbD j))
  ∧ (∀ (s : State) (who : Writer) (slice off : Nat) (val : Word),
    (s.serves slice = false → slice < 16 → Idle (.registerWrite who (slice + 1) off val) s)
    ∧ (s.valid = false → off < 0x20 ∨ 0x2C ≤ off → Idle (.registerWrite who 0 off val) s))
  ∧ (∀ (s : State) (who : Writer) (slice q : Nat) (val : Word), s.serves slice = true → q < 32 →
    (s.quiesced slice = false → Idle (.registerWrite who (slice + 1) (0x480 + 4 * q) val) s)
    ∧ (s.quiesced slice = true → ∃ u, exec (.registerWrite who (slice + 1) (0x480 + 4 * q) val) s = .next u
        ∧ OnlyReg s u (slice + 1) (0x480 + 4 * q) ∧ Took s u (slice + 1) (0x480 + 4 * q) val 0xFF))
  ∧ (∀ (s : State) (who : Writer) (slice off : Nat) (val : Word), s.serves slice = true → off ∈ [0x400, 0x420, 0xE00] →
    let mask : Word := if off = 0xE00 then 0x0FFFFFFE else 0x0FFFFFFF
    let inside := (val &&& mask).toNat * 4096 + ringBytes off ≤ s.localSize slice ∧ (off ≠ 0xE00 → s.quiesced slice = true)
    (¬ inside → Idle (.registerWrite who (slice + 1) off val) s)
    ∧ (inside → ∃ u, exec (.registerWrite who (slice + 1) off val) s = .next u ∧ OnlyReg s u (slice + 1) off
        ∧ Took s u (slice + 1) off val mask))
  ∧ (∀ (s : State) (who : Writer) (p : Nat) (val : Word), s.valid = true → p < 8 →
    ((s.planeGroups p).isEmpty = false → s.parkedClass p = false → Idle (.registerWrite who 0 (0x2110 + 4 * p) val) s)
    ∧ ((s.planeGroups p).isEmpty = true ∨ s.parkedClass p = true →
        ∃ u, exec (.registerWrite who 0 (0x2110 + 4 * p) val) s = .next u ∧ OnlyReg s u 0 (0x2110 + 4 * p)
          ∧ Took s u 0 (0x2110 + 4 * p) val 0xFFFF))
  ∧ (∀ (s : State) (slice : Nat) (val : Word),
    let bad := val.getLsbD 31 = true ∧ 79 < fieldOfWord val 0 7
    (s.serves slice = false ∨ s.quiesced slice = false ∨ bad → Idle (.l2bHashctlWrite slice val) s)
    ∧ (s.serves slice = true → s.quiesced slice = true → ¬ bad → ∃ u, exec (.l2bHashctlWrite slice val) s = .next u
        ∧ u = { s with regs := u.regs, l2 := u.l2, l2err := u.l2err, poison := u.poison, ecc := u.ecc, host := u.host }
        ∧ Took s u (slice + 1) 0x630 val 0x8000007F
        ∧ (∀ l ∈ u.l2, s.leader l.slice ≠ slice) ∧ ∀ l ∈ s.l2, s.leader l.slice ≠ slice → l ∈ u.l2))
  ∧ (∀ (s : State) (slice pid : Nat) (val : Word), s.serves slice = true → pid < 8 →
    ∃ u, exec (.l2bPidmaskWrite slice pid val) s = .next u ∧ OnlyReg s u (slice + 1) (0x600 + 4 * pid)
      ∧ Took s u (slice + 1) (0x600 + 4 * pid) val 0xFFFF)
  ∧ (∀ (s : State) (slice win : Nat) (val : Word), s.serves slice = true → win < 16 →
    let r := 0x804 + 16 * win
    let old := s.reg (slice + 1) r
    let t := if old.getLsbD 31 = true ∧ val.getLsbD 31 = false then s.cutWindow slice win else s
    (val.getLsbD 31 = true → fieldOfWord val 0 16 = 0 → Idle (.cpeShwctlWrite slice win val) s)
    ∧ ((val.getLsbD 31 = true → fieldOfWord val 0 16 ≠ 0) →
        ∃ u, exec (.cpeShwctlWrite slice win val) s = .next u ∧ OnlyReg { t with slices := u.slices } u (slice + 1) r
          ∧ (t.slices.length = 16 → OnlySlices t { t with slices := u.slices } (· = slice)
              ∧ (win ∈ (u.slice slice).badWin ↔ if old.getLsbD 31 = true then
                    win ∈ (t.slice slice).badWin ∨ fieldOfWord val 0 24 ≠ fieldOfWord old 0 24
                  else val.getLsbD 31 = false ∧ win ∈ (t.slice slice).badWin))
          ∧ ∀ j < 32, (u.reg (slice + 1) r).getLsbD j = if 24 ≤ j ∧ j < 30 then false
              else if j = 30 then old.getLsbD 30 && !(val.getLsbD 31 && !old.getLsbD 31) else val.getLsbD j))
  ∧ (∀ (s : State) (slice q : Nat) (val : Word), s.serves slice = true → q < 32 → s.slices.length = 16 →
    (∃ u, exec (.ctbRequestWrite slice q val) s = .next u
        ∧ (u.reg (slice + 1) (0xD04 + 8 * q)) = val &&& 0xFFFF1FFF ∧ (u.slice slice).ctbReqs = (s.slice slice).ctbReqs ++ [q]
        ∧ u = { s with regs := u.regs, slices := u.slices })
    ∧ (∃ u, exec (.ctbBindWrite slice q false val) s = .next u ∧ OnlyReg s u (slice + 1) (0xC00 + 8 * q)
        ∧ u.reg (slice + 1) (0xC00 + 8 * q) = val)
    ∧ ∃ u, exec (.ctbBindWrite slice q true val) s = .next u ∧ u.reg (slice + 1) (0xC04 + 8 * q) = val &&& 0xFFFF1FFF
        ∧ (u.slice slice).ctbReqs = (s.slice slice).ctbReqs.erase q ∧ u = { s with regs := u.regs, slices := u.slices })
  ∧ (∀ (s : State) (slice : Nat), s.leader slice = slice → (s.slice slice).bindDue = true →
    ∃ u, exec (.curatorDefaultBind slice) s = .next u ∧ u = { s with regs := u.regs, slices := u.slices } ∧ (u.slice slice).bindDue = false
      ∧ ∀ q < 32, u.bindA slice q = -1 ∧ u.bindB slice q = .ofNat 32 ((2 ^ (s.members slice).length - 1) * 2 ^ 16 + 7 * 2 ^ 10))
  ∧ (∀ (s : State) (slice : Nat) (val : Word), s.valid = true → slice < 16 →
    (s.locked slice = false → ∃ u, exec (.slcGrpWrite slice val) s = .next u ∧ OnlyReg s u 0 (0x4000 + 0x40 * slice)
        ∧ Took s u 0 (0x4000 + 0x40 * slice) val 15)
    ∧ (s.locked slice = true → fieldOfWord val 0 4 = s.nextLead slice → Idle (.slcGrpWrite slice val) s)
    ∧ (s.locked slice = true → fieldOfWord val 0 4 ≠ s.nextLead slice → exec (.slcGrpWrite slice val) s
        = .next (if s.closed slice then s.setMembers (s.leader slice) fun v => { v with tdisp := 3 } else s.resetSlice slice)))
  ∧ ∀ (s : State) (slice : Nat) (val : Word), s.valid = true → slice < 16 → s.slices.length = 16 →
    let old := s.migCtl slice
    (fieldOfWord val 30 2 = 3 → Idle (.slcMigctlWrite slice val) s)
    ∧ (fieldOfWord val 30 2 ≠ 3 → s.locked slice = false → ∃ u, exec (.slcMigctlWrite slice val) s = .next u
        ∧ u = { s with regs := u.regs, slices := u.slices } ∧ Took s u 0 (0x4010 + 0x40 * slice) val 0xEFFFFC00
        ∧ (u.slice slice).dirty = if val.getLsbD 29 = true ∧ old.getLsbD 29 = false then PageSet.every else (s.slice slice).dirty)

def Sys2Proof.Claims.CountersClearWhenTheyAreRead : Prop :=
  (∀ (slice : Nat), ∀ r, Counter slice r → ∀ s : State, s.serves slice = true →
    ∃ u, exec r.1 s = .next u ∧ u = { s with resp := some (.word (s.reg (slice + 1) r.2.1)), regs := u.regs }
      ∧ u.reg (slice + 1) r.2.1 = s.reg (slice + 1) r.2.1 &&& ~~~r.2.2
      ∧ ∀ f o, (f, o) ≠ (slice + 1, r.2.1) → u.reg f o = s.reg f o)
  ∧ (∀ (slice : Nat), ∀ r, Counter slice r → ∀ s : State, s.present slice = false → exec r.1 s = .next { s with resp := some (.word 0) })
  ∧ (∀ (s : State) (slice : Nat), s.serves slice = true → s.slices.length = 16 → ∃ u v, exec (.slcLinkevtRead slice) s = .next u
      ∧ u = { s with resp := some (.word v), regs := u.regs, slices := u.slices } ∧ v.getLsbD 0 = !s.portH
      ∧ (∀ j < 32, j ≠ 0 → v.getLsbD j = (s.reg (slice + 1) 0x1110).getLsbD j) ∧ (u.slice slice).stranded = 0
      ∧ u.reg (slice + 1) 0x1110 = s.reg (slice + 1) 0x1110 &&& 0xFF)
  ∧ ∀ (s : State) (slice : Nat), s.present slice = true → ∃ u, exec (.usageClear slice) s = .next u
      ∧ OnlySlices s u (· = s.leader slice) ∧ (u.slice (s.leader slice)).usage = 0

/-- Register writes store their writable bits, and counters clear when they are read (R5 to R7, R85, R107, R132, R393, R394,
R436, R448). -/
def Obligations.RegistersTakeWritesAndClearOnReads : Prop :=
  Sys2Proof.Claims.RegistersTakeWhatIsWritten ∧ Sys2Proof.Claims.CountersClearWhenTheyAreRead

def Sys2Proof.Claims.ModuleResetLeavesTheMachineAsPoweredUp : Prop :=
  ∀ s : State, ∃ u, exec .moduleReset s = .next u
    ∧ u = { State.reset with host := s.host, bring := s.bring, portH := s.portH, free := s.free, nextId := s.nextId, inputs := s.inputs,
                             slices := u.slices }
    ∧ u.slices.length = 16 ∧ ∀ n < 16, u.slice n = { SliceSt.reset n with keyGen := (s.slice n).keyGen }

/-- The state after module reset holds the values the maps give (R7, R147, R394, R433, R436, R477; log entries 1 to 8). -/
def Obligations.ResetStateIsAsTheSpecSays : Prop :=
  let s := State.reset
  s.cur = none ∧ s.inputs = [] ∧ s.valid = false ∧ s.ctxs = [] ∧ s.launches = [] ∧ s.ops = [] ∧ s.copies = [] ∧ s.tasks = []
    ∧ s.tlb = [] ∧ s.l1 = [] ∧ s.l2 = [] ∧ s.regs = []
    ∧ (∀ k, s.mem.read k = 0 ∧ s.shelf.read k = 0 ∧ s.window.read k = 0)
    ∧ (∀ n < 16, s.present n = false ∧ (s.slice n).tdisp = 0 ∧ (s.slice n).pre = 0 ∧ s.leader n = n ∧ (s.slice n).usage < 2 ^ 64)
    ∧ (∀ v ∈ s.slices, v.usage < 2 ^ 64) ∧ (∀ f < 4, (s.fields.getD f FieldSt.reset).mhz = 940) ∧ ∀ g < 16, (s.edge g).state = 6

def Sys2Proof.Claims.BringUpAndPowerEventsTakeEffect : Prop :=
  (∀ (s : State) (img : FirmwareImage),
    (s.valid = true ∨ s.fwBusy = true → Idle (.firmwarePush img) s)
    ∧ (s.valid = false → s.fwBusy = false → img.readable = false ∨ s.hostUp = false ∨ s.imagePoisoned = true ∨ 2 ^ 26 < (s.reg 0 0x28).toNat →
        exec (.firmwarePush img) s = .next { s with fwErr := 2 })
    ∧ (s.valid = false → s.fwBusy = false → img.readable = true → s.hostUp = true → s.imagePoisoned = false → (s.reg 0 0x28).toNat ≤ 2 ^ 26 →
      (img.signed = false → exec (.firmwarePush img) s = .next { s with fwErr := 1 })
      ∧ (img.signed = true → (bringUp s.bring img).err ≠ 0 ∨ (bringUp s.bring img).cut = true → exec (.firmwarePush img) s
          = .next { s with bring := (bringUp s.bring img).entries, fwErr := (bringUp s.bring img).err, fwStep := (bringUp s.bring img).last,
                           fwBusy := (bringUp s.bring img).cut, measure := leNat (s.imageBytes ++ [1]) })
      ∧ (img.signed = true → (bringUp s.bring img).err = 0 → (bringUp s.bring img).cut = false → ∃ u, exec (.firmwarePush img) s = .next u
          ∧ u.valid = true ∧ u.part = (bringUp s.bring img).part img ∧ u.bring = (bringUp s.bring img).entries ∧ u.fwErr = 0
          ∧ u.fwBusy = false ∧ u.measure = leNat (s.imageBytes ++ [1]) ∧ (∀ f < s.fields.length, (u.fields.getD f FieldSt.reset).mhz = (bringUp s.bring img).mhz f)
          ∧ (∀ n, u.present n = true → (u.slice n).clean = true ∧ (u.slice n).clearing = false)
          ∧ ∀ k < 2 ^ 40, u.present (k / 2 ^ 36) = true → u.mem.read k = 0)))
  ∧ (∀ img : FirmwareImage, (∀ r ∈ img.results, r = .passed) → (bringUp [] img).err = 0 ∧ (bringUp [] img).cut = false
      ∧ (∀ f < 4, (bringUp [] img).field f = img.fields.getLsbD f) ∧ (bringUp [] img).last = 38)
  ∧ (∀ (es : List BringEntry) (img : FirmwareImage), img.results.head? = some .failed → (bringUp es img).err = 3
      ∧ (bringUp es img).last = if ∀ e ∈ bringEntry es 1, e.result = .passed then 1 else 0)
  ∧ (∀ s : State, exec .bringUpRecordClear s = .next { s with bring := [] })
  ∧ (∀ (s : State) (f : Nat) (est : BitVec 15),
    (s.part.fields.getLsbD f = false → Idle (.currentEstimatePublish f est) s)
    ∧ (s.part.fields.getLsbD f = true → f < s.fields.length → ∃ u, exec (.currentEstimatePublish f est) s = .next u
        ∧ u = { s with fields := u.fields, cores := u.cores } ∧ u.fields.length = s.fields.length
        ∧ (∀ c, u.coreSt c = if fieldOf c = f then { s.coreSt c with toggles := 0, zeros := 0 } else s.coreSt c)
        ∧ ∀ n, u.fields.getD n FieldSt.reset
            = if n = f then { s.fields.getD f FieldSt.reset with est := est } else s.fields.getD n FieldSt.reset))
  ∧ (∀ (s : State) (f mhz : Nat),
    (mhz ∉ [940, 800, 640] → Idle (.operatingPointChange (.field f mhz)) s)
    ∧ (mhz ∈ [940, 800, 640] → f < s.fields.length → ∃ u, exec (.operatingPointChange (.field f mhz)) s = .next u
        ∧ u = { s with fields := u.fields } ∧ u.fields.length = s.fields.length
        ∧ (∀ n, u.fields.getD n FieldSt.reset
            = if n = f then { s.fields.getD f FieldSt.reset with mhz := mhz, clk := s.fieldClock f, base := s.clock }
              else s.fields.getD n FieldSt.reset) ∧ ∀ c, u.cycles c = s.cycles c))
  ∧ (∀ (s : State) (c n : Nat), 2 ≤ n → n ≤ 8 → s.present (sliceOf c) = true →
    ∃ u, exec (.operatingPointChange (.core c n)) s = .next u ∧ u = { s with cores := u.cores } ∧ (u.coreSt c).div = n
      ∧ u.cycles c = s.cycles c ∧ ∀ d, d ≠ c → u.coreSt d = s.coreSt d)
  ∧ ∀ (s : State) (stack sector : Nat),
    let n := stack * 2 ^ 31 + sector
    let slice := n * 32 / 2 ^ 36
    let more (off : Nat) : Word := .ofNat 32 (min ((s.vreg slice off).toNat + 1) 0xFFFFFFFF)
    ((∀ e ∈ s.ecc, e.1 ≠ n) → Idle (.eccPatrolScrub stack sector) s)
    ∧ ∀ e, stack < 16 → sector < 2 ^ 31 → s.ecc.find? (fun d => d.1 == n) = some e → ∃ u, exec (.eccPatrolScrub stack sector) s = .next u ∧ u.mem = s.mem
        ∧ u.ecc = s.ecc.filter (fun d => d.1 != n) ∧ (e.2 = false → u.vreg slice 0x440 = more 0x440 ∧ u.poison = s.poison)
        ∧ (e.2 = true → u.vreg slice 0x444 = more 0x444 ∧ n ∈ u.poison)

/-- Module reset, firmware push, record clear, estimates, operating points and scrubs take effect (R7, R13, R83, R479, R482,
R484 to R487; log entries 3, 4, 64). -/
def Obligations.ResetsBringUpAndPowerEventsTakeEffect : Prop :=
  Sys2Proof.Claims.ModuleResetLeavesTheMachineAsPoweredUp ∧ Sys2Proof.Claims.BringUpAndPowerEventsTakeEffect

namespace Sys2Proof.Claims

/-- The slot of a launch window that is parsed has been taken: its SEAL is cleared and it has left the queue (R388). -/
def slotTaken (s : State) (slice slot : Nat) (rest : List Nat) : State :=
  ({ s with window := s.window.write (slice * 65536 + 128 * slot + 127) 0, nextId := s.nextId + 1 } : State).setSlice slice
    fun v => { v with parseQ := rest }

/-- The page of an address is found and readable, in this package's own memory (R68 to R71). -/
def localAt (s : State) (slice asid va n : Nat) (a : Access) (k : Nat) : Prop :=
  s.reach slice asid va n a = .ok k ∧ k + n ≤ 2 ^ 40 ∧ s.poisoned k n = false

/-- A context as admission makes it (R147, R365). -/
structure Admitted (l : Launch) (y : Ctx) : Prop where
  of : y.launch = l.num ∧ y.cohort = l.nextCohort
  blank : y.x = [] ∧ y.q = [] ∧ y.p = [] ∧ y.fflags = 0 ∧ y.fctl = 0 ∧ y.region = 0
  items : ∀ t ∈ y.items, t.pc = .ofNat 64 (l.code + 4 * l.rcd.entry) ∧ t.region = 0 ∧ t.wait = (if l.late then .late else .none)

end Sys2Proof.Claims

open Sys2Proof Sys2Proof.Machine Sys2Proof.Claims

/-- Sealed records are parsed into launches, dependences released and constant images delivered (R386 to R390, R404; log entry
46). -/
def Obligations.LaunchRecordsBecomeLaunches : Prop :=
  (∀ (s : State) (slice slot : Nat) (val : Byte), s.serves slice = true → slot < 512 → s.closed slice = false → s.window.wf = true →
    s.slices.length = 16 →
    let a := slice * 65536 + 128 * slot + 127
    ∃ u, exec (.sealWrite slice slot val) s = .next u ∧ u = { s with window := u.window, slices := u.slices }
      ∧ (∀ k, u.window.read k = if k = a then val else s.window.read k)
      ∧ (u.slice slice).parseQ = if s.window.read a = 0 ∧ val ≠ 0 then (s.slice slice).parseQ ++ [slot] else (s.slice slice).parseQ)
  ∧ (∀ (s : State) (slice : Nat), s.mayParse slice = false → Idle (.launchRecordParse slice) s)
  ∧ (∀ (s : State) (slice slot : Nat) (rest : List Nat), s.mayParse slice = true → (s.slice slice).parseQ = slot :: rest →
    s.slices.length = 16 → s.window.wf = true →
    let bs := s.window.readList (slice * 65536 + 128 * slot) 128
    let r := LaunchRec.ofBytes bs
    let asid := fieldOfWord (s.vreg slice (0x480 + 4 * (r.queue % 32))) 0 8
    let pid := fieldOfWord (s.vreg slice (0x680 + 4 * (r.queue % 32))) 0 3
    let t := slotTaken s slice slot rest
    let c := t.checkRecord slice asid (2 ^ 32 + s.nextId) bs false
    let none' : Launch := newLaunch (2 ^ 32 + s.nextId) r slice asid pid none s.nextId { code := 0, words := 0, map := 0 } false 0
    (reservedBad bs = true → c = .refused 1 t) ∧ (reservedBad bs = false → r.limitBad = true → c = .refused 2 t)
    ∧ (reservedBad bs = false → r.limitBad = false → r.vasBad = true → c = .refused 3 t)
    ∧ (∀ v, c = .unread v → exec (.launchRecordParse slice) s = .next (v.holdUnread none' slot))
    ∧ (∀ reason v, c = .refused reason v → exec (.launchRecordParse slice) s = .next (v.refuse none' reason slot))
    ∧ ∀ h v, c = .sound h v → ∃ u l, exec (.launchRecordParse slice) s = .next u ∧ l ∈ u.launches ∧ l.num ≠ 0 ∧ l.num < 2 ^ 32 ∧ l.rcd = r
        ∧ l.slice = slice ∧ l.asid = asid ∧ l.pid = pid ∧ l.parent = none ∧ l.reason = 0 ∧ l.nextCohort = 0 ∧ l.ended = 0
        ∧ l.code = h.code ∧ (r.after = 0 → l.dep = .ready) ∧ (u.slice slice).parseQ = rest ∧ u.window = t.window ∧ u.ctxs = s.ctxs)
  ∧ (∀ (s : State) (slice reason slot : Nat) (token : Bool), slot < 512 → reason < 16 → s.leader slice = slice →
    let u := s.noteRefusal slice reason slot false token
    u.vreg slice 0x204 = .ofNat 32 (min ((s.vreg slice 0x204).toNat + 1) 0xFFFFFFFF)
    ∧ u.vreg slice 0x200 = (if (s.vreg slice 0x200).getLsbD 31 then s.vreg slice 0x200 else .ofNat 32 (2 ^ 31 + reason * 2 ^ 16 + slot)))
  ∧ (∀ (s : State) (l : Launch), s.launch? l.num = some l →
    (l.dep ≠ .waiting ∨ l.unread = true → Idle (.afterTokenPoll l.num) s)
    ∧ ∀ k, l.dep = .waiting → l.unread = false → s.deviceWaits 0 l.num [7] = false → localAt s l.slice l.asid (l.rcd.after + 4) 2 .load k →
      let st := (s.mem.read k).toNat + 256 * (s.mem.read (k + 1)).toNat
      ∃ u, exec (.afterTokenPoll l.num) s = .next u ∧ u.ctxs = s.ctxs ∧ u.mem = s.mem ∧ u.launches.length = s.launches.length
        ∧ u.launch? l.num = some { l with
            tokSince := none
            dep := if st = 0 then .waiting else if st = 1 ∨ l.rcd.afterAny = true then .ready else .failed })
  ∧ (∀ (s : State) (l : Launch),
    s.launch? l.num = some l → l.late = true ∨ l.unread = true → (l.unread = true → l.stopped = false) →
    s.deviceWaits 0 l.num [4] = false →
    let c := s.kernelHeader l.slice l.asid l.num l.rcd.kobj l.rcd.entry
    let fails (t : State) : Prop := (l.hdrFail = true ∧ t = s)
      ∨ (l.hdrFail = false ∧ (c = .got none t ∨ ∃ k n, c = .park k t ∧ l.hdrSince = some n ∧ s.parkedOut k n = true))
    (∀ v, l.hdrFail = false → c = .wait v → exec (.fastPathLateCheck l.num) s = .next v)
    ∧ (∀ h t, l.unread = false → l.hdrFail = false → c = .got (some h) t → ∃ u, exec (.fastPathLateCheck l.num) s = .next u
        ∧ u = { t with launches := u.launches, ctxs := u.ctxs } ∧ u.ctxs.length = t.ctxs.length
        ∧ u.launch? l.num = (t.launch? l.num).map (fun m => { m with late := false, hdrSince := none, code := h.code, words := h.words, map := h.map })
        ∧ ∀ x ∈ u.ctxs, x.launch = l.num → ∀ i ∈ x.items, i.pc = .ofNat 64 (h.code + 4 * l.rcd.entry) ∧ i.entry.pc = i.pc ∧ i.wait ≠ .late)
    ∧ (∀ h t, l.unread = true → l.hdrFail = false → c = .got (some h) t → t.checkBind l.slice l.rcd = 0 →
        ∃ u m, exec (.fastPathLateCheck l.num) s = .next u ∧ m ∈ u.launches ∧ m.rcd = l.rcd ∧ m.slice = l.slice ∧ m.unread = false
          ∧ m.reason = l.reason ∧ m.code = h.code ∧ (if l.device = true then m.num = l.num else m.num ≠ 0) ∧ u.ctxs = t.ctxs)
    ∧ (∀ t, l.unread = false → fails t → ∃ u, exec (.fastPathLateCheck l.num) s = .next u
        ∧ (∀ x ∈ u.ctxs, x.launch ≠ l.num) ∧ ∀ m, u.launch? l.num = some m → m.late = false ∧ m.reason = 4 ∧ m.stopped = true)
    ∧ ∀ t, l.unread = true → fails t → exec (.fastPathLateCheck l.num) s = .next
        ((({ t with launches := t.launches.filter fun k => k.num != l.num } : State).childTaken l.num).refuse { l with unread := false } 4 l.slot))
  ∧ ∀ (core : Nat) (s : State) (l : Launch) (k : ConstImage) (p : Nat), s.launch? l.num = some l →
      s.consts.find? (fun i => i.core == core && i.launch == l.num && i.words.isNone) = some k → k.failed = none →
      s.deviceWaits core l.num [1] = false → l.rcd.const % 65536 + 4096 ≤ 65536 → localAt s l.slice l.asid l.rcd.const 4096 .load p →
      ∃ u, exec (.constantImageArrival core l.num) s = .next u ∧ u.ctxs = s.ctxs ∧ u.mem = s.mem ∧ u.launches = s.launches
        ∧ ∀ i ∈ u.consts, i.core = core → i.launch = l.num → i.failed = none
            ∧ i.words = some ((List.range 1024).map fun j => .ofNat 32 (leNat (s.mem.readList (p + 4 * j) 4)))

/-- Admission places cohorts within their limits; launches report, complete and write their tokens (R391, R396 to R401; log
entries 45, 80). -/
def Obligations.LaunchesAreAdmittedAndComplete : Prop :=
  (∀ (s : State) (slice : Nat), s.mayAdmit slice = false ∨ s.eligible slice = [] → Idle (.admissionRound slice) s)
  ∧ (∀ (s t : State) (slice : Nat) (l : Launch), s.mayAdmit slice = true → s.eligible slice = [l] → s.admitOne (s.knownOf l.slice) l (fun _ => true) = some t →
    exec (.admissionRound slice) s
      = .next (t.setSlice slice fun v => { v with rr := v.rr.set (s.effective l) ((l.rcd.queue + 1) % 32) }))
  ∧ (∀ (s : State) (slice : Nat) (l : Launch), s.mayAdmit slice = true → s.eligible slice = [l] → s.admitOne (s.knownOf l.slice) l (fun _ => true) = none →
    Idle (.admissionRound slice) s)
  ∧ (∀ (s : State) (know : Nat → Need) (l : Launch) (shares : List Share), l.stopped = false → l.nextCohort < cohortTotal l.rcd → l.parent = none →
    s.placeCohort know l l.nextCohort (l.rcd.blocks l.nextCohort) (fun _ => true) = some shares → (l.nextCohort ≠ 0 ∨ l.rcd.headroom = 0) →
    s.admitOne know l (fun _ => true) = some (s.admitCohort l shares none))
  ∧ (∀ (s : State) (l : Launch) (shares : List Share) (unitOf : Option Nat),
    let u := s.admitCohort l shares unitOf
    (∃ k ∈ u.cohorts, k.launch = l.num ∧ k.num = l.nextCohort ∧ k.shares = shares ∧ k.unitOf = unitOf ∧ k.phase.arrived = [])
    ∧ (∀ m ∈ u.launches, m.num = l.num → m.nextCohort = l.nextCohort + 1)
    ∧ ∃ new, u.ctxs = s.ctxs ++ new ∧ (∀ y ∈ new, Admitted l y)
      ∧ ∀ h ∈ shares, ∀ c ∈ cohortItems l.rcd l.nextCohort, c / 64 ∈ h.blocks → ∃ y ∈ new, y.core = h.core ∧ c ∈ y.cs)
  ∧ (∀ (s : State) (m : Nat),
    (s.leader m = m → Idle (.distributorReport m) s)
    ∧ (s.leader m ≠ m → ∃ u, exec (.distributorReport m) s = .next u ∧ u = { s with reports := u.reports }
        ∧ (∀ t < 30, ∃ r ∈ u.reports, r.core = sliceCore m t ∧ r.free = s.freeOf (sliceCore m t)
            ∧ r.amps = s.currentRoom (m / 4) - s.currentUsed (m / 4))
        ∧ ∀ r, sliceOf r.core ≠ m → (r ∈ u.reports ↔ r ∈ s.reports ∨ r ∈ s.reportsOf m)))
  ∧ (∀ (s : State) (l : Launch), s.launch? l.num = some l →
    (s.launchDone l = false → Idle (.launchComplete l.num) s)
    ∧ (s.launchDone l = true → l.rcd.tokenOk = false → ∃ u, exec (.launchComplete l.num) s = .next u ∧ u.launch? l.num = none ∧ u.mem = s.mem
        ∧ ((∀ o ∈ s.ops, o.launch = l.num → o.dst = []) → ∀ k ∈ u.cohorts, k.launch ≠ l.num))
    ∧ ∀ k, s.launchDone l = true → l.rcd.tokenOk = true → l.noToken = false →
        s.deviceWaits 0 l.num [0] = false → localAt s l.slice l.asid l.rcd.token 16 .store k → s.dirEntry (lineOf k) = none →
        homeField k = l.slice / 4 → k % 16 = 0 → s.mem.wf = true →
        ∃ u, exec (.launchComplete l.num) s = .next u ∧ u.launch? l.num = none
          ∧ ∀ j < 16, u.mem.read (k + j) = l.tokenBytes.getD j 0)
  ∧ (∀ l : Launch, l.tokenBytes.length = 16 ∧ leNat (l.tokenBytes.take 4) = (if l.num < 2 ^ 32 then l.num else 0)
      ∧ (l.final = if l.reason ≠ 0 then 2 else if l.dep = .failed then 3 else if l.status = 0 then 1 else l.status))
  ∧ ∀ (s : State) (l p : Launch) (w : Nat × Item), s.launch? l.num = some l → l.parent.bind s.launch? = some p →
      (l.nextCohort ≠ 0 → Idle (.launchDoneWatchdog l.num) s)
      ∧ (l.nextCohort = 0 → argMin (fun v => v.2.since) (s.childWaiters l.num) = some w →
        let lim := s.fieldClocks (fieldOf ((s.ctx? w.1).map Ctx.core |>.getD 0)) (2 ^ p.rcd.barLog)
        let t : State := { s with clock := max s.clock (w.2.since + lim) }
        let late := (s.childWaiters l.num).filter fun v => v.1 == w.1 && v.2.pc == w.2.pc && decide (v.2.since + lim ≤ t.clock)
        exec (.launchDoneWatchdog l.num) s
          = .next ((t.faultSome w.1 0x09 (late.map fun v => v.2.c) w.2.pc (.ofNat 64 l.num) false).cancel l.num))

namespace Sys2Proof.Claims

/-- An invalidation command (R81): its event, KIND, and the TLB entries and cached table entries it matches. -/
structure InvalRow where
  instr : Instr
  kind : Nat
  hit : TlbEntry → Prop
  tab : WalkEntry → Prop

/-- The three kinds of invalidation of an address space, at the page that the address registers name. -/
def invalidations (slice asid page : Nat) : List InvalRow :=
  [{ instr := .fwsInvalidatePage slice asid, kind := 0,
     hit := fun e => e.asid = asid ∧ e.leaf.page ≤ page ∧ page < e.leaf.page + e.leaf.pages,
     tab := fun e => e.asid = asid ∧ e.span = page * 65536 / 2 ^ levelShift e.level },
   { instr := .fwsInvalidateAsid slice asid, kind := 1, hit := fun e => e.asid = asid, tab := fun e => e.asid = asid },
   { instr := .fwsInvalidateSlice { slice := slice, asid := asid }, kind := 2, hit := fun _ => True, tab := fun _ => True }]

end Sys2Proof.Claims

open Sys2Proof Sys2Proof.Machine Sys2Proof.Claims

def Sys2Proof.Claims.MissesAreWalked : Prop :=
  (∀ (s : State) (walk : Nat), (∀ f, (s.nextWalk f).map Walk.id ≠ some walk) → Idle (.tlbMissWalk walk) s)
  ∧ (∀ (s : State) (k : Walk), s.walks.find? (fun j => j.id == k.id) = some k → s.nextWalk k.field = some k →
    ∃ u, exec (.tlbMissWalk k.id) s = .next u ∧ u = { s with walks := u.walks, fields := u.fields } ∧ u.walks.length = s.walks.length
      ∧ (∀ j ∈ u.walks, j.id = k.id → j.started = true) ∧ (∀ j ∈ s.walks, j.id ≠ k.id → j ∈ u.walks)
      ∧ (k.field < s.fields.length → (u.fields.getD k.field FieldSt.reset).turn = (k.slice + 1) % 16))
  ∧ ∀ (s : State) (k : Walk), s.walks.find? (fun j => j.id == k.id && j.started) = some k →
    let found := (s.walkIn k.field k.slice k.asid k.page).1
    (∀ r ∈ (s.walkIn k.field k.slice k.asid k.page).2, r.cached = true ∨ s.gatedTo (4 * k.field) (s.localPhys k.slice r.off) = false) →
    (∀ l, found = .leaf l → (∀ j ∈ s.coveredBy k (.leaf l), ∀ w ∈ j.waiters, l.permits w.access = true) →
      ∃ u, exec (.walkComplete k.id) s = .next u ∧ u.mem = s.mem ∧ (∀ j ∈ u.walks, j.id ≠ k.id)
        ∧ (k.fresh = true → ∀ w ∈ k.waiters, u.tlbLeaf w.core k.slice k.asid k.page = some l)
        ∧ (k.fresh = false → ∀ w ∈ k.waiters, l ∈ u.lentTo w.ctx w.copy)
        ∧ ∀ x ∈ u.ctxs, ∀ t ∈ x.items, t.wait ≠ .walk k.id)
    ∧ (found = .absent → ∃ u, exec (.walkComplete k.id) s = .next u ∧ (∀ j ∈ u.walks, j.id ≠ k.id)
        ∧ ∀ w ∈ k.waiters, ∃ p ∈ u.pfaults, p.asid = k.asid ∧ p.page = k.page ∧ p.kind = 0 ∧ w ∈ p.waiters)
    ∧ ∀ w c, found = .malformed → k.waiters = [w] → w.copy = some c → (∀ v ∈ s.copies, v.id = c → v.force = none) → ∃ u, exec (.walkComplete k.id) s = .next u
        ∧ ∀ v ∈ u.copies, v.id = c → v.force = some 4

def Sys2Proof.Claims.PageFaultsAreRecorded : Prop :=
  ∀ (s : State) (slice : Nat) (p : PFault) (seq : Nat), let lead := s.leader slice
    let head := (s.vreg lead 0x424).toNat % 256
    let at' := fieldOfWord (s.vreg lead 0x420) 0 28 * 4096 + 16 * head
    s.unrecorded lead = some p → s.pfRoom lead = true → seq = (s.slice lead).pfSeq → s.holdersOf lead at' 16 = none →
    s.mem.wf = true → lead < s.slices.length → (∀ j < 16, Phys.isLocal (s.localPhys lead (at' + j)) = true) →
    ∃ u, exec (.pageFaultRecord slice seq) s = .next u ∧ u.ctxs = s.ctxs
      ∧ (∀ j < 16, u.mem.read (s.localPhys lead (at' + j)) = (p.record (s.waitingOn p) seq).getD j 0)
      ∧ u.vreg lead 0x424 = .ofNat 32 ((head + 1) % 256) ∧ (u.slice lead).pfSeq = (seq + 1) % 65536
      ∧ ∀ q ∈ u.pfaults, q.id = p.id → q.seq = some seq

def Sys2Proof.Claims.InvalidationsDropWhatTheyMatch : Prop :=
  (∀ (s : State) (slice asid : Nat),
    let page := fieldOfWord (s.vreg slice 0x408) 16 16 + fieldOfWord (s.vreg slice 0x40C) 0 16 * 65536
    ∀ r ∈ invalidations slice asid page,
      (s.serves slice = false → Idle r.instr s)
      ∧ ((s.vreg slice 0x414).getLsbD 0 = true → Idle r.instr s)
      ∧ (s.serves slice = true → (s.vreg slice 0x414).getLsbD 0 = false → ∃ u v, exec r.instr s = .next u
          ∧ u = { s with tlb := u.tlb, ctlb := u.ctlb, wcache := u.wcache, walks := u.walks, invals := s.invals ++ [v], regs := u.regs }
          ∧ (∀ e, e ∈ u.tlb ↔ e ∈ s.tlb ∧ ¬ (e.slice = slice ∧ r.hit e)) ∧ (∀ e, e ∈ u.ctlb ↔ e ∈ s.ctlb ∧ ¬ (e.slice = slice ∧ r.hit e))
          ∧ (∀ e, e ∈ u.wcache ↔ e ∈ s.wcache ∧ ¬ (e.slice = slice ∧ r.tab e))
          ∧ (u.vreg slice 0x414).getLsbD 0 = true ∧ u.vreg slice 0x410 = .ofNat 32 (r.kind * 2 ^ 16 + asid % 256)
          ∧ v.slice = slice ∧ v.mark = s.nextId ∧ (∀ n, n ∈ v.walks ↔ ∃ k ∈ s.walks, k.slice = slice ∧ k.started = true ∧ k.id = n)
          ∧ (∀ n, n ∈ v.ops ↔ ∃ o ∈ s.ops, s.leader (sliceOf o.core) = slice ∧ o.memory = true ∧ o.id = n)
          ∧ (∀ n, n ∈ v.asu ↔ ∃ q ∈ s.asu, s.leader (sliceOf q.core) = slice ∧ q.waiting = false ∧ q.id = n)
          ∧ ∀ k ∈ u.walks, k.id ∈ v.walks → k.fresh = false))
  ∧ ∀ (s : State) (slice : Nat) (v : Inval), s.invals.find? (fun w => w.slice == s.leader slice) = some v →
    s.leader (s.leader slice) = s.leader slice →
    (s.invalDone v = false → Idle (.invalidationDone slice) s)
    ∧ (s.invalDone v = true → ∃ u, exec (.invalidationDone slice) s = .next u ∧ u = { s with invals := u.invals, regs := u.regs }
        ∧ u.vreg slice 0x414 = 2 ∧ ∀ w ∈ u.invals, w.slice ≠ s.leader slice)

def Sys2Proof.Claims.PageFaultsAreReplayedOrFailed : Prop :=
  ∀ (s : State) (slice seq : Nat),
    ((∀ p ∈ s.pfaults, s.serves slice = false ∨ p.slice ≠ slice ∨ p.seq ≠ some seq) → Idle (.fwsReplay slice seq) s ∧ Idle (.fwsFail slice seq) s)
    ∧ ∀ p, s.serves slice = true → s.pfaults.find? (fun q => q.slice == slice && q.seq == some seq) = some p →
      p.waiters ≠ [] → (∀ w ∈ p.waiters, w.ctx.isSome = true ∧ w.copy = none ∧ w.whole = false) →
      (∃ u, exec (.fwsReplay slice seq) s = .next u ∧ u.pfaults = s.pfaults.filter (fun q => q.id != p.id) ∧ u.faults = s.faults
        ∧ u.ctxs.map (fun x => (x.id, x.items)) = s.ctxs.map fun x => (x.id, x.items.map fun t =>
            if t.wait = .pageFault p.id then
              { t with pc := t.entry.pc, region := t.entry.region, place := t.entry.place, wait := .quiet } else t))
      ∧ ∃ u, exec (.fwsFail slice seq) s = .next u ∧ u.pfaults = s.pfaults.filter (fun q => q.id != p.id)
          ∧ ∀ x ∈ s.ctxs, (s.launch? x.launch).isSome → ∀ t ∈ x.items, t.wait = .pageFault p.id →
              (∃ w ∈ p.waiters, w.launch = x.launch ∧ w.cohort = x.cohort ∧ t.c ∈ w.items) →
              ∃ f ∈ u.faults, f.cause = 0x04 ∧ f.launch = x.launch ∧ f.cohort = x.cohort ∧ t.c ∈ f.items

/-- Walks install translations or record page faults; invalidations, replays and failures act on their waiters (R68 to R81;
log entries 12, 43). -/
def Obligations.TranslationsAreWalkedRecordedAndInvalidated : Prop :=
  Sys2Proof.Claims.MissesAreWalked ∧ Sys2Proof.Claims.PageFaultsAreRecorded ∧ Sys2Proof.Claims.InvalidationsDropWhatTheyMatch
    ∧ Sys2Proof.Claims.PageFaultsAreReplayedOrFailed

namespace Sys2Proof.Claims

/-- The bytes of a write wait at their homes (R102). -/
def Queued (s u : State) (cells : List (Nat × Byte)) : Prop :=
  u.mem = s.mem ∧ (∀ w ∈ s.homeWrites, w ∈ u.homeWrites) ∧ ∀ b ∈ cells, ∃ w ∈ u.homeWrites, s.nextId ≤ w.id ∧ b ∈ w.cells

/-- The answer is given, and nothing else changes. -/
def Replies (j : Instr) (s : State) (r : Resp) : Prop := exec j s = .next { s with resp := some r }

end Sys2Proof.Claims

open Sys2Proof Sys2Proof.Machine Sys2Proof.Claims

/-- Peers and the host read and write the package's memory, windows and lines as they may (R65, R100 to R102, R460, R465,
R474, R504; log entries 69, 70). -/
def Obligations.AccessesFromOutsideAreServed : Prop :=
  (∀ (s : State) (r : PeerAccess),
    let k := r.home * 2 ^ 36 + r.off
    (s.peerMay r false = .silent → Idle (.peerReadRequest r) s)
    ∧ (∀ t, s.peerMay r false = .answer t → exec (.peerReadRequest r) s = .next t ∧ (t.resp = some .refused ∨ t.resp = some .retry) ∧ t.mem = s.mem)
    ∧ ∀ t, s.peerMay r false = .admitted t → t.pullAt k r.len = none →
      (t.writeWaits (rangeLines k r.len) = true → exec (.peerReadRequest r) s = .next (t.reply .retry))
      ∧ (t.writeWaits (rangeLines k r.len) = false → t.poisoned k r.len = false →
        (t.trackAll (rangeLines k r.len) fun d => d.addPeer r.pkg r.slice).1 = true → errorsMendable t →
        ∃ u, exec (.peerReadRequest r) s = .next u ∧ u.resp = some (.bytes (s.mem.readList k r.len)) ∧ u.mem = s.mem
          ∧ ∀ n ∈ rangeLines k r.len, (u.dirEntry n).isSome))
  ∧ (∀ (s : State) (r : PeerAccess) (bs : List Byte),
    let k := r.home * 2 ^ 36 + r.off
    (s.peerMay r true = .silent → Idle (.peerWriteRequest r bs) s)
    ∧ (∀ t, s.peerMay r true = .answer t → exec (.peerWriteRequest r bs) s = .next t ∧ (t.resp = some .refused ∨ t.resp = some .retry) ∧ t.mem = s.mem)
    ∧ ∀ t, s.peerMay r true = .admitted t → t.pullAt k r.len = none →
      (r.atomic = none → ∃ u, exec (.peerWriteRequest r bs) s = .next u
        ∧ u = { t with homeWrites := u.homeWrites, nextId := u.nextId } ∧ Queued t u (cellsFrom k (bs.take r.len))
        ∧ ∀ w ∈ u.homeWrites, w ∈ t.homeWrites ∨ w.peer = true)
      ∧ ∀ op uns w64 ftz, r.atomic = some (.plain op uns w64 ftz) →
        t.writeWaits (rangeLines k r.len) = false → (∀ n ∈ rangeLines k r.len, t.dirEntry n = none) →
        t.poisoned k (if w64 then 8 else 4) = false → errorsMendable t → k + 8 ≤ 2 ^ 40 →
        ∃ u, exec (.peerWriteRequest r bs) s = .next u ∧ u.resp = some (.bytes (s.mem.readList k (if w64 then 8 else 4))))
  ∧ (∀ (s : State) (slice line : Nat) (kind : SnoopKind), Phys.isHost (line * 128) = true →
    (s.l2Line? slice line = none → Replies (.hostSnoop slice line kind) s .ok)
    ∧ ∀ l, s.l2Line? slice line = some l → s.hostOwner? line = some l → l.bytes.length = 128 → s.host.wf = true →
      errorsMendable s → l.bad = [] →
      ∃ u, exec (.hostSnoop slice line kind) s = .next u ∧ u.resp = some (.bytes l.bytes) ∧ u.mem = s.mem
        ∧ (kind = .current → u = { s with resp := u.resp, l2err := u.l2err })
        ∧ (kind ≠ .current → ∀ j < 128, u.host.read (line * 128 - physHost + j) = l.bytes.getD j 0)
        ∧ (kind = .share → (u.l2Line? slice line) = some { l with dirty := false })
        ∧ (kind = .invalidate → u.l2Line? slice line = none))
  ∧ (∀ (s : State) (slice off n : Nat),
    (s.serves slice = true → off + n ≤ 65536 →
      Replies (.hostMemoryRead slice off n) s (.bytes (s.window.readList (slice * 65536 + off) n)))
    ∧ (65536 < off + n → s.rangeParked slice off = true → Replies (.hostMemoryRead slice off n) s .retry)
    ∧ (65536 < off + n → s.rangeParked slice off = false → s.rangeOffset slice off n = none →
        Replies (.hostMemoryRead slice off n) s .poison)
    ∧ ∀ o, 65536 < off + n → s.rangeParked slice off = false → s.rangeOffset slice off n = some o →
      let lines := ((List.range n).map fun j => lineOf (s.localPhys slice (o + j))).foldl (fun acc k => insertNat k acc) []
      (s.hostMay slice = false → Replies (.hostMemoryRead slice off n) s .poison)
      ∧ (s.hostMay slice = true → s.pullPage slice o n = none → s.writeWaits lines = false →
        s.gatedIn (s.hostField slice off) lines = false → s.localPoisoned slice o n = false →
        (s.trackAll lines fun d => { d with host := true }).1 = true → errorsMendable s →
        ∃ u, exec (.hostMemoryRead slice off n) s = .next u ∧ u.resp = some (.bytes (s.readLocal slice o n)) ∧ u.mem = s.mem))
  ∧ (∀ (s : State) (slice off : Nat) (bs : List Byte),
    (s.serves slice = true → off + bs.length ≤ 65536 → s.closed slice = false → s.window.wf = true → s.slices.length = 16 →
      ∃ u, exec (.hostMemoryWrite slice off bs) s = .next u ∧ u = { s with window := u.window, slices := u.slices }
        ∧ (∀ k, u.window.read k = if slice * 65536 + off ≤ k ∧ k < slice * 65536 + off + bs.length
            then bs.getD (k - (slice * 65536 + off)) 0 else s.window.read k)
        ∧ (∀ n, n ∈ (u.slice slice).parseQ ↔ n ∈ (s.slice slice).parseQ
            ∨ (n < 512 ∧ s.window.read (slice * 65536 + 128 * n + 127) = 0 ∧ u.window.read (slice * 65536 + 128 * n + 127) ≠ 0)))
    ∧ (65536 < off + bs.length → s.rangeParked slice off = true → Replies (.hostMemoryWrite slice off bs) s .retry)
    ∧ ∀ o, 65536 < off + bs.length → s.rangeParked slice off = false → s.rangeOffset slice off bs.length = some o →
      (s.hostMay slice = false → Idle (.hostMemoryWrite slice off bs) s)
      ∧ (s.hostMay slice = true → s.pullPage slice o bs.length = none → s.slices.length = 16 →
        ∃ u, exec (.hostMemoryWrite slice off bs) s = .next u ∧ (∀ n ∈ s.members slice, (u.slice n).hostw = true)
          ∧ Queued s u ((List.range bs.length).map fun j => (s.localPhys slice (o + j), bs.getD j 0))))
  ∧ (∀ s : State, (s.portH = false → Idle .portHDown s) ∧ (s.portH = true → Idle .portHUp s)
    ∧ (s.portH = true → ∃ u, exec .portHDown s = .next u ∧ u.portH = false ∧ u.ctxs = s.ctxs
        ∧ ((∀ e ∈ s.edges, e.hostPath = false) → ∀ l ∈ u.l2, Phys.isHost (l.line * 128) = false)
        ∧ ((∃ e ∈ s.edges, e.hostPath = true) → u.l2 = s.l2 ∧ u.mem = s.mem))
    ∧ (s.portH = false → ∃ u, exec .portHUp s = .next u ∧ u.portH = true ∧ u.l2 = s.l2 ∧ u.mem = s.mem ∧ u.ctxs = s.ctxs))

/-- Copies, publishes, current grants and matrix tasks run to their end (R120 to R131, R137, R297 to R304, R478 to R481; log
entries 25, 26, 29, 30). -/
def Obligations.CopiesPublishesAndTasksRunToTheirEnd : Prop :=
  (∀ (s : State) (c : Copy) (l : Launch) (link : LinkResult), s.copies.find? (fun k => k.id == c.id) = some c → s.launch? c.launch = some l →
    (s.copyReady c = false → Idle (.copyComplete c.id link) s)
    ∧ (∀ n, s.copyReady c = true → c.force = some n → (n = 1 ∨ n = 2 ∨ c.marked = true ∨ s.restHeld c l.rcd c.desc5 = false) →
      c.desc5.tok = 0 → (∀ k ∈ s.copies, k.core = c.core → k.seq = c.seq → k.id = c.id) → c.seq ≠ 0 → c.resumed = false →
      ∃ u, exec (.copyComplete c.id link) s = .next u ∧ (∀ k ∈ u.copies, k.id ≠ c.id) ∧ u.copyStatus c.core c.seq = n ∧ u.mem = s.mem
        ∧ u.ops = s.ops.filter (fun o => o.kind != .copy c.id))
    ∧ ∀ rs, s.copyReady c = true → c.force = none → c.pos = 0 → c.moved = 0 → c.desc5.chunks.length ≤ 128 → c.desc5.tok = 0 →
      ((s.readSources c c.desc5 link c.desc5.chunks).fillSources c c.desc5 link c.desc5.chunks).readyList c l.rcd c.desc5 link 0 c.desc5.chunks = (rs, none) → (∀ q ∈ rs, q.keys = []) →
      s.shelf.wf = true → c.seq ≠ 0 → c.resumed = false →
      (∀ k ∈ s.copies, k.core = c.core → k.seq = c.seq → k.id = c.id) → rs.length = c.desc5.chunks.length →
      let cells := rs.flatMap fun q => q.shelf.flatMap fun a => (List.range q.bytes.length).map fun j => (a.key + j, q.bytes.getD j 0)
      ∃ u, exec (.copyComplete c.id link) s = .next u ∧ (∀ k ∈ u.copies, k.id ≠ c.id) ∧ u.copyStatus c.core c.seq = 1 ∧ u.mem = s.mem
        ∧ ∀ k, u.shelf.read k = (lastAt cells k).getD (s.shelf.read k))
  ∧ (∀ (s : State) (slice win : Nat) (p : Publ), s.publ? slice win = some p →
    let r := 0x804 + 16 * win
    (s.flipDue p = false → Idle (.publPhaseFlip slice win) s)
    ∧ (s.flipDue p = true → ∃ u, exec (.publPhaseFlip slice win) s = .next u ∧ u = { s with publs := u.publs, regs := u.regs, l1 := u.l1 }
        ∧ (∀ w ∈ s.l1, (∃ b ∈ w.bytes, b.1 ∈ w.dirty) → ∃ v ∈ u.l1, v = { w with bytes := v.bytes } ∧ ∀ b ∈ w.bytes, b.1 ∈ w.dirty → b ∈ v.bytes)
        ∧ (∀ j < 32, (u.vreg slice r).getLsbD j = if j = 30 then !(s.vreg slice r).getLsbD 30 else (s.vreg slice r).getLsbD j)
        ∧ ∀ q ∈ u.publs, q.id = p.id → q.flipped = true)
    ∧ (s.publOver p = false → Idle (.publDone slice win) s)
    ∧ (s.publOver p = true → ∃ u, exec (.publDone slice win) s = .next u ∧ u = { s with publs := u.publs, ctxs := u.ctxs, copies := u.copies, slices := u.slices }
        ∧ u.publs = s.publs.filter (fun q => q.id != p.id)
        ∧ u.ctxs.map (fun x => (x.id, x.items)) = s.ctxs.map (fun x => (x.id, x.items.map fun t =>
            if t.wait = .publ p.id then { t with wait := .none, since := s.clock } else t))
        ∧ u.copies = s.copies.map fun c => { c with held := if c.held = some p.id then none else c.held }))
  ∧ (∀ (s : State) (cluster : Nat),
    (s.nextGrant cluster = none → Idle (.currentGrant cluster) s)
    ∧ ∀ q, s.nextGrant cluster = some q → q ∈ s.curReqs ∧ q.granted = false ∧ clusterOf q.core = cluster ∧ s.fitsCurrent q = true
      ∧ (∀ p ∈ s.curReqs, p.granted = false → clusterOf p.core = cluster → s.fitsCurrent p = true → p = q ∨ s.goesBefore p q = false)
      ∧ exec (.currentGrant cluster) s
          = .next { s with curReqs := s.curReqs.map fun p => if p = q then { p with granted := true, began := s.cycles q.core } else p })
  ∧ (∀ (s : State) (t : TaskRec) (r : LaunchRec), s.tasks.find? (fun v => v.id == t.id) = some t → s.taskRcd t = some r →
    (s.startable t = none → Idle (.taskStart t.id) s)
    ∧ (∀ e, s.startable t = some e → s.granted 0 t.id = false → Idle (.taskStart t.id) s)
    ∧ (∀ e, s.startable t = some e → s.granted 0 t.id = true → t.mcast = 0 → ∃ u, exec (.taskStart t.id) s = .next u
        ∧ u = { s with tasks := u.tasks, slots := u.slots, banks := u.banks, grans := u.grans } ∧ (u.taskSlot t).bank.isSome
        ∧ ∀ v ∈ u.tasks, v.id = t.id → v.state = .running ∧ v.engine = some e)
    ∧ (∀ n e, t.readySince = some n → t.mcast ≠ 0 → s.granted 0 t.id = true →
      let till := n + s.fieldClocks (fieldOf t.core) 1024
      let s' : State := { s with clock := max s.clock till }
      s'.startable t = some e → s.startable t = some e → s'.fullSet t = none → ∃ u, exec (.multicastPartnerTimeout t.id) s = .next u
        ∧ u.clock = max s.clock till ∧ (u.taskSlot t).bank.isSome ∧ ∀ v ∈ u.tasks, v.id = t.id → v.state = .running ∧ v.engine = some e)
    ∧ (∀ b, t.kind = 0 → t.state = .running → (s.taskSlot t).bank = some b → let run := t.run s.free
      (s.granted 0 t.id = false → Idle (.taskOperandReadsComplete t.id) s)
      ∧ (s.granted 0 t.id = true → run.any (s.stepPoison t r) = false → ∃ u, exec (.taskOperandReadsComplete t.id) s = .next u
        ∧ u = { s with tasks := u.tasks, banks := u.banks, grans := u.grans, cores := u.cores, curReqs := u.curReqs, free := u.free }
        ∧ u.bank b = (if (s.bank b).poison then s.bank b else { s.bank b with elems := s.addMma t r run (s.bank b).elems })
        ∧ (∃ v, u.tasks.find? (fun v => v.id == t.id) = some v ∧ v.added = t.added ++ run
            ∧ v.state = if t.left.length ≤ 8 then .readsDone else .running)
        ∧ (u.coreSt b.1).zeros = (s.coreSt b.1).zeros + (run.map (s.stepZeros t r)).sum
        ∧ (8 < t.left.length → u.grans = s.grans ∧ s.free + run.length < u.free))
      ∧ (s.granted 0 t.id = true → run.any (s.stepPoison t r) = true → ∃ u f, exec (.taskOperandReadsComplete t.id) s = .next u
        ∧ (u.bank b).poison = true ∧ (∀ v ∈ u.tasks, v.id ≠ t.id) ∧ u.taskFails = s.taskFails ++ [f] ∧ f.cause = 0x0A ∧ f.acc = t.acc
        ∧ f.item = t.item ∧ f.flag = t.flag))
    ∧ (t.kind = 0 → t.state = .readsDone → ∃ u, exec (.taskComplete t.id) s = .next u ∧ u = { s with tasks := u.tasks, ops := u.ops, curReqs := u.curReqs }
        ∧ u.tasks = s.tasks.filter (fun v => v.id != t.id) ∧ u.ops = s.ops.filter (fun o => o.kind != .task t.id))
    ∧ (∀ b, t.kind = 1 → t.state = .running → (s.taskSlot t).bank = some b → ∃ u, exec (.taskComplete t.id) s = .next u
        ∧ u.bank b = { core := b.1, num := b.2, elems := [], poison := false } ∧ u.tasks = s.tasks.filter fun v => v.id != t.id)
    ∧ (∀ b, t.kind = 2 → t.state = .running → (s.taskSlot t).bank = some b → s.drainFree t = true →
        exec (.taskComplete t.id) s = .next ((s.writeDrain t r (s.bank b) ((s.bank b).poison || t.poisoned)).endDrain t))
    ∧ (t.kind = 8 ∨ t.kind = 9 → t.state = .posted → s.taskAllowed t = true → ∃ u, exec (.taskComplete t.id) s = .next u
        ∧ u.tasks = s.tasks.filter fun v => v.id != t.id)
    ∧ ∀ n, t.kind = 0 → t.state = .posted → t.allowedSince = some n →
      (s.taskReady t = true → Idle (.taskReadinessWatchdog t.id) s)
      ∧ (s.taskReady t = false → ∃ u f, exec (.taskReadinessWatchdog t.id) s = .next u ∧ u.clock = max s.clock (n + s.fieldClocks (fieldOf t.core) (2 ^ r.barLog))
        ∧ (∀ v ∈ u.tasks, v.id ≠ t.id) ∧ u.taskFails = s.taskFails ++ [f] ∧ f.cause = 0x09 ∧ f.item = t.item))
  ∧ (∀ (s : State) (t : TaskRec), (s.endDrain t).tasks = s.tasks.filter (fun v => v.id != t.id)
      ∧ (s.endDrain t).ops = s.ops.filter (fun o => o.kind != .task t.id) ∧ (t.rel = true → ((s.endDrain t).taskSlot t).bank = none))
  ∧ ∀ (s : State) (c : Chain), s.tasks.find? (fun t => t.id == c.id) = none → s.chains.find? (fun d => d.id == c.id) = some c →
      s.chainDue c = true → c.report = none →
      ∃ u, exec (.taskComplete c.id) s = .next u ∧ u = { s with chains := s.chains.filter (fun d => d.id != c.id), regs := u.regs }
        ∧ u.vreg (sliceOf c.core) 0xA00 = .ofNat 32 (min ((s.vreg (sliceOf c.core) 0xA00).toNat + c.sats) 0xFFFFFFFF)
        ∧ u.vreg (sliceOf c.core) 0xA04 = .ofNat 32 (min ((s.vreg (sliceOf c.core) 0xA04).toNat + c.nans) 0xFFFFFFFF)

/-- Deadlines of cuts, joins, waits, barriers and signals take effect at their time (R185, R194, R197, R211, R370, R376, R383;
log entry 10). -/
def Obligations.DeadlinesTakeEffectWhenTheyPass : Prop :=
  (∀ (s : State) (x : Ctx) (l : Launch), s.ctx? x.id = some x → s.launch? x.launch = some l →
    (∀ n, x.pending = some n → s.placeFor x = true → exec (.pendingRemainderCut x.id) s = .next (s.materialise x l.rcd))
    ∧ (x.pending = none ∨ s.placeFor x = false → Idle (.pendingRemainderCut x.id) s)
    ∧ (∀ n t rest, x.pending = some n → x.unfaulted = t :: rest →
      exec (.pendingRemainderWatchdog x.id) s
        = .next (({ s with clock := max s.clock (n + s.fieldClocks (fieldOf x.core) (2 ^ l.rcd.barLog)) } : State).faultItems x.id 0x09
            (x.unfaulted.map Item.c) t.pc 0 false))
    ∧ (∀ c, (∃ t ∈ x.items, t.c = c ∧ t.parked = true) →
      (s.openStrand x = true → exec (.soloCut x.id c) s = .next (s.cutSolo x.id c).settleJoins)
      ∧ (s.openStrand x = false → Idle (.soloCut x.id c) s))
    ∧ (∀ i low, argMin Item.count (s.starved x) = some i →
      let t : State := { s with clock := max s.clock (i.count + s.fieldClocks (fieldOf x.core) (2 ^ l.rcd.barLog)) }
      argMin (fun j : Item => j.pc.toNat) (x.items.filter fun j => !t.waits x j) = some low →
      exec (.starvationWatchdog x.id) s
        = .next (t.faultItems x.id 0x09 ((x.items.filter fun j => !t.waits x j && j.pc == low.pc).map Item.c) low.pc 0 false))
    ∧ (∀ till, x.joinTill = some till → ∃ u y, exec (.joinDeadline x.id) s = .next u ∧ u = { s with clock := max s.clock till, ctxs := u.ctxs }
        ∧ u.ctx? x.id = some y ∧ (∀ n, n ≠ x.id → u.ctx? n = s.ctx? n) ∧ y = { x with items := y.items }
        ∧ y.items.map (fun t => (t.c, t.pc, t.wait)) = x.items.map fun t => (t.c, t.pc + 12, .none))
    ∧ (∀ n, (∃ t ∈ x.items, t.wait = .clock n) → (∀ t ∈ x.items, ∀ k, t.wait = .clock k → n ≤ k) →
      ∃ u y, exec (.waitClkExpiry x.id) s = .next u ∧ u = { s with clock := max s.clock n, ctxs := u.ctxs }
        ∧ u.ctx? x.id = some y ∧ (∀ m, m ≠ x.id → u.ctx? m = s.ctx? m) ∧ y = { x with items := y.items }
        ∧ y.items = x.items.map fun t => match t.wait with
            | .clock k => if k ≤ max s.clock n then { t with wait := .none, since := max s.clock n } else t
            | _ => t)
    ∧ ∀ c t n till r pd scope, x.items.find? (fun i => i.c == c) = some t → t.wait = .sigw n till → s.asu.find? (fun q => q.id == n) = some r →
      r.kind.waits = some (pd, scope) → r.fromPeer = false →
      let cs := (x.items.filter fun i => i.wait == .sigw n till).map Item.c
      let left := r.items.filter fun k => !cs.contains k
      let u : State := { s with clock := max s.clock till }
      let v := u.wakeReq r cs false 0x09
      exec (.sigwTimeout x.id c) s = .next (if v.asu.any (fun q => q.id == n) then v else v.askObject r.core r.launch r.key .idle)
        ∧ ((∀ y ∈ s.ctxs, y.id ≠ x.id → ∀ i ∈ y.items, ∀ k, i.wait ≠ .sigw n k) → s.ctxs.Pairwise (fun y z => y.id ≠ z.id) →
          v = (if left.isEmpty then u.dropReq r else { u with asu := s.asu.map fun q => if q.id == n then { q with items := left } else q }).wakeItems
            x.id cs pd r.pc false 0x09 r.va scope))
  ∧ (∀ (s : State) (x : Ctx) (c : Nat), s.ctx? x.id = some x → x.kind = .strand → s.openStrand x = true → c ∈ x.cs →
    (∀ y ∈ s.ctxs, y.id < s.nextId) → ∃ y, (s.cutSolo x.id c).ctx? s.nextId = some y ∧ y.kind = .solo ∧ y.core = x.core
      ∧ (∀ k, k ∈ y.cs ↔ k = c) ∧ (∀ t ∈ y.items, t.parked = false) ∧ ∀ r n, y.xAt r n c = x.xAt r n c ∧ y.qAt n c = x.qAt n c ∧ y.pAt r n c = x.pAt r n c)
  ∧ (∀ (s : State) (g : GroupRef),
    (s.phaseDeadline g = none → Idle (.groupPhaseWatchdog g) s)
    ∧ ∀ d, s.phaseDeadline g = some d → ∃ u p, exec (.groupPhaseWatchdog g) s = .next u ∧ u.clock = max s.clock d ∧ u.mem = s.mem
        ∧ u.phase? g = some p ∧ p.broken = true ∧ p.cause = 0x09 ∧ p.arrived = [] ∧ p.since = none)
  ∧ ∀ (s : State) (d : BarDeadline), (s.voidDeadline d.key).barDl.find? (fun b => b.key == d.key) = some d → d.key % 64 = 0 → d.key + 64 ≤ 2 ^ 40 → s.mem.wf = true →
      s.dirEntry (lineOf d.key) = none → s.mem.read (d.key + 12) ≠ 1 → ∃ u, exec (.countedBarrierDeadline d.key) s = .next u ∧ u.clock = max s.clock d.till ∧ (∀ b ∈ u.barDl, b.key ≠ d.key)
        ∧ u.mem.read (d.key + 12) = 1 ∧ u.mem.read (d.key + 13) = 9

namespace Sys2Proof.Claims

/-- An SPDM request to a present slice: at an earlier stage of the connection it is answered by an error; from that stage on it
has its effect (R441). -/
def SpdmStep (j : Instr) (slice stage : Nat) (effect : State → State → Prop) : Prop :=
  ∀ s : State, (s.present slice = false → Idle j s)
    ∧ (s.present slice = true → (s.slice slice).spdm.stage < stage → Replies j s (.error 4))
    ∧ (s.present slice = true → s.slices.length = 16 → stage ≤ (s.slice slice).spdm.stage → ∃ u, exec j s = .next u ∧ effect s u)

/-- Only the responder of a slice and the answer may have changed. -/
def OnlySpdm (s u : State) (slice : Nat) (p : Spdm) (r : Resp) : Prop :=
  u = { s with slices := u.slices, resp := some r } ∧ u.slice slice = { s.slice slice with spdm := p } ∧ ∀ n, n ≠ slice → u.slice n = s.slice n

/-- The answer is these bytes, and nothing else changes. -/
def Gives (bs : List Byte) (s u : State) : Prop := u = { s with resp := some (.bytes bs) }

end Sys2Proof.Claims

open Sys2Proof Sys2Proof.Machine Sys2Proof.Claims

/-- Pre-emption drains, saves, resets at T2 and resumes as its state machine says (R427 to R432; log entry 51). -/
def Obligations.PreemptionSavesAndResumes : Prop :=
  (∀ (s : State) (slice : Nat), s.leader slice ≠ slice →
    Idle (.preempt slice) s ∧ Idle (.preemptDrainComplete slice) s ∧ Idle (.preemptT1Expiry slice) s ∧ Idle (.preemptSaveComplete slice) s
      ∧ Idle (.preemptT2Expiry slice) s ∧ Idle (.preemptResume slice) s)
  ∧ ∀ (s : State) (slice : Nat), s.leader slice = slice → slice < 16 → s.slices.length = 16 →
    let v := s.slice slice
    (v.pre ≠ 0 → Idle (.preempt slice) s)
    ∧ (v.pre = 0 → s.closed slice = false → ∃ u, exec (.preempt slice) s = .next u ∧ OnlySlices s u (· = slice)
        ∧ u.slice slice = { v with pre := 1, preErr := 0, nreset := 0, preSince := s.clock })
    ∧ (v.pre = 1 → (∀ k ∈ s.cohorts, ∀ l ∈ s.launches, l.num = k.launch → s.leader l.slice ≠ slice) → s.role slice ≠ 1 →
        ∃ u, exec (.preemptDrainComplete slice) s = .next u ∧ (u.slice slice).pre = 5 ∧ (u.vreg slice 0xE88).getLsbD 31 = true
          ∧ u.ctxs = s.ctxs ∧ u.mem = s.mem)
    ∧ (v.pre = 1 → (∃ k ∈ s.cohorts, ∃ l ∈ s.launches, l.num = k.launch ∧ s.leader l.slice = slice) → Idle (.preemptDrainComplete slice) s)
    ∧ (v.pre = 1 → ∃ u, exec (.preemptT1Expiry slice) s = .next u ∧ (u.slice slice) = { v with pre := 2 }
        ∧ u = { s with clock := max s.clock (v.preSince + s.t1 slice), slices := u.slices })
    ∧ (v.ckState ≠ 2 → s.saveDue slice = false → Idle (.preemptSaveComplete slice) s)
    ∧ (let e := s.stopEngines slice
      s.saveDue slice = true → v.ckState ≠ 2 →
      (v.ckState ≠ 1 → (e.putFolio slice 1).isSome →
        ∃ u, exec (.preemptSaveComplete slice) s = .next u ∧ (u.slice slice).pre = 4 ∧ (u.vreg slice 0xE88).getLsbD 31 = true
          ∧ (u.slice slice).folio = some (e.collect slice 1).1 ∧ (u.slice slice).image = e.folioBytes (e.collect slice 1).1 slice Item.pc
          ∧ (e.collect slice 1).1.ctxs = (e.ctxsOf slice).map e.savePoint
          ∧ (∀ x ∈ u.ctxs, s.leader (sliceOf x.core) ≠ slice) ∧ ∀ x ∈ e.ctxs, s.leader (sliceOf x.core) ≠ slice → x ∈ u.ctxs)
      ∧ (v.ckState = 1 → (e.putFolio slice 4).isSome →
        ∃ u, exec (.preemptSaveComplete slice) s = .next u ∧ (u.slice slice).pre = 4 ∧ (u.slice slice).ckState = 2
          ∧ (u.slice slice).folio = some (e.collect slice 4).1)
      ∧ (v.ckState ≠ 1 → e.putFolio slice 1 = none →
        ∃ u, exec (.preemptSaveComplete slice) s = .next u ∧ (u.slice slice).pre = 4 ∧ (u.slice slice).preErr = 1))
    ∧ (v.ckState = 2 → s.buddy slice = none → ∃ u, exec (.preemptSaveComplete slice) s = .next u ∧ (u.slice slice).ckState = 3
        ∧ (v.ckGen + 1, s.ckFolio slice) ∈ (u.slice slice).ckFolios)
    ∧ (v.pre = 2 → v.ckState ≠ 1 →
        let t : State := { s with clock := max s.clock (v.preSince + s.t2 slice) }
        let xs := (s.ctxsOf slice).filter fun x => t.noSave slice || !t.mayRecord x
        let u := (t.resetCtxs xs true).endForced.setSlice slice fun v => { v with pre := 3, nreset := min (v.nreset + xs.length) 65535 }
        exec (.preemptT2Expiry slice) s = .next (if u.saveDue slice then u.save slice 1 else u))
    ∧ (v.pre = 4 ∨ v.pre = 5 ∨ (v.pre = 0 ∧ s.launchesOf slice = []) → v.ckState = 0 ∨ v.ckState = 4 → s.closed slice = false →
        let t := s.setSlice slice fun v => { v with preErr := 0 }
        let err (n : Nat) : Prop := ∃ u, exec (.preemptResume slice) s = .next u
          ∧ (u.slice slice).preErr = n ∧ (u.slice slice).pre = v.pre ∧ u.ctxs = s.ctxs ∧ u.mem = s.mem
        (fieldOfWord (s.vreg slice 0xE90) 0 20 = 0 → ∃ u, exec (.preemptResume slice) s = .next u ∧ (u.slice slice).pre = 0
          ∧ (u.slice slice).folio = none ∧ (u.vreg slice 0xE88).getLsbD 31 = true ∧ u.ctxs = s.ctxs ∧ u.mem = s.mem)
        ∧ (fieldOfWord (s.vreg slice 0xE90) 0 20 ≠ 0 → s.folioArea slice = none → err 4)
        ∧ ∀ bs, fieldOfWord (s.vreg slice 0xE90) 0 20 ≠ 0 → s.folioArea slice = some bs →
          (folioError bs (30 * (s.members slice).length) ≠ 0 → err (folioError bs (30 * (s.members slice).length)))
          ∧ (folioError bs (30 * (s.members slice).length) = 0 →
            (t.folioIn slice bs = none → err 4)
            ∧ ∀ f, t.folioIn slice bs = some f → (t.folioFits slice f = false → err 5)
              ∧ (t.folioFits slice f = true → exec (.preemptResume slice) s
                  = .next (((t.restore slice f (edited bs)).setSlice slice fun v => { v with folio := none, image := [] }).enterDone slice 0))))

/-- Group applies, slice resets, clearing and the interface states take effect (R440; also R434, R436, R438, R443 to R446; log
entries 60, 61, 63). -/
def Obligations.SlicesAreGroupedResetAndCleared : Prop :=
  (∀ s : State, s.valid = true → (s.reg 0 0x3F00).getLsbD 30 = false → s.slices.length = 16 →
    let changed := (List.range 16).filter s.groupChanges
    (s.applyError ≠ 0 → ∃ u, exec .sliceGroupApply s = .next u ∧ OnlyReg s u 0 0x3F00
        ∧ u.reg 0 0x3F00 = .ofNat 32 (s.applyError * 2 ^ 16))
    ∧ (s.applyError = 0 → ∃ u, exec .sliceGroupApply s = .next u ∧ u = { s with slices := u.slices, regs := u.regs }
        ∧ (∀ n < 16, u.slice n = { s.slice n with
            lead := if s.present n then (s.nextGroup (s.nextLead n) s.present).headD n else (s.slice n).lead,
            clearing := (s.slice n).clearing || s.groupChanges n, clean := (s.slice n).clean && !s.groupChanges n })
        ∧ u.reg 0 0x3F00 = .ofNat 32 ((if changed = [] then 0 else 2 ^ 30) + (changed.map fun n => 2 ^ n).sum)))
  ∧ (∀ (s : State) (slice : Nat), s.slices.length = 16 →
    (s.present slice = false ∨ s.closed slice = true → Idle (.sliceOnlyReset slice) s)
    ∧ (s.present slice = true → s.closed slice = false → s.role (s.leader slice) = 0 → ∃ u, exec (.sliceOnlyReset slice) s = .next u
        ∧ OnlySlices s u (· ∈ s.members slice)
        ∧ ∀ n ∈ s.members slice, u.slice n = { s.slice n with
            clearing := true, clean := false, tdisp := if (s.slice n).tdisp = 1 ∨ (s.slice n).tdisp = 2 then 3 else (s.slice n).tdisp }))
  ∧ (∀ (s : State) (slice : Nat), s.leader slice ≠ slice ∨ (s.slice slice).clearing = false →
    Idle (.clearingSequence slice) s ∧ Idle (.clearingComplete slice) s)
  ∧ (∀ (s : State) (slice : Nat), s.leader slice = slice → (s.slice slice).clearing = true →
    ∃ u, exec (.clearingSequence slice) s = .next u ∧ ∀ l ∈ u.launches, u.leader l.slice = slice → l.stopped = true)
  ∧ (∀ (s : State) (slice : Nat), s.leader slice = slice → (s.slice slice).clearing = true → s.slices.length = 16 → slice < 16 →
    (s.clearDrained slice = false → Idle (.clearingComplete slice) s)
    ∧ (s.clearDrained slice = true → ∃ u, exec (.clearingComplete slice) s = .next u
        ∧ (∀ n ∈ s.members slice, (u.slice n).clean = true ∧ (u.slice n).clearing = false ∧ (u.slice n).rstgen = ((s.slice n).rstgen + 1) % 65536
            ∧ (u.slice n).keyGen = (s.slice n).keyGen + 1 ∧ (u.slice n).pre = 0
            ∧ (u.slice n).tdisp = (if (s.slice n).stopPending then 0 else (s.slice n).tdisp)
            ∧ (u.slice n).spdm.sessions = [] ∧ (u.slice n).meas7 = none ∧ ∀ off, u.reg (n + 1) off = regReset (n + 1) off)
        ∧ (∀ k < 2 ^ 40, k / 2 ^ 36 ∈ s.members slice → u.mem.read k = 0 ∧ u.poisoned k 1 = false)
        ∧ (∀ k < 2 ^ 40, k / 2 ^ 36 ∉ s.members slice → u.mem.read k = s.mem.read k)
        ∧ (∀ k, k / 65536 ∈ s.members slice → u.window.read k = 0)
        ∧ (∀ l ∈ u.l1, sliceOf l.core ∉ s.members slice) ∧ ∀ e ∈ u.tlb, e.slice ∉ s.members slice))
  ∧ (∀ (s : State) (slice : Nat), ∀ j, j ∈ ([.lockInterfaceRequest slice, .startInterfaceRequest slice, .stopInterfaceRequest slice,
      .getDeviceInterfaceReport slice] : List Instr) →
    (s.serves slice = false → Replies j s .refused)
    ∧ (s.serves slice = true → (s.slice slice).spdm.sessions = [] → Idle j s))
  ∧ ∀ (s : State) (slice : Nat), s.serves slice = true → (s.slice slice).spdm.sessions ≠ [] → s.slices.length = 16 →
      let v := s.slice slice
      (v.tdisp ≠ 0 → Replies (.lockInterfaceRequest slice) s (.error 4))
      ∧ (v.tdisp = 0 → v.clean = false ∨ v.meas7 ≠ some (s.index7 slice) → Replies (.lockInterfaceRequest slice) s (.error 1))
      ∧ (v.tdisp = 0 → v.clean = true → v.meas7 = some (s.index7 slice) → ∃ u, exec (.lockInterfaceRequest slice) s = .next u
          ∧ u = { s with slices := u.slices, resp := some .ok } ∧ (∀ n ∈ s.members slice, (u.slice n).tdisp = 1) ∧ (u.slice slice).usage = 0
          ∧ ∀ n, n ∉ s.members slice → u.slice n = s.slice n)
      ∧ (v.tdisp ≠ 1 → Replies (.startInterfaceRequest slice) s (.error 4) ∧ Replies (.getDeviceInterfaceReport slice) s (.error 4))
      ∧ (v.tdisp = 1 → (∃ u, exec (.startInterfaceRequest slice) s = .next u ∧ u = { s with slices := u.slices, resp := some .ok }
          ∧ (∀ n ∈ s.members slice, u.slice n = { s.slice n with tdisp := 2 }) ∧ ∀ n, n ∉ s.members slice → u.slice n = s.slice n)
        ∧ ∃ u, exec (.getDeviceInterfaceReport slice) s = .next u ∧ Gives (Config.interfaceReport slice) s u)
      ∧ (v.tdisp = 0 → Replies (.stopInterfaceRequest slice) s (.error 4))
      ∧ (v.tdisp ≠ 0 → v.clearing = false → v.clean = true → ∃ u, exec (.stopInterfaceRequest slice) s = .next u
          ∧ u = { s with slices := u.slices, resp := some .ok } ∧ ∀ n ∈ s.members slice, u.slice n = { s.slice n with tdisp := 0 })
      ∧ (v.tdisp ≠ 0 → v.clearing = false → v.clean = false → ∃ u, exec (.stopInterfaceRequest slice) s = .next u
          ∧ u = { s with slices := u.slices }
          ∧ ∀ n ∈ s.members slice, u.slice n = { s.slice n with clearing := true, clean := false, stopPending := true })

/-- SPDM requests are answered in order, and index 7 reports the slice's state (order and codes presumed, log entry 61) (R441,
R442, R497; log entries 61, 62). -/
def Obligations.AttestationRequestsAreAnswered : Prop :=
  ∀ slice : Nat,
    SpdmStep (.getVersion slice) slice 0 (fun s u => OnlySpdm s u slice { (s.slice slice).spdm with stage := 1 } .ok)
    ∧ SpdmStep (.getCapabilities slice) slice 1
        (fun s u => OnlySpdm s u slice { (s.slice slice).spdm with stage := max (s.slice slice).spdm.stage 2 } .ok)
    ∧ (∀ o : SpdmOffer, SpdmStep (.negotiateAlgorithms slice o) slice 2 fun s u =>
        if o.ed25519 = true ∧ o.sha512 = true ∧ o.secp384r1 = true ∧ o.aes256gcm = true then
          OnlySpdm s u slice { (s.slice slice).spdm with stage := 3 } .ok
        else u = { s with resp := some (.error 1) })
    ∧ SpdmStep (.getDigests slice) slice 3 (Gives (sha512 (Config.certChain slice)))
    ∧ (∀ n, SpdmStep (.getCertificate slice n) slice 3 fun s u => if n = 0 then Gives (Config.certChain slice) s u else u = { s with resp := some (.error 1) })
    ∧ (∀ n, SpdmStep (.challenge slice n) slice 3 fun s u =>
        if n = 0 then u = { s with free := s.free + 1, resp := some (.bytes (sha512 (Config.certChain slice) ++ s.signature)) } else u = { s with resp := some (.error 1) })
    ∧ (∀ ns sign, SpdmStep (.getMeasurements slice ns sign) slice 3 fun s u =>
        let body := ns.flatMap fun n => leBytes 1 n ++ s.measurement slice n
        if ∃ n ∈ ns, n = 0 ∨ 7 < n then u = { s with resp := some (.error 1) }
        else if sign then u = { s with slices := u.slices, free := s.free + 1, resp := some (.bytes (body ++ s.signature)) }
          ∧ (7 ∈ ns → (u.slice slice).meas7 = some (s.index7 slice)) ∧ (7 ∉ ns → u.slices = s.slices)
        else u = { s with resp := some (.bytes body) })
    ∧ SpdmStep (.keyExchange slice) slice 3 (fun s u =>
        let p := (s.slice slice).spdm
        OnlySpdm s u slice { p with opening := p.opening ++ [p.nextId], nextId := p.nextId + 1 } (.word (.ofNat 32 p.nextId)))
    ∧ (∀ n, SpdmStep (.finish slice n) slice 3 fun s u =>
        let p := (s.slice slice).spdm
        if n ∈ p.opening then OnlySpdm s u slice { p with opening := p.opening.erase n, sessions := p.sessions ++ [n] } .ok
        else u = { s with resp := some (.error 4) })
    ∧ (∀ n, SpdmStep (.endSession slice n) slice 3 fun s u =>
        let p := (s.slice slice).spdm
        if n ∈ p.sessions then OnlySpdm s u slice { p with sessions := p.sessions.erase n } .ok else u = s)
    ∧ (∀ s : State, s.measurement slice 5 = sha512 (leBytes 1 slice ++ leBytes 1 (s.leader slice) ++ leBytes 2 (2 ^ (s.members slice).length - 1)
        ++ leBytes 4 (s.capability 0x100).toNat ++ leBytes 4 (s.capability 0x104).toNat ++ leBytes 4 (s.capability (0x110 + 4 * (slice / 4))).toNat))
    ∧ ∀ s : State, s.measurement slice 7
        = leBytes 4 ((s.slice slice).rstgen + (s.slice slice).tdisp * 2 ^ 16 + if (s.slice slice).hostw then 2 ^ 24 else 0)

namespace Sys2Proof.Claims

/-- A migration command of a slice that can begin (R448, R452). -/
def MayBegin (s : State) (slice block : Nat) : Prop :=
  s.serves slice = true ∧ (s.slice slice).migOp = 0 ∧ s.allows slice = true ∧ 32768 * block < s.pageCount slice ∧ s.slices.length = 16

/-- The command ends at once with an error. -/
def Fails (j : Instr) (s : State) (slice block err : Nat) : Prop :=
  ∃ u, exec j s = .next u ∧ OnlySlices s u (· = slice)
    ∧ u.slice slice = { s.slice slice with migErr := err, migOp := 0, migBlock := block, sendLeft := PageSet.none, sendPart := [] }

/-- A command is discarded while one runs, and refused without consent (R448, R452). -/
def Guarded (j : Instr) (slice : Nat) : Prop :=
  ∀ s : State, (s.serves slice = false ∨ (s.slice slice).migOp ≠ 0 → Idle j s)
    ∧ (s.serves slice = true → (s.slice slice).migOp = 0 → s.slices.length = 16 → s.allows slice = false →
        Fails j s slice (s.slice slice).migBlock 1)

/-- Some sectors of one slice group stand at the same offsets of another; every other byte is as it was (R450). -/
def Sent (s u : State) (a d : Nat) (pick : Nat → Bool) : Prop :=
  (∀ o, o < s.localSize a → u.mem.read (s.localPhys d o) = s.mem.read (s.localPhys (if pick (o / 32) then a else d) o))
  ∧ ∀ k < 2 ^ 40, k / 2 ^ 36 ∉ s.members d → u.mem.read k = s.mem.read k

/-- Two slice groups of as many members, no line of the second of which a peer holds. -/
def Distant (s : State) (a d : Nat) : Prop :=
  s.slices.length = 16 ∧ s.mem.wf = true ∧ a < 16 ∧ d < 16 ∧ a ≠ d ∧ s.leader a = a ∧ s.leader d = d
  ∧ (s.members a).length = (s.members d).length ∧ ∀ e ∈ s.dir, e.line * 128 / 2 ^ 36 ∉ s.members d

end Sys2Proof.Claims

open Sys2Proof Sys2Proof.Machine Sys2Proof.Claims

/-- RAKE, SEND, FINAL and ABORT track, send and end a migration (R448 to R452; log entries 65 to 67). -/
def Obligations.MigrationsMoveASlice : Prop :=
  (∀ slice block : Nat, Guarded (.rake slice block) slice ∧ Guarded (.send slice block) slice ∧ ∀ post, Guarded (.final slice post) slice)
  ∧ (∀ (p : PageSet) (block : Nat), (∀ n, (p.dropBlock block).has n = (p.has n && n / 32768 != block))
      ∧ ∀ j < 32768, ((bitmapBytes (p.block block)).getD (j / 8) 0).getLsbD (j % 8) = p.has (32768 * block + j))
  ∧ (∀ (s : State) (slice block : Nat), MayBegin s slice block →
      let v := s.slice slice
      (s.hostUp = false → Fails (.rake slice block) s slice block 5)
      ∧ (s.hostUp = true → exec (.rake slice block) s = .next ((s.setSlice slice fun v => { v with
            migErr := 0, migOp := 1, migBlock := block, dirty := v.dirty.dropBlock block }).deviceWrite slice (s.sysPid slice)
              (cellsFrom (s.bitmapKey slice) (bitmapBytes (v.dirty.block block)))))
      ∧ (s.role slice ≠ 1 → Fails (.send slice block) s slice block 2)
      ∧ (s.role slice = 1 → s.hostUp = false → Fails (.send slice block) s slice block 5)
      ∧ ∀ d, s.role slice = 1 → s.hostUp = true → s.migPeer slice = some d →
          (s.migAccepts slice d = false → ∃ u, exec (.send slice block) s = .next u
            ∧ (u.slice slice).migErr = 3 ∧ (u.slice slice).migOp = 0 ∧ u.mem = s.mem)
          ∧ (s.migAccepts slice d = true → ∃ u, exec (.send slice block) s = .next u ∧ (u.slice slice).migOp = 2 ∧ u.mem = s.mem
              ∧ (u.slice slice).sendLeft = (s.readBitmap slice block).1 ∧ (u.slice slice).sendPart = []))
  ∧ (∀ (s : State) (slice : Nat) (post : Bool), MayBegin s slice 0 →
      let v := s.slice slice
      (v.pre ≠ 4 → v.pre ≠ 5 → Fails (.final slice post) s slice 0 4)
      ∧ (v.pre = 4 ∨ v.pre = 5 → s.role slice ≠ 1 → Fails (.final slice post) s slice 0 2)
      ∧ ∀ d, v.pre = 4 ∨ v.pre = 5 → s.role slice = 1 → s.migPeer slice = some d →
          (s.migAccepts slice d = false → Fails (.final slice post) s slice 0 3)
          ∧ (s.migAccepts slice d = true → ∃ u, exec (.final slice post) s = .next u ∧ u = { s with slices := u.slices }
              ∧ (u.slice slice).migOp = 3 ∧ (u.slice slice).sent = false ∧ (u.slice slice).dirty = PageSet.none
              ∧ (post = true → (u.slice d).pull = v.dirty ∧ (u.slice slice).sendLeft = v.sendLeft)
              ∧ (post = false → (u.slice slice).sendLeft = v.dirty ∧ (u.slice slice).sendPart = [] ∧ u.slice d = s.slice d)))
  ∧ (∀ (s : State) (slice : Nat), s.slices.length = 16 →
      (s.serves slice = false → Idle (.abort slice) s)
      ∧ (s.serves slice = true → s.allows slice = true → s.role slice = 1 → s.migPeer slice = none →
          Fails (.abort slice) s slice (s.slice slice).migBlock 6)
      ∧ (∀ d, s.serves slice = true → s.allows slice = true → s.role slice = 1 → s.migPeer slice = some d → s.role d = 2 → s.closed d = false →
          ∃ u, exec (.abort slice) s = .next u ∧ (u.slice slice).migErr = 6 ∧ (u.slice slice).migOp = 0
            ∧ ∀ n ∈ s.members d, (u.slice n).clearing = true ∧ (u.slice n).clean = false)
      ∧ (s.serves slice = true → s.allows slice = true → s.role slice = 2 → s.closed slice = false →
          ∃ u, exec (.abort slice) s = .next u ∧ (u.slice slice).migErr = 6
            ∧ ∀ n ∈ s.members slice, (u.slice n).clearing = true ∧ (u.slice n).clean = false)
      ∧ ((s.slice slice).migOp = 0 → ∀ r, Idle (.migrationCommandComplete slice r) s)
      ∧ ((s.slice slice).migOp ≠ 0 →
          Fails (.migrationCommandComplete slice .session) s slice (s.slice slice).migBlock 2
          ∧ Fails (.migrationCommandComplete slice .refused) s slice (s.slice slice).migBlock 3
          ∧ Fails (.migrationCommandComplete slice .link) s slice (s.slice slice).migBlock 5
          ∧ ((s.slice slice).sendLeft = PageSet.none → s.migArrived slice = true →
              ∃ u, exec (.migrationCommandComplete slice .done) s = .next u ∧ OnlySlices s u (· = slice)
                ∧ u.slice slice = { s.slice slice with migOp := 0, migDone := true })
          ∧ ((s.slice slice).sendLeft = PageSet.none → s.migArrived slice = false → Idle (.migrationCommandComplete slice .done) s)
          ∧ ∀ d page, s.migPeer slice = some d → (s.slice slice).sendLeft.first (s.pageCount slice) = some page → Distant s slice d →
              (∃ j < 2048, j ∉ (s.slice slice).sendPart) →
              let v := s.slice slice
              ∃ u now, exec (.migrationCommandComplete slice .done) s = .next u
                ∧ now ≠ [] ∧ (∀ j ∈ now, j < 2048 ∧ j ∉ v.sendPart)
                ∧ Sent s u slice d (fun n => n / 2048 == page && now.contains (n % 2048))
                ∧ (v.migOp ≠ 2 → ∀ j ∈ now, u.poisoned (s.localPhys d (65536 * page + 32 * j)) 32 = s.poisoned (s.localPhys slice (65536 * page + 32 * j)) 32)
                ∧ (u.slice slice).migOp = v.migOp
                ∧ ((∀ j < 2048, j ∈ v.sendPart ++ now) →
                    (u.slice slice).sendLeft = v.sendLeft.drop page ∧ (u.slice slice).sendPart = [])
                ∧ ((∃ j < 2048, j ∉ v.sendPart ++ now) →
                    (u.slice slice).sendLeft = v.sendLeft ∧ (u.slice slice).sendPart = v.sendPart ++ now)))
  ∧ ∀ (s : State) (slice : Nat) (bs : List Byte), s.slices.length = 16 → s.mem.wf = true →
      (s.receives slice = false → Idle (.migrationFolioLanded slice bs) s)
      ∧ (∀ d, s.migPeer slice = some d → s.migSource slice = none → Idle (.migrationFolioLanded slice bs) s)
      ∧ (∀ a, s.receives slice = true → s.migSource slice = some a → (s.slice a).sent = true ∨ (s.slice a).sendLeft ≠ PageSet.none →
          Idle (.migrationFolioLanded slice bs) s)
      ∧ (∀ a, s.receives slice = true → s.migSource slice = some a → (s.slice a).sent = false → (s.slice a).sendLeft = PageSet.none →
          let bytes := s.folioBytes (s.finalFolio a) slice Item.pc
          (∀ off n, s.area slice 0xE8C 0xE90 = some (off, n) → bytes.length ≤ n →
            ∃ u, exec (.migrationFolioLanded slice bs) s = .next u ∧ (u.slice slice).folio = some (s.finalFolio a)
              ∧ (u.slice slice).image = bytes ∧ (u.slice slice).migDone = true ∧ (u.slice a).sent = true
              ∧ (s.holdersOf slice off bytes.length = none → u.readLocal slice off bytes.length = bytes))
          ∧ ((∀ off n, s.area slice 0xE8C 0xE90 = some (off, n) → n < bytes.length) →
              ∃ u, exec (.migrationFolioLanded slice bs) s = .next u ∧ OnlySlices s u (· = a)
                ∧ (u.slice a).migErr = 3 ∧ (u.slice a).migOp = 0))
      ∧ (s.receives slice = true → s.migPeer slice = none →
          let n := natAt bs 0xC 4
          (natAt bs 0xA 2 ≠ 2 ^ (s.members slice).length - 1 → Idle (.migrationFolioLanded slice bs) s)
          ∧ ∀ off m, natAt bs 0xA 2 = 2 ^ (s.members slice).length - 1 → s.area slice 0xE8C 0xE90 = some (off, m) → (bs.take n).length ≤ m →
            ∃ u, exec (.migrationFolioLanded slice bs) s = .next u ∧ (u.slice slice).folio = none
              ∧ (u.slice slice).image = bs.take n ∧ (u.slice slice).migDone = true
              ∧ (∀ k, (u.slice slice).pull.has k = ((s.slice slice).pull.has k || decide (k ∈ bitmapPages (bs.drop n) ∧ k < s.pageCount slice)))
              ∧ (s.holdersOf slice off (bs.take n).length = none → u.readLocal slice off (bs.take n).length = bs.take n))

/-- Pull-pending pages arrive or fail, and cuts, commits and rollbacks keep their generation (R453 to R458; log entry 68). -/
def Obligations.PulledPagesAndCheckpointsAreKept : Prop :=
  (∀ (s : State) (slice page : Nat) (bs : List Byte),
    let lead := s.leader slice
    let v := s.slice lead
    (v.pull.has page = false → Idle (.pagePullRequest slice page) s)
    ∧ (v.pull.has page = true → ∃ u, exec (.pagePullRequest slice page) s = .next u ∧ OnlySlices s u (· = lead)
        ∧ u.slice lead = { v with pulling := if ∃ p ∈ v.pulling, p.1 = page then v.pulling else v.pulling ++ [(page, s.clock)] })
    ∧ (∀ a, s.migSource lead = some a → v.pull.has page = false ∨ (s.slice a).sent = false → Idle (.pagePullArrival slice page bs) s)
    ∧ (∀ a, s.migSource lead = some a → v.pull.has page = true → (s.slice a).sent = true → Distant s a lead →
        ∃ u, exec (.pagePullArrival slice page bs) s = .next u ∧ (∀ n, (u.slice lead).pull.has n = (v.pull.has n && n != page))
          ∧ Sent s u a lead (fun n => n / 2048 == page)
          ∧ ∀ x ∈ u.ctxs, ∀ i ∈ x.items, ∀ f ∈ s.pullWaits lead page, i.wait ≠ .pageFault f.id ∧ x.held ≠ some f.id)
    ∧ (s.migSource lead = none →
        (bs.length ≠ 65536 ∨ s.pageCount lead ≤ page → Idle (.pagePullArrival slice page bs) s)
        ∧ (v.pull.has page = false → s.receives lead = false ∨ s.migPeer lead ≠ none → Idle (.pagePullArrival slice page bs) s)
        ∧ (bs.length = 65536 → page < s.pageCount lead → s.mem.wf = true → s.holdersOf lead (65536 * page) 65536 = none →
            (v.pull.has page = true → ∃ u, exec (.pagePullArrival slice page bs) s = .next u
              ∧ u.readLocal lead (65536 * page) 65536 = bs ∧ (∀ n, (u.slice lead).pull.has n = (v.pull.has n && n != page))
              ∧ ∀ x ∈ u.ctxs, ∀ i ∈ x.items, ∀ f ∈ s.pullWaits lead page, i.wait ≠ .pageFault f.id ∧ x.held ≠ some f.id)
            ∧ (v.pull.has page = false → s.receives lead = true → s.migPeer lead = none →
              ∃ u, exec (.pagePullArrival slice page bs) s = .next u ∧ u.readLocal lead (65536 * page) 65536 = bs
                ∧ (u.slice lead).pull = v.pull)))
    ∧ ((∀ p ∈ v.pulling, p.1 ≠ page) → Idle (.pagePullTimeout slice page) s)
    ∧ (∀ since, (v.pulling.find? fun p => p.1 == page) = some (page, since) → ∃ u, exec (.pagePullTimeout slice page) s = .next u
        ∧ since + millis (10 * max 1 (fieldOfWord (s.migCtl lead) 24 4)) ≤ u.clock ∧ (u.slice lead).pull = v.pull
        ∧ (∀ p ∈ (u.slice lead).pulling, p.1 ≠ page) ∧ page ∉ (u.slice lead).hostPulls ∧ ∀ f ∈ s.pullWaits lead page, f ∉ u.pfaults))
  ∧ (∀ (s : State) (slice gen : Nat), s.slices.length = 16 →
    let v := s.slice slice
    let en := (s.reg 0 (sliceReg slice 0x24)).getLsbD 31
    (s.serves slice = false ∨ s.closed slice = true → Idle (.checkpointCutMarker slice gen) s)
    ∧ (s.serves slice = true → s.closed slice = false → en = false ∨ gen ≠ v.ckGen + 1 ∨ v.ckState ≠ 0 →
        Replies (.checkpointCutMarker slice gen) s .refused)
    ∧ (s.serves slice = true → s.closed slice = false → en = true → gen = v.ckGen + 1 → v.ckState = 0 →
        ∃ u, exec (.checkpointCutMarker slice gen) s = .next u ∧ OnlySlices s u (· = slice)
          ∧ (v.pre ≠ 4 → v.pre ≠ 5 → u.slice slice = { v with
              ckState := 1, pre := if v.pre = 0 ∨ v.pre = 1 then 2 else v.pre, preSince := if v.pre = 0 then s.clock else v.preSince })
          ∧ (v.pre = 4 ∨ v.pre = 5 → u.slice slice = { v with ckState := 2 }))
    ∧ (s.serves slice = false ∨ v.ckState ≠ 3 ∨ gen ≠ v.ckGen + 1 → Idle (.checkpointCommit slice gen) s)
    ∧ (s.serves slice = true → v.ckState = 3 → gen = v.ckGen + 1 →
        let ready (t : State) : State := t.setSlice slice fun v => { v with ckGen := gen, ckState := 0 }
        (s.buddy slice = none → exec (.checkpointCommit slice gen) s = exec (.preemptResume slice) (ready s)
          ∧ ∃ u, exec (.checkpointCommit slice gen) s = .next u ∧ (u.slice slice).ckGen = gen ∧ (u.slice slice).ckState = 0)
        ∧ ∀ b, s.buddy slice = some b →
          (∀ t, s.clearArea slice b = some t → exec (.checkpointCommit slice gen) s = .next { t with resp := some .retry })
          ∧ (s.clearArea slice b = none → exec (.checkpointCommit slice gen) s = exec (.preemptResume slice) (ready (s.merge slice b gen)))))
  ∧ (∀ (s : State) (slice gen : Nat) (image : CheckpointImage), s.slices.length = 16 →
    let held := s.clearSectors slice (fun k => decide (k < 2048 * s.ckPages slice)) <|> (s.buddy slice).bind (s.clearArea slice)
    (s.serves slice = false ∨ s.closed slice = true → Idle (.checkpointRollbackMarker slice gen image) s)
    ∧ (s.serves slice = true → s.closed slice = false → ∀ t, held = some t →
        exec (.checkpointRollbackMarker slice gen image) s = .next { t with resp := some .retry })
    ∧ (s.serves slice = true → s.closed slice = false → held = none → image.present = false → s.buddy slice = none →
        ∃ u, exec (.checkpointRollbackMarker slice gen image) s = .next u ∧ (u.slice slice).ckState = 0
          ∧ (u.slice slice).migErr = (s.slice slice).migErr ∧ ∀ l ∈ u.launches, s.leader l.slice ≠ slice)
    ∧ (s.serves slice = true → s.closed slice = false → held = none → image.present = true ∨ s.buddy slice ≠ none →
        ∃ u, exec (.checkpointRollbackMarker slice gen image) s = .next u ∧ (u.slice slice).ckState = 0 ∧ (u.slice slice).ckGen = gen))
  ∧ (∀ (s : State) (slice b g k : Nat), s.mem.wf = true → slice < 16 → b < 16 → s.leader slice ≠ s.leader b →
      s.ckPages slice ≤ 2 ^ 20 → s.ckPages slice ≤ s.pageCount slice → k < 65536 * s.ckPages slice →
      let a := s.ckArea slice
      let staged := ((s.mem.read (s.localPhys b (a.bitmap + k / 65536 / 8))).getLsbD (k / 65536 % 8))
      a.slots + 2 * a.slot ≤ s.localSize b → (∀ e ∈ s.dir, e.line * 128 / 2 ^ 36 ∉ s.members b) →
      (s.stages slice (k / 65536) = true → ∀ f, (s.stage slice b f).mem.read (s.localPhys b (a.staging + k)) = s.mem.read (s.localPhys slice k))
      ∧ (s.merge slice b g).mem.read (s.localPhys b (a.image + k)) = s.mem.read (s.localPhys b ((if staged then a.staging else a.image) + k))
      ∧ (s.merge slice b g).readLocal b a.base 8 = leBytes 8 g
      ∧ (s.merge slice b g).mem.read (s.localPhys b (a.bitmap + k / 65536 / 8)) = 0
      ∧ (leNat (s.readLocal b (a.base + 8) 8) ≠ g → (∀ off m, s.area slice 0xE8C 0xE90 = some (off, m) → k < off ∨ off + m ≤ k) →
          (s.fromBuddy slice b g).mem.read (s.localPhys slice k) = s.mem.read (s.localPhys b (a.image + k))))
  ∧ ∀ (s : State) (slice : Nat) (image : CheckpointImage) (o : Nat), s.mem.wf = true → slice < 16 →
      (∀ e ∈ s.dir, e.line * 128 / 2 ^ 36 ∉ s.members slice) →
      (image.pages.map Prod.fst).Nodup → (∀ p ∈ image.pages, p.2.length = 65536) →
      fieldOfWord (s.reg 0 (sliceReg slice 0x2C)) 0 21 ≤ s.pageCount slice → o < s.localSize slice →
      (s.placeImage slice image).mem.read (s.localPhys slice o)
        = if o / 65536 < fieldOfWord (s.reg 0 (sliceReg slice 0x2C)) 0 21 then
            match image.pages.find? fun p => p.1 == o / 65536 with
            | some p => p.2.getD (o % 65536) 0
            | none => 0
          else s.mem.read (s.localPhys slice o)

/-- Edge groups switch, drain, train, map and fail state by state (R461, R470 to R475; log entries 71, 72, 75). -/
def Obligations.EdgeGroupsSwitchDrainAndFail : Prop :=
  (∀ (s : State) (n : Nat) (val : Word),
    (s.valid = false ∨ 16 ≤ n → Idle (.edgeSwitch n val) s)
    ∧ (s.valid = true → n < 16 → s.edges.length = 16 → ∃ u, exec (.edgeSwitch n val) s = .next u
        ∧ u = { s with regs := u.regs, edges := u.edges } ∧ Took s u 0 (0x2000 + 16 * n) val 0x0FF00000
        ∧ (∀ m, m ≠ n → u.edge m = s.edge m)
        ∧ (u.edge n = if s.groupOk n = true ∧ (s.edge n).busy = false ∧ fieldOfWord val 24 2 ≤ 1 then
            { s.edge n with
              parks := s.windows n, state := 2, busy := true, err := 0, target := fieldOfWord val 26 2, cxluse := fieldOfWord val 24 2,
              xslice := fieldOfWord val 20 4, since := s.clock, began := s.clock }
          else s.edge n)
        ∧ (s.groupOk n = true → (s.edge n).busy = false → fieldOfWord val 24 2 ≤ 1 →
            ∀ k ∈ s.carried n, (u.vreg k 0x1110).getLsbD 1 = true)
        ∧ ∀ fn off, (fn, off) ≠ (0, 0x2000 + 16 * n) → off ≠ 0x1110 → u.reg fn off = s.reg fn off))
  ∧ ∀ (s : State) (n : Nat), n < 16 → s.edges.length = 16 →
      let e := s.edge n
      let now := min s.clock (e.since + edgeBound e.state)
      (e.state ≠ 1 → e.state ≠ 2 → Idle (.edgeDrainComplete n) s)
      ∧ (e.state = 1 ∨ e.state = 2 → ∃ u, exec (.edgeDrainComplete n) s = .next u
          ∧ u.edge n = { e with state := if e.err = 3 then 5 else 3, since := now }
          ∧ (∀ k ∈ s.carried n, (u.vreg k 0x1110).getLsbD 1 = true)
          ∧ (e.mode = 0 ∨ e.mode = 3 → u = { s with edges := u.edges, regs := u.regs })
          ∧ (e.mode = 1 → e.useNow = 0 → s.portH = false → (∀ m < 16, m ≠ n → (s.edge m).hostPath = false) →
              ∀ l ∈ u.l2, Phys.isHost (l.line * 128) = false)
          ∧ (e.mode = 1 → e.useNow ≠ 0 → ∀ d ∈ u.dir, d.slice ∈ s.members e.sliceNow → d.host = false)
          ∧ (e.mode = 2 → ∀ p < 8, (u.reg 0 (0x2110 + 4 * p)).getLsbD n = false))
      ∧ (e.state ≠ 3 → Idle (.edgeTrainingComplete n) s)
      ∧ (e.state = 3 → ∃ u, exec (.edgeTrainingComplete n) s = .next u ∧ u = { s with edges := u.edges, regs := u.regs }
          ∧ u.edge n = { e with state := 4, since := now })
      ∧ (e.state ≠ 4 → Idle (.edgeLinklayerComplete n) s)
      ∧ (e.state = 4 → ∃ u, exec (.edgeLinklayerComplete n) s = .next u ∧ u = { s with edges := u.edges, regs := u.regs }
          ∧ u.edge n = { e with state := 5, since := now, parks := e.parks ||| s.joins n })
      ∧ (e.state ≠ 3 → e.state ≠ 4 → Idle (.edgeBoundExceeded n) s)
      ∧ (e.state = 3 ∨ e.state = 4 → ∃ u, exec (.edgeBoundExceeded n) s = .next u
          ∧ u = { s with edges := u.edges, regs := u.regs, clock := max s.clock (e.since + edgeBound e.state) }
          ∧ u.edge n = { e with err := if e.state = 3 then 1 else 2, state := 5, since := e.since + edgeBound e.state })
      ∧ (e.state ≠ 5 ∨ s.joinBusy n = true → Idle (.edgeMappingComplete n) s)
      ∧ (e.state = 5 → s.joinBusy n = false → ∃ u, exec (.edgeMappingComplete n) s = .next u
          ∧ u.edge n = { e with
              parks := 0, busy := false,
              state := if e.err = 1 ∨ e.err = 2 then 7 else if e.target = 0 ∨ e.err ≠ 0 then 6 else 0,
              mode := if e.err ≠ 0 then 0 else e.target, useNow := if e.target = 0 ∨ e.err ≠ 0 then 0 else e.cxluse,
              sliceNow := if e.target = 0 ∨ e.err ≠ 0 then 0 else e.xslice }
          ∧ (e.target = 2 → e.err = 0 →
              (u.reg 0 (0x2110 + 4 * s.wiredPlane n)).getLsbD n = true)
          ∧ ∀ k ∈ s.carried n, (u.vreg k 0x1110).getLsbD 1 = true)
      ∧ (e.state ≠ 0 → Idle (.edgeLinkFailure n) s)
      ∧ (e.state = 0 → ∃ u, exec (.edgeLinkFailure n) s = .next u
          ∧ u.edge n = { e with parks := s.windows n, state := 1, busy := true, err := 3, target := 0, cxluse := 0, since := s.clock, began := s.clock }
          ∧ (∀ k ∈ s.carried n, (u.vreg k 0x1110).getLsbD 1 = true)
          ∧ (e.mode = 2 → ∀ l ∈ u.l2, Phys.isPeer (l.line * 128) = true → s.peerGroup (l.line * 128) ≠ some n))

/-- Scale-out descriptors start in order and end with a status (R467 to R469; log entries 8, 74). -/
def Obligations.ScaleOutDescriptorsStartAndEnd : Prop :=
  (∀ (s : State) (slice : Nat),
    (s.posted slice = false → Idle (.scaleoutDescriptorStart slice) s)
    ∧ (s.posted slice = true → s.mem.wf = true → s.ring slice + 0x4014 ≤ s.localSize slice → s.slices.length = 16 →
        s.holdersOf slice (s.ring slice + 0x4010) 4 = none →
        let i := (s.slice slice).ueIndex
        let words := s.readLocal slice (s.ring slice + 64 * (i % 256)) 64
        ∃ u, exec (.scaleoutDescriptorStart slice) s = .next u
          ∧ u.descs = s.descs ++ [{ slice := slice, index := i, words := words,
                                    endpoint := s.readLocal slice (fieldOfWord (s.vreg slice 0x1118) 0 28 * 4096 + 32 * (leNat ((words.drop 4).take 4) % 4096)) 32,
                                    since := s.clock, status := none, noTok := false, tokSince := none,
                                    overrun := decide (256 < (leNat (s.readLocal slice (s.ring slice + 0x4000) 4) + 2 ^ 32 - i) % 2 ^ 32) }]
          ∧ (u.slice slice).ueIndex = (i + 1) % 2 ^ 32 ∧ u.readLocal slice (s.ring slice + 0x4010) 4 = leBytes 4 (i + 1)))
  ∧ (∀ (s : State) (slice index : Nat), (∀ d ∈ s.descs, ¬ (d.slice = slice ∧ d.index = index)) →
      (∀ r, Idle (.scaleoutDescriptorComplete slice index r) s) ∧ Idle (.scaleoutTimeout slice index) s)
  ∧ (∀ (s : State) (slice index : Nat) (d : Desc), (s.descs.find? fun d => d.slice == slice && d.index == index) = some d → d.status = none →
      (d.bad = true → (∀ r, exec (.scaleoutDescriptorComplete slice index r) s = .next (s.finishDesc d 4)) ∧ Idle (.scaleoutTimeout slice index) s)
      ∧ (d.bad = false → exec (.scaleoutDescriptorComplete slice index .unreachable) s = .next (s.finishDesc d 5))
      ∧ (d.bad = false → s.uePath slice = false → ∀ bs, Idle (.scaleoutDescriptorComplete slice index (.done bs)) s)
      ∧ (∀ bs t, d.bad = false → s.uePath slice = true → s.localSide d bs = .done t →
          exec (.scaleoutDescriptorComplete slice index (.done bs)) s = .next (t.finishDesc d 1))
      ∧ (∀ bs, d.bad = false → s.uePath slice = true → s.localSide d bs = .failed →
          exec (.scaleoutDescriptorComplete slice index (.done bs)) s = .next (s.finishDesc d 4))
      ∧ (∀ bs, d.bad = false → d.word 0 4 ≠ 2 → (∀ p ∈ vaPages (d.word 8 8) (d.word 0x18 4),
            ∃ k, s.reach d.slice (Config.ueAsid d.slice % 256) p.1 p.2 .copyRead = .ok k) → s.localSide d bs = .done s))
  ∧ (∀ (s : State) (slice index : Nat) (d : Desc),
      (s.descs.find? fun d => d.slice == slice && d.index == index && d.status.isNone) = some d → s.uePath slice = false → d.bad = false →
      (d.stuck = none → Idle (.scaleoutTimeout slice index) s)
      ∧ ∀ t, d.stuck = some t → exec (.scaleoutTimeout slice index) s
          = .next (({ s with clock := max s.clock (t + millis 40) } : State).finishDesc d 5))
  ∧ ∀ (s : State) (d : Desc) (n : Nat), d.word 0x20 8 = 0 →
      s.finishDesc d n = { s with descs := s.descs.filter fun e => !(e.slice == d.slice && e.index == d.index) }

namespace Sys2Proof.Claims

/-- An FP32 code is a NaN, and a signalling one; it is finite. -/
def nan32 (a : Word) : Bool := decide (0x7F800000 < a.toNat % 2 ^ 31)
def signals32 (a : Word) : Bool := nan32 a && !a.getLsbD 22
def finite32 (a : Word) : Bool := decide (a.toNat % 2 ^ 31 < 0x7F800000)

/-- The place of an FP32 code in the order of R264, in which −0 comes before +0. -/
def rank32 (a : Word) : Int := if a.getLsbD 31 then -(a.toNat % 2 ^ 31 : Nat) - 1 else (a.toNat % 2 ^ 31 : Nat)

end Sys2Proof.Claims

open Sys2Proof Sys2Proof.Machine Sys2Proof.Claims

/-- NaNs, infinities, zeros and integer conversions follow the floating-point rules (R241, R243, R264, R266, R273, R277). -/
def Obligations.FloatingPointRulesHold : Prop :=
  (∀ (mode : RMode) (ftz : Bool) (a b : Word),
    (nan32 a = true → ∀ f ∈ [fp32.add mode false ftz, fp32.mul mode false ftz],
      f a.toNat b.toNat = ((a ||| 0x400000).toNat, if signals32 a || signals32 b then flagNV else 0))
    ∧ (nan32 a = false → nan32 b = true → ∀ f ∈ [fp32.add mode false ftz, fp32.mul mode false ftz],
      f a.toNat b.toNat = ((b ||| 0x400000).toNat, if signals32 b then flagNV else 0))
    ∧ (nan32 a = false → nan32 b = false → fp32.add mode false ftz a.toNat b.toNat = fp32.add mode false ftz b.toNat a.toNat
      ∧ fp32.mul mode false ftz a.toNat b.toNat = fp32.mul mode false ftz b.toNat a.toNat)
    ∧ fp32.add mode false ftz 0x7F800000 0xFF800000 = (0x7FC00000, flagNV)
    ∧ fp32.mul mode false ftz 0x7F800000 0 = (0x7FC00000, flagNV)
    ∧ (finite32 a = true → fp32.add mode false ftz a.toNat (a ^^^ 0x80000000).toNat = (if mode = .rd then 0x80000000 else 0, 0))
    ∧ (finite32 a = true → a.toNat % 2 ^ 31 ≠ 0 → fp32.add mode false false a.toNat 0 = (a.toNat, 0))
    ∧ (finite32 a = true → fp32.mul mode false false a.toNat 0x3F800000 = (a.toNat, 0)))
  ∧ (∀ (a b : Word) (isMax : Bool),
    let fl := if signals32 a || signals32 b then flagNV else 0
    fp32.minMax isMax false a.toNat b.toNat
      = (if nan32 a && nan32 b then 0x7FC00000
         else if nan32 a then b.toNat
         else if nan32 b then a.toNat
         else if isMax then (if rank32 a < rank32 b then b.toNat else a.toNat)
         else (if rank32 b < rank32 a then b.toNat else a.toNat), fl))
  ∧ (∀ (a b : Word), nan32 a = false → nan32 b = false →
      let eq := decide (rank32 a = rank32 b) || (a.toNat % 2 ^ 31 == 0 && b.toNat % 2 ^ 31 == 0)
      fcmpHolds 0 false a.toNat b.toNat = (eq, 0) ∧ fcmpHolds 2 false a.toNat b.toNat = (!eq && decide (rank32 a < rank32 b), 0))
  ∧ (∀ (mode : RMode) (ftz : Bool),
    frcpVal mode ftz 0 = (0x7F800000, flagDZ) ∧ frcpVal mode ftz 0x80000000 = (0xFF800000, flagDZ)
    ∧ frcpVal mode ftz 0x7F800000 = (0, 0) ∧ frcpVal mode ftz 0xFF800000 = (0x80000000, 0)
    ∧ fsqrtVal mode ftz 0x80000000 = (0x80000000, 0) ∧ fsqrtVal mode ftz 0x7F800000 = (0x7F800000, 0)
    ∧ ∀ a : Word, 0x80000000 < a.toNat → nan32 a = false → (ftz = true → 0x00800000 ≤ a.toNat % 2 ^ 31) →
        fsqrtVal mode ftz a.toNat = (0x7FC00000, flagNV))
  ∧ (∀ (mode : RMode) (uns ftz : Bool) (a : Word), nan32 a = true → ftoiVal mode uns ftz 32 a.toNat = (0, flagNV))
  ∧ ∀ (mode back : RMode) (n : Int), -2 ^ 24 ≤ n → n ≤ 2 ^ 24 →
      (itofVal mode n).2 = 0 ∧ ftoiVal back false false 32 (itofVal mode n).1 = ((n % 2 ^ 32).toNat, 0)
end

