-- ==== Sys2Proof/Laws/Encoding.lean ====
section
/-! SUPPORT. The layouts of the code words: their bounds, and the length that the first word of each shape says (R26). -/

namespace Sys2Proof

theorem bitNat_le (b : Bool) : bitNat b ≤ 1 := by cases b <;> decide

theorem BaseOps.toNat_lt (f : BaseOps) : f.toNat < 2 ^ 24 := by
  have h1 := f.d.isLt
  have h2 := f.a.isLt
  have h3 := f.b.isLt
  have h4 := bitNat_le f.alr
  have h5 := bitNat_le f.blr
  have h6 := bitNat_le f.bk
  unfold BaseOps.toNat
  omega

theorem Base1.toNat_lt (f : Base1) : f.toNat < 2 ^ 24 := by
  have h1 := f.d.isLt
  have h3 := f.b.isLt
  have h5 := bitNat_le f.blr
  have h6 := bitNat_le f.bk
  unfold Base1.toNat
  omega

theorem F20Word.toNat_lt (f : F20Word) : f.toNat < 2 ^ 24 := by
  have h1 := f.d.isLt
  have h2 := f.imm.isLt
  unfold F20Word.toNat
  omega

theorem ClauseWord.toNat_lt (h : ClauseWord) : h.toNat < 2 ^ 24 := by
  have h1 := h.wait.isLt
  have h2 := h.setA.isLt
  have h3 := h.setB.isLt
  have h4 := bitNat_le h.rgn
  have h5 := bitNat_le h.yld
  unfold ClauseWord.toNat
  omega

theorem Ext.word0_lt (e : Ext) : e.word0 < 2 ^ 20 := by
  have h1 := e.guard.isLt
  have h2 := e.mod.isLt
  have h3 := bitNat_le e.neg
  have h4 := bitNat_le e.alr
  have h5 := bitNat_le e.blr
  have h6 := bitNat_le e.clr
  unfold Ext.word0
  omega

theorem Ext.word1_lt (e : Ext) : e.word1 < 2 ^ 32 := by
  have h1 := e.d.isLt
  have h2 := e.a.isLt
  have h3 := e.b.isLt
  have h4 := e.c.isLt
  unfold Ext.word1
  omega

/-- LEN is the top two bits of the first word (R26). -/
theorem instrLength_of (len v : Nat) (hv : v < 2 ^ 30) (hl : len < 4) :
    instrLength (.ofNat 32 (len * 2 ^ 30 + v)) = match (generalizing := false) len with | 0 => 1 | 1 => 2 | 2 => 3 | _ => 5 := by
  have h : bits (BitVec.ofNat 32 (len * 2 ^ 30 + v)).toNat 30 2 = len := by
    simp only [bits, BitVec.toNat_ofNat]
    omega
  unfold instrLength
  have hc : len = 0 ∨ len = 1 ∨ len = 2 ∨ len = 3 := by omega
  rw [h] <;> (rcases hc with rfl | rfl | rfl | rfl <;> rfl)

theorem baseWord_length (major : Nat) (f : BaseOps) (hm : major < 0x40) :
    instrLength ((baseWord major f).headD 0) = (baseWord major f).length := by
  have h := instrLength_of 0 (major * 2 ^ 24 + f.toNat) (by have := f.toNat_lt; omega) (by decide)
  rw [Nat.zero_mul, Nat.zero_add] at h
  exact h

theorem base1Word_length (major : Nat) (f : Base1) (hm : major < 0x40) :
    instrLength ((base1Word major f).headD 0) = (base1Word major f).length := by
  have h := instrLength_of 0 (major * 2 ^ 24 + f.toNat) (by have := f.toNat_lt; omega) (by decide)
  rw [Nat.zero_mul, Nat.zero_add] at h
  exact h

theorem f20Words_length (major : Nat) (f : F20Word) (hm : major < 0x40) :
    instrLength ((f20Words major f).headD 0) = (f20Words major f).length := by
  have h := instrLength_of 0 (major * 2 ^ 24 + f.toNat) (by have := f.toNat_lt; omega) (by decide)
  rw [Nat.zero_mul, Nat.zero_add] at h
  exact h

theorem clauseWord_length (h : ClauseWord) :
    instrLength (([.ofNat 32 (0x3F * 2 ^ 24 + h.toNat)] : List Word).headD 0) = 1 := by
  have h1 := instrLength_of 0 (0x3F * 2 ^ 24 + h.toNat) (by have := h.toNat_lt; omega) (by decide)
  rw [Nat.zero_mul, Nat.zero_add] at h1
  exact h1

theorem baseLitWords_length (major : Nat) (f : BaseLit) (hm : major < 0x40) :
    instrLength ((baseLitWords major f).headD 0) = (baseLitWords major f).length := by
  have h1 := f.d.isLt
  have h2 := f.a.isLt
  have h3 := bitNat_le f.alr
  have h4 : litB < 2 ^ 9 := by decide
  have h := instrLength_of 1 (major * 2 ^ 24 + f.d.toNat * 2 ^ 17 + f.a.toNat * 2 ^ 10 + bitNat f.alr * 2 ^ 9 + litB)
    (by omega) (by decide)
  simpa [baseLitWords, Nat.add_assoc] using h

theorem base1LitWords_length (major : Nat) (f : Base1Lit) (hm : major < 0x40) :
    instrLength ((base1LitWords major f).headD 0) = (base1LitWords major f).length := by
  have h1 := f.d.isLt
  have h4 : litB < 2 ^ 9 := by decide
  have h := instrLength_of 1 (major * 2 ^ 24 + f.d.toNat * 2 ^ 17 + litB) (by omega) (by decide)
  simpa [base1LitWords, Nat.add_assoc] using h

theorem braBase_length (disp : Word) :
    instrLength (([.ofNat 32 (2 ^ 30 + 0x23 * 2 ^ 24 + litB), disp] : List Word).headD 0) = 2 := by
  show instrLength (BitVec.ofNat 32 (2 ^ 30 + 0x23 * 2 ^ 24 + litB)) = 2
  decide

theorem extWords_length (opx : Nat) (e : Ext) (h : opx < 2 ^ 10) :
    instrLength ((extWords opx e).headD 0) = (extWords opx e).length := by
  have h0 := e.word0_lt
  unfold extWords
  cases e.lit with
  | none =>
    have h1 := instrLength_of 2 (opx * 2 ^ 20 + e.word0) (by omega) (by decide)
    simpa [Nat.add_assoc] using h1
  | some v =>
    have h1 := instrLength_of 3 (opx * 2 ^ 20 + e.word0) (by omega) (by decide)
    simpa [Nat.add_assoc] using h1

theorem pairWords_length (w : PairWord) : instrLength ((pairWords w).headD 0) = (pairWords w).length := by
  have h1 := w.guard.isLt
  have h2 := bitNat_le w.neg
  have h := instrLength_of 2 (0x3FF * 2 ^ 20 + w.guard.toNat * 2 ^ 13 + bitNat w.neg * 2 ^ 12) (by omega) (by decide)
  show instrLength (BitVec.ofNat 32 (2 ^ 31 + 0x3FF * 2 ^ 20 + w.guard.toNat * 2 ^ 13 + bitNat w.neg * 2 ^ 12)) = 3
  refine Eq.trans ?_ h
  congr 2
  omega

end Sys2Proof
end

