-- ==== Sys2Proof/Laws/Registers.lean ====
section
/-! SUPPORT. What the items of a context read after a kill, a write of a register and a write of a predicate. -/

namespace Sys2Proof.Machine

/-! ### Lists -/

theorem mem_insertNat (n k : Nat) (l : List Nat) : k ∈ insertNat n l ↔ k = n ∨ k ∈ l := by
  induction l with
  | nil => simp [insertNat]
  | cons m ms ih =>
    simp only [insertNat]
    split
    · simp
    · split
      · subst n; simp
      · simp [ih]; tauto

theorem mem_unionNat (a b : List Nat) (k : Nat) : k ∈ unionNat a b ↔ k ∈ a ∨ k ∈ b := by
  induction a generalizing b with
  | nil => simp [unionNat]
  | cons m ms ih =>
    have : unionNat (m :: ms) b = unionNat ms (insertNat m b) := rfl
    rw [this, ih, mem_insertNat]; simp; tauto

theorem lookupD_cons {α β : Type} [BEq α] (k : α) (v : β) (l : List (α × β)) (a : α) (d : β) :
    lookupD ((k, v) :: l) a d = if k == a then v else lookupD l a d := by
  unfold lookupD
  rw [List.find?_cons]
  by_cases h : k == a <;> simp [h]

/-- Looking up a key that the first list holds under one value only. -/
theorem lookupD_append {α β : Type} [BEq α] [LawfulBEq α] (l m : List (α × β)) (a : α) (v d : β)
    (hv : ∀ e ∈ l, e.1 = a → e.2 = v) (h : (∃ e ∈ l, e.1 = a) ∨ lookupD m a d = v) : lookupD (l ++ m) a d = v := by
  induction l with
  | nil => simpa using h
  | cons e l ih =>
    obtain ⟨k, w⟩ := e
    rw [List.cons_append, lookupD_cons]
    by_cases hk : k = a
    · subst a
      simpa using hv (k, w) List.mem_cons_self rfl
    · rw [if_neg (by simpa using hk)]
      apply ih (fun e he => hv e (List.mem_cons_of_mem _ he))
      rcases h with ⟨e, he, rfl⟩ | h
      · rcases List.mem_cons.1 he with rfl | he
        · exact absurd rfl hk
        · exact .inl ⟨e, he, rfl⟩
      · exact .inr h

theorem lookupD_map {α β : Type} [BEq α] [LawfulBEq α] (l : List α) (f : α → β) (a : α) (d : β) (h : a ∈ l) :
    lookupD (l.map fun k => (k, f k)) a d = f a := by
  have := lookupD_append (l.map fun k => (k, f k)) [] a (f a) d
    (by simp only [List.mem_map]; rintro e ⟨k, _, rfl⟩ rfl; rfl) (.inl ⟨(a, f a), List.mem_map.2 ⟨a, h, rfl⟩, rfl⟩)
  simpa using this

theorem lookupD_skip {α β : Type} [BEq α] [LawfulBEq α] (l m : List (α × β)) (a : α) (d : β) (h : ∀ e ∈ l, e.1 ≠ a) :
    lookupD (l ++ m) a d = lookupD m a d := by
  induction l with
  | nil => rfl
  | cons e l ih =>
    obtain ⟨k, w⟩ := e
    rw [List.cons_append, lookupD_cons, if_neg (by simpa using h (k, w) List.mem_cons_self),
      ih fun e he => h e (List.mem_cons_of_mem _ he)]

/-! ### Reading through a form -/

theorem Ctx.xForm_at (x : Ctx) (r : LaunchRec) (n c : Nat) (h : c ∈ x.cs) : (x.xForm r n).at r x.cohort c = x.xAt r n c := by
  unfold Ctx.xForm Ctx.xAt
  cases x.xReg? n with
  | none => rfl
  | some g =>
    simp only
    split
    · next hall => rw [if_pos (List.all_eq_true.1 hall c h)]
    · simp only [XForm.at]
      rw [lookupD_map _ _ _ _ h]

theorem Ctx.qForm_at (x : Ctx) (r : LaunchRec) (n c : Nat) (h : c ∈ x.cs) : (x.qForm n).at r x.cohort c = x.qAt n c := by
  unfold Ctx.qForm Ctx.qAt
  cases x.qReg? n with
  | none => rfl
  | some g =>
    simp only
    split
    · next hall => rw [if_pos (List.all_eq_true.1 hall c h)]; rfl
    · simp only [XForm.at]
      rw [lookupD_map _ _ _ _ h]

theorem XForm.norm_at (f : XForm) (r : LaunchRec) (k c : Nat) : f.norm.at r k c = f.at r k c := by
  cases f with
  | u v => rfl
  | m l => rfl
  | a b sx sy sz =>
    by_cases h : sx = 0 ∧ sy = 0 ∧ sz = 0
    · rw [XForm.norm, if_pos h]
      obtain ⟨rfl, rfl, rfl⟩ := h
      simp [XForm.at, affineAt]
    · rw [XForm.norm, if_neg h]

theorem Ctx.xAt_some {x : Ctx} {n : Nat} {g : XReg} (h : x.xReg? n = some g) (r : LaunchRec) (c : Nat) :
    x.xAt r n c = if c ∈ g.live then g.form.at r x.cohort c else 0 := by
  simp [Ctx.xAt, h]

theorem Ctx.xAt_none {x : Ctx} {n : Nat} (h : x.xReg? n = none) (r : LaunchRec) (c : Nat) : x.xAt r n c = 0 := by
  simp [Ctx.xAt, h]

theorem Ctx.xAt_congr {x y : Ctx} {n : Nat} (h : y.xReg? n = x.xReg? n) (hk : y.cohort = x.cohort) (r : LaunchRec) (c : Nat) :
    y.xAt r n c = x.xAt r n c := by
  simp [Ctx.xAt, h, hk]

theorem Ctx.qAt_some {x : Ctx} {n : Nat} {g : QReg} (h : x.qReg? n = some g) (c : Nat) :
    x.qAt n c = if c ∈ g.live then g.val else 0 := by
  simp [Ctx.qAt, h]

theorem Ctx.qAt_none {x : Ctx} {n : Nat} (h : x.qReg? n = none) (c : Nat) : x.qAt n c = 0 := by
  simp [Ctx.qAt, h]

theorem Ctx.qAt_congr {x y : Ctx} {n : Nat} (h : y.qReg? n = x.qReg? n) (c : Nat) : y.qAt n c = x.qAt n c := by
  simp [Ctx.qAt, h]

/-! ### Kills (R157) -/

theorem Ctx.kill1_same (x : Ctx) (cs : List Nat) (g : RegRef) :
    x.kill1 cs g = { x with x := (x.kill1 cs g).x, q := (x.kill1 cs g).q } := by
  cases g <;> simp only [Ctx.kill1] <;> split <;> rfl

theorem find_num {α : Type} (num : α → Nat) (p : α → Bool) (l : List α) (n m : Nat) (h : n ≠ m) :
    (l.filter fun e => num e != m).find? (fun e => num e == n && p e) = l.find? fun e => num e == n && p e := by
  induction l with
  | nil => rfl
  | cons e l ih =>
    simp only [List.filter_cons]
    by_cases hm : num e = m
    · rw [if_neg (by simp [hm]), ih, List.find?_cons]
      have : (num e == n && p e) = false := by simp [hm, Ne.symm h]
      rw [this]
    · rw [if_pos (by simpa using hm), List.find?_cons, List.find?_cons, ih]

theorem find_gone {α : Type} (num : α → Nat) (p : α → Bool) (l : List α) (n : Nat) :
    (l.filter fun e => num e != n).find? (fun e => num e == n && p e) = none := by
  rw [List.find?_eq_none]
  intro e he
  have := (List.mem_filter.1 he).2
  simp_all

theorem Ctx.kill1_xReg_none (x : Ctx) (cs : List Nat) (g : RegRef) (n : Nat) (h : g ≠ .x n) :
    (x.kill1 cs g).xReg? n = x.xReg? n := by
  cases g with
  | p m => rfl
  | q m => simp only [Ctx.kill1]; split <;> rfl
  | x m =>
    have hm : n ≠ m := fun e => h (by rw [e])
    simp only [Ctx.kill1]
    split
    · rfl
    · next e he =>
      have hnum : e.num = m := by
        have := List.find?_some (by simpa [Ctx.xReg?] using he : List.find? _ x.x = some e)
        simp only [Bool.and_eq_true, beq_iff_eq] at this
        exact this.1
      unfold Ctx.xReg?
      split
      · exact find_num XReg.num (fun g => !g.live.isEmpty) _ _ _ hm
      · rw [List.find?_cons]
        have h0 (l : List Nat) : (e.num == n && !l.isEmpty) = false := by
          simp only [hnum, beq_false_of_ne (Ne.symm hm), Bool.false_and]
        simp only [h0]
        exact find_num XReg.num (fun g => !g.live.isEmpty) _ _ _ hm

theorem Ctx.kill1_xAt (x : Ctx) (r : LaunchRec) (cs : List Nat) (g : RegRef) (n c : Nat) :
    (x.kill1 cs g).xAt r n c = if g = .x n ∧ c ∈ cs then 0 else x.xAt r n c := by
  have hk : (x.kill1 cs g).cohort = x.cohort := by rw [Ctx.kill1_same]
  by_cases hg : g = .x n
  · subst g
    cases he : x.xReg? n with
    | none =>
      have : x.kill1 cs (.x n) = x := by simp only [Ctx.kill1, he]
      rw [this, Ctx.xAt_none he]
      split <;> rfl
    | some e =>
      have hnum : e.num = n := by
        have := List.find?_some (by simpa [Ctx.xReg?] using he : List.find? _ x.x = some e)
        simp only [Bool.and_eq_true, beq_iff_eq] at this
        exact this.1
      rw [Ctx.xAt_some he]
      by_cases hl : (e.live.filter fun c => !cs.contains c).isEmpty
      · have hn : (x.kill1 cs (.x n)).xReg? n = none := by
          simp only [Ctx.kill1, he, hl, if_pos]
          exact find_gone XReg.num (fun g => !g.live.isEmpty) _ _
        rw [Ctx.xAt_none hn]
        simp only [List.isEmpty_iff, List.filter_eq_nil_iff, Bool.not_eq_true', Bool.not_eq_false, List.contains_iff_mem] at hl
        by_cases hc : c ∈ e.live
        · simp [hl c hc]
        · simp [hc]
      · have hn : (x.kill1 cs (.x n)).xReg? n = some { e with live := e.live.filter fun c => !cs.contains c } := by
          simp only [Ctx.kill1, he, hl]
          unfold Ctx.xReg?
          simp only [List.find?_cons, Bool.false_eq_true, if_false]
          have : (e.num == n && !(e.live.filter fun c => !cs.contains c).isEmpty) = true := by
            rw [hnum]; simpa using hl
          simp only [this]
        rw [Ctx.xAt_some hn]
        by_cases hc : c ∈ cs <;> by_cases hl : c ∈ e.live <;> simp [hc, hl, hk]
  · rw [if_neg (fun h => hg h.1)]
    exact Ctx.xAt_congr (x.kill1_xReg_none cs g n hg) hk _ _

theorem Ctx.kill1_qReg_none (x : Ctx) (cs : List Nat) (g : RegRef) (n : Nat) (h : g ≠ .q n) :
    (x.kill1 cs g).qReg? n = x.qReg? n := by
  cases g with
  | p m => rfl
  | x m => simp only [Ctx.kill1]; split <;> rfl
  | q m =>
    have hm : n ≠ m := fun e => h (by rw [e])
    simp only [Ctx.kill1]
    split
    · rfl
    · next e he =>
      have hnum : e.num = m := by
        have := List.find?_some (by simpa [Ctx.qReg?] using he : List.find? _ x.q = some e)
        simp only [Bool.and_eq_true, beq_iff_eq] at this
        exact this.1
      unfold Ctx.qReg?
      split
      · exact find_num QReg.num (fun g => !g.live.isEmpty) _ _ _ hm
      · rw [List.find?_cons]
        have h0 (l : List Nat) : (e.num == n && !l.isEmpty) = false := by
          simp only [hnum, beq_false_of_ne (Ne.symm hm), Bool.false_and]
        simp only [h0]
        exact find_num QReg.num (fun g => !g.live.isEmpty) _ _ _ hm

theorem Ctx.kill1_qAt (x : Ctx) (cs : List Nat) (g : RegRef) (n c : Nat) :
    (x.kill1 cs g).qAt n c = if g = .q n ∧ c ∈ cs then 0 else x.qAt n c := by
  by_cases hg : g = .q n
  · subst g
    cases he : x.qReg? n with
    | none =>
      have : x.kill1 cs (.q n) = x := by simp only [Ctx.kill1, he]
      rw [this, Ctx.qAt_none he]
      split <;> rfl
    | some e =>
      have hnum : e.num = n := by
        have := List.find?_some (by simpa [Ctx.qReg?] using he : List.find? _ x.q = some e)
        simp only [Bool.and_eq_true, beq_iff_eq] at this
        exact this.1
      rw [Ctx.qAt_some he]
      by_cases hl : (e.live.filter fun c => !cs.contains c).isEmpty
      · have hn : (x.kill1 cs (.q n)).qReg? n = none := by
          simp only [Ctx.kill1, he, hl, if_pos]
          exact find_gone QReg.num (fun g => !g.live.isEmpty) _ _
        rw [Ctx.qAt_none hn]
        simp only [List.isEmpty_iff, List.filter_eq_nil_iff, Bool.not_eq_true', Bool.not_eq_false, List.contains_iff_mem] at hl
        by_cases hc : c ∈ e.live
        · simp [hl c hc]
        · simp [hc]
      · have hn : (x.kill1 cs (.q n)).qReg? n = some { e with live := e.live.filter fun c => !cs.contains c } := by
          simp only [Ctx.kill1, he, hl]
          unfold Ctx.qReg?
          simp only [List.find?_cons, Bool.false_eq_true, if_false]
          have : (e.num == n && !(e.live.filter fun c => !cs.contains c).isEmpty) = true := by
            rw [hnum]; simpa using hl
          simp only [this]
        rw [Ctx.qAt_some hn]
        by_cases hc : c ∈ cs <;> by_cases hl : c ∈ e.live <;> simp [hc, hl]
  · rw [if_neg (fun h => hg h.1)]
    exact Ctx.qAt_congr (x.kill1_qReg_none cs g n hg) _

/-- A kill changes the item and uniform registers only. -/
theorem Ctx.kill_same (x : Ctx) (cs : List Nat) (regs : List RegRef) :
    x.kill cs regs = { x with x := (x.kill cs regs).x, q := (x.kill cs regs).q } := by
  induction regs generalizing x with
  | nil => rfl
  | cons g gs ih =>
    have h : x.kill cs (g :: gs) = (x.kill1 cs g).kill cs gs := rfl
    rw [h, ih]
    rw [Ctx.kill1_same]

/-- A killed register reads 0 for the items it was killed for; every other reads as before (R157). -/
theorem Ctx.kill_xAt (x : Ctx) (r : LaunchRec) (cs : List Nat) (regs : List RegRef) (n c : Nat) :
    (x.kill cs regs).xAt r n c = if regs.contains (.x n) && cs.contains c then 0 else x.xAt r n c := by
  induction regs generalizing x with
  | nil => simp [Ctx.kill]
  | cons g gs ih =>
    have h : x.kill cs (g :: gs) = (x.kill1 cs g).kill cs gs := rfl
    rw [h, ih, Ctx.kill1_xAt]
    have e : ((g :: gs).contains (RegRef.x n)) = (decide (g = .x n) || gs.contains (.x n)) := by
      rw [List.contains_cons, show (RegRef.x n == g) = decide (g = .x n) by rw [Bool.eq_iff_iff, beq_iff_eq, decide_eq_true_iff]; exact ⟨Eq.symm, Eq.symm⟩]
    rw [e]
    by_cases hc : c ∈ cs <;> by_cases hg : g = .x n <;> by_cases hs : RegRef.x n ∈ gs <;> simp [hc, hg, hs]

theorem Ctx.kill_qAt (x : Ctx) (cs : List Nat) (regs : List RegRef) (n c : Nat) :
    (x.kill cs regs).qAt n c = if regs.contains (.q n) && cs.contains c then 0 else x.qAt n c := by
  induction regs generalizing x with
  | nil => simp [Ctx.kill]
  | cons g gs ih =>
    have h : x.kill cs (g :: gs) = (x.kill1 cs g).kill cs gs := rfl
    rw [h, ih, Ctx.kill1_qAt]
    have e : ((g :: gs).contains (RegRef.q n)) = (decide (g = .q n) || gs.contains (.q n)) := by
      rw [List.contains_cons, show (RegRef.q n == g) = decide (g = .q n) by rw [Bool.eq_iff_iff, beq_iff_eq, decide_eq_true_iff]; exact ⟨Eq.symm, Eq.symm⟩]
    rw [e]
    by_cases hc : c ∈ cs <;> by_cases hg : g = .q n <;> by_cases hs : RegRef.q n ∈ gs <;> simp [hc, hg, hs]

/-! ### Writes -/

theorem Ctx.setX_xAt (x : Ctx) (r : LaunchRec) (n m c : Nat) (f : XForm) (h : c ∈ x.cs) :
    (x.setX n f).xAt r m c = if m = n then f.at r x.cohort c else x.xAt r m c := by
  unfold Ctx.xAt Ctx.xReg? Ctx.setX
  simp only [List.find?_cons]
  by_cases hm : m = n
  · subst m
    have : (n == n && !x.cs.isEmpty) = true := by
      have : x.cs ≠ [] := List.ne_nil_of_mem h
      simp [this]
    simp only [this]
    simp [h, XForm.norm_at]
  · have : (n == m && !x.cs.isEmpty) = false := by simp [Ne.symm hm]
    simp only [this]
    rw [if_neg hm, find_num XReg.num (fun g => !g.live.isEmpty) _ _ _ hm]

theorem Ctx.setSlots_other (x : Ctx) (r : LaunchRec) (n m c : Nat) (vals : List (Nat × Word)) (hm : m ≠ n) :
    (x.setSlots r n vals).xAt r m c = x.xAt r m c := by
  unfold Ctx.xAt Ctx.xReg? Ctx.setSlots
  simp only [List.find?_cons]
  have (l : List Nat) : (n == m && !l.isEmpty) = false := by simp [Ne.symm hm]
  simp only [this]
  rw [find_num XReg.num (fun g => !g.live.isEmpty) _ _ _ hm]

/-- The register that a write of slots makes. -/
def Ctx.slotReg (x : Ctx) (r : LaunchRec) (n : Nat) (vals : List (Nat × Word)) : XReg :=
  let keep := match x.xReg? n with
    | none => []
    | some g => (g.live.filter fun c => !(vals.any fun v => v.1 == c)).map fun c => (c, g.form.at r x.cohort c)
  { num := n, form := .m (keep ++ vals), live := unionNat (((x.xReg? n).map XReg.live).getD []) (vals.map Prod.fst) }

/-- An item whose value is written reads it. -/
theorem Ctx.setSlots_new (x : Ctx) (r : LaunchRec) (n c : Nat) (v : Word) (vals : List (Nat × Word))
    (hv : ∀ e ∈ vals, e.1 = c → e.2 = v) (h : ∃ e ∈ vals, e.1 = c) : (x.setSlots r n vals).xAt r n c = v := by
  have hin : c ∈ unionNat (((x.xReg? n).map XReg.live).getD []) (vals.map Prod.fst) := by
    rw [mem_unionNat]
    obtain ⟨e, he, rfl⟩ := h
    exact .inr (List.mem_map_of_mem he)
  have hreg : (x.setSlots r n vals).xReg? n = some (x.slotReg r n vals) := by
    unfold Ctx.xReg? Ctx.setSlots
    simp only [List.find?_cons]
    have : (n == n && !(unionNat (((x.xReg? n).map XReg.live).getD []) (vals.map Prod.fst)).isEmpty) = true := by
      simp [List.ne_nil_of_mem hin]
    simp only [this]
    rfl
  rw [Ctx.xAt_some hreg, if_pos (by exact hin)]
  simp only [Ctx.slotReg, XForm.at]
  rw [lookupD_skip]
  · have := lookupD_append vals [] c v 0 hv (.inl h)
    simpa using this
  · obtain ⟨e, he, rfl⟩ := h
    split
    · simp
    · simp only [List.mem_map, List.mem_filter]
      rintro f ⟨k, ⟨_, hk⟩, rfl⟩
      simp only [Bool.not_eq_true', List.any_eq_false, beq_iff_eq] at hk
      exact fun heq => hk e he heq.symm

/-- An item whose value is not written reads what it read. -/
theorem Ctx.setSlots_old (x : Ctx) (r : LaunchRec) (n c : Nat) (vals : List (Nat × Word)) (h : ∀ e ∈ vals, e.1 ≠ c) :
    (x.setSlots r n vals).xAt r n c = x.xAt r n c := by
  by_cases hlive : (unionNat (((x.xReg? n).map XReg.live).getD []) (vals.map Prod.fst)).isEmpty
  · have hnil := List.isEmpty_iff.1 hlive
    have hr : (x.setSlots r n vals).xReg? n = none := by
      unfold Ctx.xReg? Ctx.setSlots
      simp only [List.find?_cons]
      have hl : unionNat ((Option.map XReg.live (x.xReg? n)).getD []) (List.map Prod.fst vals) = [] := hnil
      simp only [hl]
      simp only [List.isEmpty_nil, Bool.not_true, Bool.and_false]
      exact find_gone XReg.num (fun g => !g.live.isEmpty) _ _
    rw [Ctx.xAt_none hr]
    cases ho : x.xReg? n with
    | none => rw [Ctx.xAt_none ho]
    | some g =>
      rw [Ctx.xAt_some ho, if_neg]
      intro hc
      have : c ∈ unionNat (((x.xReg? n).map XReg.live).getD []) (vals.map Prod.fst) := by
        rw [mem_unionNat, ho]; exact .inl (by simpa using hc)
      rw [hnil] at this
      simp at this
  · have hreg : (x.setSlots r n vals).xReg? n = some (x.slotReg r n vals) := by
      unfold Ctx.xReg? Ctx.setSlots
      simp only [List.find?_cons]
      have : (n == n && !(unionNat ((Option.map XReg.live (x.xReg? n)).getD []) (vals.map Prod.fst)).isEmpty) = true := by
        simpa using hlive
      simp only [this]
      rfl
    rw [Ctx.xAt_some hreg]
    cases ho : x.xReg? n with
    | none =>
      rw [Ctx.xAt_none ho, if_neg]
      simp only [Ctx.slotReg, ho, mem_unionNat, Option.map_none, Option.getD_none, List.mem_map, List.not_mem_nil, false_or]
      rintro ⟨e, he, hc⟩
      exact h e he hc
    | some g =>
      rw [Ctx.xAt_some ho]
      have hin : c ∈ (x.slotReg r n vals).live ↔ c ∈ g.live := by
        simp only [Ctx.slotReg, ho, mem_unionNat, Option.map_some, Option.getD_some, List.mem_map]
        exact ⟨fun k => k.elim (fun k => k) fun ⟨e, he, hec⟩ => absurd hec (h e he), .inl⟩
      by_cases hc : c ∈ g.live
      · rw [if_pos (hin.2 hc), if_pos hc]
        simp only [Ctx.slotReg, ho, XForm.at]
        apply lookupD_append
        · simp only [List.mem_map, List.mem_filter]
          rintro e ⟨k, _, rfl⟩ rfl
          rfl
        · refine .inl ⟨(c, g.form.at r x.cohort c), List.mem_map.2 ⟨c, List.mem_filter.2 ⟨hc, ?_⟩, rfl⟩, rfl⟩
          simp only [Bool.not_eq_true', List.any_eq_false, beq_iff_eq]
          exact fun e he => h e he
      · rw [if_neg (fun k => hc (hin.1 k)), if_neg hc]

theorem Ctx.setQ_qAt (x : Ctx) (n m c : Nat) (v : Word) (h : c ∈ x.cs) :
    (x.setQ n v).qAt m c = if m = n then v else x.qAt m c := by
  unfold Ctx.qAt Ctx.qReg? Ctx.setQ
  simp only [List.find?_cons]
  by_cases hm : m = n
  · subst m
    have : (n == n && !x.cs.isEmpty) = true := by
      have : x.cs ≠ [] := List.ne_nil_of_mem h
      simp [this]
    simp only [this]
    simp [h]
  · have : (n == m && !x.cs.isEmpty) = false := by simp [Ne.symm hm]
    simp only [this]
    rw [if_neg hm, find_num QReg.num (fun g => !g.live.isEmpty) _ _ _ hm]

theorem Ctx.setP_pForm (x : Ctx) (n m : Nat) (f : PForm) :
    (x.setP n f).pForm m = if m = 127 then .u true else if m = n then f else x.pForm m := by
  unfold Ctx.pForm Ctx.setP
  by_cases h7 : m = 127
  · simp [h7]
  · simp only [if_neg h7, List.find?_cons]
    by_cases hm : m = n
    · subst m; simp
    · have : (n == m) = false := by simp [Ne.symm hm]
      simp only [this, if_neg hm]
      have := find_num PReg.num (fun _ => true) x.p m n hm
      simp only [Bool.and_true] at this
      rw [this]

theorem Ctx.setPSlots_new (x : Ctx) (r : LaunchRec) (n c : Nat) (v : Bool) (vals : List (Nat × Bool)) (hn : n ≠ 127)
    (hv : ∀ e ∈ vals, e.1 = c → e.2 = v) (h : ∃ e ∈ vals, e.1 = c) : (x.setPSlots r n vals).pAt r n c = v := by
  unfold Ctx.pAt Ctx.setPSlots
  simp only
  rw [Ctx.setP_pForm, if_neg hn, if_pos rfl]
  simp only [PForm.at]
  rw [lookupD_skip]
  · have := lookupD_append vals [] c v false hv (.inl h)
    simpa using this
  · obtain ⟨e, he, rfl⟩ := h
    simp only [List.mem_map, List.mem_filter]
    rintro f ⟨k, ⟨_, hk⟩, rfl⟩
    simp only [Bool.not_eq_true', List.any_eq_false, beq_iff_eq] at hk
    exact fun heq => hk e he heq.symm

theorem Ctx.setPSlots_old (x : Ctx) (r : LaunchRec) (n m c : Nat) (vals : List (Nat × Bool)) (hc : c ∈ x.cs)
    (h : m ≠ n ∨ ∀ e ∈ vals, e.1 ≠ c) : (x.setPSlots r n vals).pAt r m c = x.pAt r m c := by
  unfold Ctx.pAt Ctx.setPSlots
  simp only
  rw [Ctx.setP_pForm]
  by_cases h7 : m = 127
  · rw [if_pos h7, h7]; simp only [Ctx.pForm, if_pos, PForm.at]
  · rw [if_neg h7]
    by_cases hm : m = n
    · subst m
      have h : ∀ e ∈ vals, e.1 ≠ c := h.resolve_left (fun k => k rfl)
      rw [if_pos rfl]
      simp only [PForm.at]
      have hco : (x.setP n (.m ((x.cs.filter fun c => !(vals.any fun v => v.1 == c)).map
        (fun c => (c, (x.pForm n).at r x.cohort c)) ++ vals))).cohort = x.cohort := rfl
      apply lookupD_append
      · simp only [List.mem_map, List.mem_filter]
        rintro e ⟨k, _, rfl⟩ rfl
        rfl
      · refine .inl ⟨(c, (x.pForm n).at r x.cohort c), List.mem_map.2 ⟨c, List.mem_filter.2 ⟨hc, ?_⟩, rfl⟩, rfl⟩
        simp only [Bool.not_eq_true', List.any_eq_false, beq_iff_eq]
        exact fun e he => h e he
    · rw [if_neg hm]; rfl

end Sys2Proof.Machine
end

