-- ==== Sys2Proof/Laws/Issue.lean ====
section
/-! SUPPORT. The issue of an instruction: what the gate answers when the group performs it, what going on changes, and what
writing results and predicates changes, said once for every instruction that writes registers. -/

namespace Sys2Proof.Machine

/-! ### Contexts in the list -/

theorem find_map_id {l : List Ctx} {f : Ctx → Ctx} (hf : ∀ x, (f x).id = x.id) (n : Nat) :
    (l.map f).find? (fun c => c.id == n) = (l.find? fun c => c.id == n).map f := by
  induction l with
  | nil => rfl
  | cons x l ih =>
    rw [List.map_cons, List.find?_cons, List.find?_cons, hf]
    split
    · rfl
    · exact ih

theorem State.setCtx_find (s : State) (y : Ctx) (n : Nat) :
    (s.setCtx y).ctx? n = if n = y.id then (s.ctx? n).map (fun _ => y) else s.ctx? n := by
  unfold State.ctx? State.setCtx updWhere
  simp only
  rw [find_map_id (f := fun x => if x.id == y.id then y else x)
    (by intro x; by_cases h : x.id = y.id <;> simp [h])]
  cases h : s.ctxs.find? fun c => c.id == n with
  | none => simp
  | some x =>
    have hx : x.id = n := by simpa using List.find?_some h
    by_cases hn : n = y.id
    · simp [hx, hn]
    · simp [hx, hn]

theorem State.modCtx_find (s : State) (m : Nat) (f : Ctx → Ctx) (hf : ∀ x, (f x).id = x.id) (n : Nat) :
    (s.modCtx m f).ctx? n = if n = m then (s.ctx? n).map f else s.ctx? n := by
  unfold State.ctx? State.modCtx updWhere
  simp only
  rw [find_map_id (f := fun x => if x.id == m then f x else x)
    (by intro x; by_cases h : x.id = m <;> simp [h, hf])]
  cases h : s.ctxs.find? fun c => c.id == n with
  | none => simp
  | some x =>
    have hx : x.id = n := by simpa using List.find?_some h
    by_cases hn : n = m
    · simp [hx, hn]
    · simp [hx, hn]

theorem State.ctx?_id {s : State} {n : Nat} {x : Ctx} (h : s.ctx? n = some x) : x.id = n := by
  simpa [State.ctx?] using List.find?_some h

/-! ### The gate -/

theorem State.commitStaged_none (s : State) (x : Ctx) (n : Nat) (h : s.ctx? n = some x) (h0 : x.staged = 0) :
    s.commitStaged n = s := by
  simp [State.commitStaged, h, h0]

/-- The gate lets a performed instruction through, on the state as it is. -/
theorem Performs.gate {s : State} {m : Meta} {i : Issue} (h : Performs s m i) : s.gate m = .go s i := by
  have hissue : s.issue? = some { i with aff := i.grp } := by
    unfold State.issue?
    rw [h.turn]
    simp only [h.ctx, h.launch, h.group]
    obtain ⟨ctx, launch, pc, grp, aff⟩ := i
    have := h.items
    simp only at this ⊢
    rw [← this]
  unfold State.gate
  rw [hissue]
  have hp : ({ i with aff := i.grp } : Issue).place = i.place := rfl
  have hg : ({ i with aff := i.grp } : Issue).guarded m.guard m.neg m.whole = some i.aff := h.guard
  have he : ({ i with aff := i.grp } : Issue).atEntry = i.atEntry := rfl
  simp only [hp, hg, he]
  rw [if_neg (by
    have h1 := h.count
    have h2 := h.long
    simp only [Bool.or_eq_true, decide_eq_true_eq, Bool.and_eq_true, not_or, not_and, not_le]
    exact ⟨h1, h2⟩)]
  have hs : (if i.atEntry = true then s.commitStaged i.ctx.id else s) = s := by
    split
    · next h1 => exact s.commitStaged_none i.ctx i.ctx.id h.ctx (h.staged h1)
    · rfl
  simp only [hs, h.ctx, Option.getD_some]
  rw [if_neg (by simpa using h.affects)]
  have hc : (m.usesK && !s.kReady i.ctx) = false := by
    cases hk : m.usesK with
    | false => rfl
    | true => simp [h.const hk]
  simp only [h.flag, hc, h.hazard, Bool.or_self, Bool.false_eq_true, if_false]

theorem Performs.issueInstr {s : State} {m : Meta} {i : Issue} (h : Performs s m i) (body : State → Issue → Act) :
    s.issueInstr m body = .next ((body s i).run s i m) := by
  unfold State.issueInstr
  rw [h.gate]

/-- The affected items are items of the context. -/
theorem Performs.aff_sub {s : State} {m : Meta} {i : Issue} (h : Performs s m i) : i.aff.Sublist i.ctx.items := by
  have hg := h.guard
  have hgrp : i.grp.Sublist i.ctx.items := by rw [h.items]; exact List.filter_sublist
  unfold Issue.guarded at hg
  split at hg
  · next v _ =>
    have := Option.some.inj hg
    rw [← this]
    split
    · exact hgrp
    · exact List.nil_sublist _
  · split at hg
    · exact absurd hg (by simp)
    · have := Option.some.inj hg
      rw [← this]
      exact List.filter_sublist.trans hgrp

theorem Performs.full_eq {s : State} {m : Meta} {i : Issue} (h : Performs s m i) (hf : i.full = true) : i.aff = i.ctx.items :=
  h.aff_sub.eq_of_length (by simpa [Issue.full] using hf)

/-! ### Going on -/

/-- An item after the group has gone on. -/
def Item.gone (t : Item) (s : State) (i : Issue) (m : Meta) (x : Ctx) : Item :=
  let place := t.place.after m.long
  let t := { t with pc := i.next m, place := place, since := s.clock,
                    wait := match t.wait with
                      | .flags _ => .none
                      | .quiet => .none
                      | .region => .none
                      | w => w }
  if m.once && (i.aff.map Item.c).contains t.c then
    { t with entry := { pc := i.next m, region := t.region, fflags := x.fflags, place := place } }
  else t

/-- The context after the group has gone on. -/
def Ctx.gone (x : Ctx) (s : State) (i : Issue) (m : Meta) : Ctx :=
  { x with yielded := none,
           items := x.items.map fun t => if (i.grp.map Item.c).contains t.c then t.gone s i m x else t }

theorem State.advance_eq (s : State) (i : Issue) (m : Meta) : s.advance i m = s.modCtx i.ctx.id fun x => x.gone s i m := rfl

theorem Item.gone_c (t : Item) (s : State) (i : Issue) (m : Meta) (x : Ctx) : (t.gone s i m x).c = t.c := by
  unfold Item.gone; simp only; split <;> rfl

theorem Item.gone_pc (t : Item) (s : State) (i : Issue) (m : Meta) (x : Ctx) : (t.gone s i m x).pc = i.next m := by
  unfold Item.gone; simp only; split <;> rfl

theorem Item.gone_groups (t : Item) (s : State) (i : Issue) (m : Meta) (x : Ctx) : (t.gone s i m x).groups = t.groups := by
  unfold Item.gone; simp only; split <;> rfl

theorem Item.gone_objs (t : Item) (s : State) (i : Issue) (m : Meta) (x : Ctx) : (t.gone s i m x).objs = t.objs := by
  unfold Item.gone; simp only; split <;> rfl

theorem Ctx.gone_moved (x : Ctx) (s : State) (i : Issue) (m : Meta) (h : x.items = i.ctx.items) : i.Moved m (x.gone s i m) := by
  unfold Issue.Moved Issue.Stands Ctx.gone
  simp only [h, List.map_map]
  apply List.map_congr_left
  intro t _
  simp only [Function.comp_apply]
  split
  · rw [Item.gone_c, Item.gone_pc, Item.gone_groups, Item.gone_objs]
  · rfl

theorem Ctx.gone_cs (x : Ctx) (s : State) (i : Issue) (m : Meta) : (x.gone s i m).cs = x.cs := by
  unfold Ctx.gone Ctx.cs
  simp only [List.map_map]
  apply List.map_congr_left
  intro t _
  simp only [Function.comp_apply]
  split
  · rw [Item.gone_c]
  · rfl

/-! ### Results -/

/-- A result's U or A form gives each item the value the result has for it. -/
structure Out.Sound (o : Out) (i : Issue) : Prop where
  form : ∀ f, o.form = some f → ∀ t ∈ i.ctx.items, f.at i.launch.rcd i.ctx.cohort t.c = o.val t
  index : ∀ t ∈ i.ctx.items, ∀ u ∈ i.ctx.items, t.c = u.c → o.val t = o.val u

/-- What writing results keeps of a context: its items, cohort, predicates and everything but registers. -/
theorem Out.write_same (o : Out) (i : Issue) (x : Ctx) :
    o.write i x = { x with x := (o.write i x).x, q := (o.write i x).q } := by
  unfold Out.write
  split
  · split
    · split <;> rfl
    · rfl
  · split <;> rfl
  · rfl

theorem Out.write_cs (o : Out) (i : Issue) (x : Ctx) : (o.write i x).cs = x.cs := by rw [Out.write_same]; rfl
theorem Out.write_cohort (o : Out) (i : Issue) (x : Ctx) : (o.write i x).cohort = x.cohort := by rw [Out.write_same]

section
variable {s : State} {m : Meta} {i : Issue} (h : Performs s m i)
include h

theorem Out.write_new (o : Out) (x : Ctx) (n : Nat) (hd : o.dst = .x n) (hs : o.Sound i) (hcs : x.cs = i.ctx.cs)
    (hk : x.cohort = i.ctx.cohort) (t : Item) (ht : t ∈ i.aff) : (o.write i x).xAt i.launch.rcd n t.c = o.val t := by
  have hti : t ∈ i.ctx.items := h.aff_sub.subset ht
  have slots : (x.setSlots i.launch.rcd n (i.aff.map fun u => (u.c, o.val u))).xAt i.launch.rcd n t.c = o.val t := by
    apply Ctx.setSlots_new
    · simp only [List.mem_map]
      rintro e ⟨u, hu, rfl⟩ he
      exact hs.index u (h.aff_sub.subset hu) t hti he
    · exact ⟨_, List.mem_map.2 ⟨t, ht, rfl⟩, rfl⟩
  unfold Out.write
  rw [hd]
  simp only
  cases hf : o.form with
  | none => exact slots
  | some f =>
    simp only
    split
    · rw [Ctx.setX_xAt _ _ _ _ _ _ (by rw [hcs]; exact List.mem_map_of_mem hti), if_pos rfl, hk]
      exact hs.form f hf t hti
    · exact slots

theorem Out.write_old (o : Out) (x : Ctx) (n c : Nat) (hcs : x.cs = i.ctx.cs) (hc : c ∈ i.ctx.cs)
    (hd : o.dst = .x n → c ∉ i.aff.map Item.c) : (o.write i x).xAt i.launch.rcd n c = x.xAt i.launch.rcd n c := by
  unfold Out.write
  cases hdst : o.dst with
  | x k =>
    simp only
    have slots : (x.setSlots i.launch.rcd k (i.aff.map fun u => (u.c, o.val u))).xAt i.launch.rcd n c
        = x.xAt i.launch.rcd n c := by
      by_cases hk : n = k
      · subst hk
        apply Ctx.setSlots_old
        simp only [List.mem_map]
        rintro e ⟨u, hu, rfl⟩ he
        exact hd hdst (List.mem_map.2 ⟨u, hu, he⟩)
      · exact Ctx.setSlots_other _ _ _ _ _ _ hk
    cases hf : o.form with
    | none => exact slots
    | some f =>
      simp only
      split
      · next hfull =>
        have hk : n ≠ k := by
          intro e
          apply hd (by rw [hdst, e])
          rw [h.full_eq hfull]
          exact hc
        rw [Ctx.setX_xAt _ _ _ _ _ _ (by rw [hcs]; exact hc), if_neg hk]
      · exact slots
  | q k => simp only; split <;> rfl
  | p k => rfl
  | none => rfl

theorem Out.write_qnew (o : Out) (x : Ctx) (n : Nat) (hd : o.dst = .q n) (hcs : x.cs = i.ctx.cs) (t : Item)
    (ht : i.first = some t) (c : Nat) (hc : c ∈ i.ctx.cs) : (o.write i x).qAt n c = o.val t := by
  have _ := h
  unfold Out.write
  rw [hd]
  simp only [ht]
  rw [Ctx.setQ_qAt _ _ _ _ _ (by rw [hcs]; exact hc), if_pos rfl]

theorem Out.write_qold (o : Out) (x : Ctx) (n c : Nat) (hcs : x.cs = i.ctx.cs) (hc : c ∈ i.ctx.cs) (hd : o.dst ≠ .q n) :
    (o.write i x).qAt n c = x.qAt n c := by
  have _ := h
  unfold Out.write
  cases hdst : o.dst with
  | x k => simp only; split <;> [split; skip] <;> rfl
  | q k =>
    simp only
    split
    · rw [Ctx.setQ_qAt _ _ _ _ _ (by rw [hcs]; exact hc), if_neg (fun e => hd (by rw [hdst, e]))]
    · rfl
  | p k => rfl
  | none => rfl

/-- Registers that no two results share. -/
def Apart (outs : List Out) : Prop :=
  outs.Pairwise fun o p => ∀ n, (o.dst = .x n → p.dst ≠ .x n) ∧ (o.dst = .q n → p.dst ≠ .q n)

omit h in
theorem writes_same (outs : List Out) (x : Ctx) :
    outs.foldl (fun x o => o.write i x) x
      = { x with x := (outs.foldl (fun x o => o.write i x) x).x, q := (outs.foldl (fun x o => o.write i x) x).q } := by
  induction outs generalizing x with
  | nil => rfl
  | cons o os ih => rw [List.foldl_cons, ih, Out.write_same]

theorem writes_old (outs : List Out) (x : Ctx) (n c : Nat) (hcs : x.cs = i.ctx.cs) (hc : c ∈ i.ctx.cs)
    (hd : ∀ o ∈ outs, o.dst = .x n → c ∉ i.aff.map Item.c) :
    (outs.foldl (fun x o => o.write i x) x).xAt i.launch.rcd n c = x.xAt i.launch.rcd n c := by
  induction outs generalizing x with
  | nil => rfl
  | cons o os ih =>
    rw [List.foldl_cons, ih _ (by rw [Out.write_cs, hcs]) (fun o ho => hd o (List.mem_cons_of_mem _ ho)),
      Out.write_old h o x n c hcs hc (hd o List.mem_cons_self)]

theorem writes_qold (outs : List Out) (x : Ctx) (n c : Nat) (hcs : x.cs = i.ctx.cs) (hc : c ∈ i.ctx.cs)
    (hd : ∀ o ∈ outs, o.dst ≠ .q n) : (outs.foldl (fun x o => o.write i x) x).qAt n c = x.qAt n c := by
  induction outs generalizing x with
  | nil => rfl
  | cons o os ih =>
    rw [List.foldl_cons, ih _ (by rw [Out.write_cs, hcs]) (fun o ho => hd o (List.mem_cons_of_mem _ ho)),
      Out.write_qold h o x n c hcs hc (hd o List.mem_cons_self)]

theorem writes_new (outs : List Out) (x : Ctx) (hap : Apart outs) (hs : ∀ o ∈ outs, o.Sound i) (hcs : x.cs = i.ctx.cs)
    (hk : x.cohort = i.ctx.cohort) (o : Out) (ho : o ∈ outs) (n : Nat) (hd : o.dst = .x n) (t : Item) (ht : t ∈ i.aff) :
    (outs.foldl (fun x o => o.write i x) x).xAt i.launch.rcd n t.c = o.val t := by
  induction outs generalizing x with
  | nil => simp at ho
  | cons p os ih =>
    rw [List.foldl_cons]
    obtain ⟨h1, h2⟩ := List.pairwise_cons.1 hap
    rcases List.mem_cons.1 ho with rfl | ho
    · rw [writes_old h os _ n t.c (by rw [Out.write_cs, hcs]) (List.mem_map_of_mem (h.aff_sub.subset ht))
        (fun q hq e => absurd e ((h1 q hq n).1 hd)),
        Out.write_new h o x n hd (hs o List.mem_cons_self) hcs hk t ht]
    · exact ih _ h2 (fun q hq => hs q (List.mem_cons_of_mem _ hq)) (by rw [Out.write_cs, hcs])
        (by rw [Out.write_cohort, hk]) ho

theorem writes_qnew (outs : List Out) (x : Ctx) (hap : Apart outs) (hcs : x.cs = i.ctx.cs) (o : Out) (ho : o ∈ outs) (n : Nat)
    (hd : o.dst = .q n) (t : Item) (ht : i.first = some t) (c : Nat) (hc : c ∈ i.ctx.cs) :
    (outs.foldl (fun x o => o.write i x) x).qAt n c = o.val t := by
  induction outs generalizing x with
  | nil => simp at ho
  | cons p os ih =>
    rw [List.foldl_cons]
    obtain ⟨h1, h2⟩ := List.pairwise_cons.1 hap
    rcases List.mem_cons.1 ho with rfl | ho
    · rw [writes_qold h os _ n c (by rw [Out.write_cs, hcs]) hc (fun q hq e => absurd e ((h1 q hq n).2 hd)),
        Out.write_qnew h o x n hd hcs t ht c hc]
    · exact ih _ h2 (by rw [Out.write_cs, hcs]) ho

omit h in
theorem Ctx.gone_xAt (x : Ctx) (t : State) (n c : Nat) (r : LaunchRec) : (x.gone t i m).xAt r n c = x.xAt r n c := rfl
omit h in
theorem Ctx.gone_qAt (x : Ctx) (t : State) (n c : Nat) : (x.gone t i m).qAt n c = x.qAt n c := rfl

omit h in
theorem Ctx.kill_cs (x : Ctx) (cs : List Nat) (regs : List RegRef) : (x.kill cs regs).cs = x.cs := by
  rw [Ctx.kill_same]; rfl

/-- What the writing of results makes of the context, flags raised and the group gone on. -/
theorem Issue.wrote (outs : List Out) (fl : BitVec 5) (t : State) (hap : Apart outs) (hs : ∀ o ∈ outs, o.Sound i) :
    Wrote i m outs fl (({ i.written m outs with fflags := i.ctx.fflags ||| fl } : Ctx).gone t i m) := by
  have hsame : i.written m outs = { i.ctx with x := (i.written m outs).x, q := (i.written m outs).q } := by
    unfold Issue.written
    rw [writes_same, Ctx.kill_same]
  have hcs0 : (i.ctx.kill (i.grp.map Item.c) m.marks).cs = i.ctx.cs := Ctx.kill_cs _ _ _
  have hk0 : (i.ctx.kill (i.grp.map Item.c) m.marks).cohort = i.ctx.cohort := by rw [Ctx.kill_same]
  have hx : ∀ n c, ({ i.written m outs with fflags := i.ctx.fflags ||| fl } : Ctx).xAt i.launch.rcd n c
      = (i.written m outs).xAt i.launch.rcd n c := fun _ _ => rfl
  have hq : ∀ n c, ({ i.written m outs with fflags := i.ctx.fflags ||| fl } : Ctx).qAt n c
      = (i.written m outs).qAt n c := fun _ _ => rfl
  refine ⟨?_, ?_, ?_, ?_, ?_, ?_⟩
  · rw [hsame]; rfl
  · apply Ctx.gone_moved
    rw [hsame]
  · intro o ho n hd u hu
    rw [Ctx.gone_xAt, hx]
    exact writes_new h outs _ hap hs hcs0 hk0 o ho n hd u hu
  · intro o ho n hd u hu c hc
    rw [Ctx.gone_qAt, hq]
    exact writes_qnew h outs _ hap hcs0 o ho n hd u hu c hc
  · intro n c hc hd
    rw [Ctx.gone_xAt, hx, Issue.written, writes_old h outs _ n c hcs0 hc hd, Ctx.kill_xAt]
    rfl
  · intro n c hc hd
    rw [Ctx.gone_qAt, hq, Issue.written, writes_qold h outs _ n c hcs0 hc hd, Ctx.kill_qAt]
    rfl

omit h in
theorem onlyCtx_of (hctx : s.ctx? i.ctx.id = some i.ctx) (f : Ctx → Ctx) (hf : ∀ x, (f x).id = x.id) :
    OnlyCtx s i (s.modCtx i.ctx.id f) (f i.ctx) := by
  refine ⟨rfl, fun n hn => ?_, ?_⟩
  · rw [State.modCtx_find _ _ _ hf, if_neg hn]
  · rw [State.modCtx_find _ _ _ hf, if_pos rfl, hctx]; rfl

omit h in
/-- What installing a context's new registers can do: they fit, the context becomes them; they fit once spilled, room is made; or the
items fault. -/
theorem State.install_cases (s : State) (i : Issue) (y : Ctx) :
    (s.fits y = true ∧ s.install i y = .advance (s.setCtx y)) ∨
    (s.fits y = false ∧ s.fitsBut (s.setCtx y) y.core = true ∧ s.install i y = .advance ((s.setCtx y).makeRoom y s.ctxs.length)) ∨
    (s.fits y = false ∧ s.fitsBut (s.setCtx y) y.core = false ∧ s.install i y = .set (s.noRoom i)) := by
  unfold State.install
  by_cases h1 : s.fits y = true
  · exact .inl ⟨h1, if_pos h1⟩
  · by_cases h2 : s.fitsBut (s.setCtx y) y.core = true
    · exact .inr (.inl ⟨by simpa using h1, h2, by rw [if_neg h1, if_pos h2]⟩)
    · exact .inr (.inr ⟨by simpa using h1, by simpa using h2, by rw [if_neg h1, if_neg h2]⟩)

omit h in
theorem State.install_fits (s : State) (i : Issue) {y : Ctx} (h : s.fits y = true) : s.install i y = .advance (s.setCtx y) :=
  if_pos h

/-- A computation without traps whose results fit their storage is performed: the results are written and the flags
raised. -/
theorem State.perform_run (cs : List Calc) (hap : Apart (cs.flatMap Calc.outs)) (hs : ∀ o ∈ cs.flatMap Calc.outs, o.Sound i)
    (htrap : s.trapped i cs = none)
    (hspan : i.ctx.kind = .span → ∀ o ∈ cs.flatMap Calc.outs, o.isM i = false)
    (hfit : s.fits (i.written m (cs.flatMap Calc.outs)) = true) :
    ∃ u y, (s.perform i m cs).run s i m = u ∧ OnlyCtx s i u y ∧ Wrote i m (cs.flatMap Calc.outs) (i.raised cs) y := by
  have hw : (i.written m (cs.flatMap Calc.outs)).id = i.ctx.id := by
    unfold Issue.written; rw [writes_same, Ctx.kill_same]
  have hff : (i.written m (cs.flatMap Calc.outs)).fflags = i.ctx.fflags := by
    unfold Issue.written; rw [writes_same, Ctx.kill_same]
  have hcut : (i.ctx.kind == CtxKind.span && (cs.flatMap Calc.outs).any fun o => o.isM i) = false := by
    by_cases hk : i.ctx.kind = .span
    · have : ((cs.flatMap Calc.outs).any fun o => o.isM i) = false := by
        rw [List.any_eq_false]
        intro o ho
        simp [hspan hk o ho]
      rw [this, Bool.and_false]
    · simp [hk]
  have hout : s.writeOuts i m (cs.flatMap Calc.outs) = .advance (s.setCtx (i.written m (cs.flatMap Calc.outs))) := by
    unfold State.writeOuts
    simp only [hcut, Bool.false_eq_true, if_false]
    exact State.install_fits s i hfit
  refine ⟨_, ({ i.written m (cs.flatMap Calc.outs) with fflags := i.ctx.fflags ||| i.raised cs } : Ctx).gone s i m, rfl, ?_, ?_⟩
  · unfold State.perform
    simp only [htrap, hout]
    simp only [Act.run, State.advance_eq]
    refine ⟨rfl, fun n hn => ?_, ?_⟩
    · rw [State.modCtx_find _ _ _ (by intro; rfl), if_neg hn, State.modCtx_find _ _ _ (by intro; rfl), if_neg hn,
        State.setCtx_find, if_neg (by rw [hw]; exact hn)]
    · rw [State.modCtx_find _ _ _ (by intro; rfl), if_pos rfl, State.modCtx_find _ _ _ (by intro; rfl), if_pos rfl,
        State.setCtx_find, if_pos hw.symm, h.ctx]
      simp only [Option.map_some, hff]
      rfl
  · exact Issue.wrote h _ _ _ hap hs

/-- Results written without a computation of flags. -/
theorem State.writeOuts_run (outs : List Out) (hap : Apart outs) (hs : ∀ o ∈ outs, o.Sound i)
    (hspan : i.ctx.kind = .span → ∀ o ∈ outs, o.isM i = false) (hfit : s.fits (i.written m outs) = true) :
    ∃ u y, (s.writeOuts i m outs).run s i m = u ∧ OnlyCtx s i u y ∧ Wrote i m outs 0 y := by
  have hw : (i.written m outs).id = i.ctx.id := by
    unfold Issue.written; rw [writes_same, Ctx.kill_same]
  have hff : (i.written m outs).fflags = i.ctx.fflags := by
    unfold Issue.written; rw [writes_same, Ctx.kill_same]
  have hcut : (i.ctx.kind == CtxKind.span && outs.any fun o => o.isM i) = false := by
    by_cases hk : i.ctx.kind = .span
    · have : (outs.any fun o => o.isM i) = false := by
        rw [List.any_eq_false]
        intro o ho
        simp [hspan hk o ho]
      rw [this, Bool.and_false]
    · simp [hk]
  have hout : s.writeOuts i m outs = .advance (s.setCtx (i.written m outs)) := by
    unfold State.writeOuts
    simp only [hcut, Bool.false_eq_true, if_false]
    exact State.install_fits s i hfit
  have hsame : ({ i.written m outs with fflags := i.ctx.fflags ||| 0 } : Ctx) = i.written m outs := by
    have : i.ctx.fflags ||| (0 : BitVec 5) = (i.written m outs).fflags := by rw [hff]; simp
    rw [this]
  refine ⟨_, (i.written m outs).gone s i m, rfl, ?_, ?_⟩
  · rw [hout]
    simp only [Act.run, State.advance_eq]
    refine ⟨rfl, fun n hn => ?_, ?_⟩
    · rw [State.modCtx_find _ _ _ (by intro; rfl), if_neg hn, State.setCtx_find, if_neg (by rw [hw]; exact hn)]
    · rw [State.modCtx_find _ _ _ (by intro; rfl), if_pos rfl, State.setCtx_find, if_pos hw.symm, h.ctx]
      rfl
  · have := Issue.wrote h outs 0 s hap hs
    rw [hsame] at this
    exact this

/-! ### Predicate results -/

omit h in
/-- What writing predicates keeps. -/
theorem writePreds_same (outs : List OutP) (x y : Ctx) (hy : writePreds i outs x = some y) : y = { x with p := y.p } := by
  induction outs generalizing x with
  | nil => simp only [writePreds, Option.some.injEq] at hy; rw [← hy]
  | cons o os ih =>
    have hwhole : ∀ z, o.whole i x = some z → z = { x with p := z.p } := by
      intro z hz
      unfold OutP.whole at hz
      split at hz
      · split at hz
        · cases hz; rfl
        · cases hz
      · split at hz
        · cases hz; rfl
        · cases hz
      · cases hz
      · cases hz; rfl
    have hslots : o.slots i x = { x with p := (o.slots i x).p } := by
      unfold OutP.slots; split <;> rfl
    simp only [writePreds] at hy
    split at hy
    · next z hz => rw [ih _ hy, hwhole z hz]
    · split at hy
      · cases hy
      · rw [ih _ hy, hslots]

/-- A predicate result's U or E form gives each item the value the result has for it. -/
structure OutP.Sound (o : OutP) (i : Issue) : Prop where
  form : ∀ f, o.form = some f → ∀ t ∈ i.ctx.items, f.at i.launch.rcd i.ctx.cohort t.c = o.val t
  index : ∀ t ∈ i.ctx.items, ∀ u ∈ i.ctx.items, t.c = u.c → o.val t = o.val u
  real : o.dst ≠ .p 127

omit h in
theorem Ctx.setP_pAt (x : Ctx) (r : LaunchRec) (n k c : Nat) (f : PForm) (hn : n ≠ 127) :
    (x.setP n f).pAt r k c = if k = n then f.at r x.cohort c else x.pAt r k c := by
  unfold Ctx.pAt
  rw [Ctx.setP_pForm]
  by_cases h7 : k = 127
  · rw [if_pos h7, if_neg (by omega), h7]; simp [Ctx.pForm, PForm.at]
  · rw [if_neg h7]
    by_cases hk : k = n
    · rw [if_pos hk, if_pos hk]; rfl
    · rw [if_neg hk, if_neg hk]; rfl

theorem OutP.slots_new (o : OutP) (x : Ctx) (n : Nat) (hd : o.dst = .p n) (hs : o.Sound i) (t : Item) (ht : t ∈ i.aff) :
    (o.slots i x).pAt i.launch.rcd n t.c = o.val t := by
  unfold OutP.slots
  rw [hd]
  simp only
  apply Ctx.setPSlots_new _ _ _ _ _ _ (fun e => hs.real (by rw [hd, e]))
  · simp only [List.mem_map]
    rintro e ⟨u, hu, rfl⟩ he
    exact hs.index u (h.aff_sub.subset hu) t (h.aff_sub.subset ht) he
  · exact ⟨_, List.mem_map.2 ⟨t, ht, rfl⟩, rfl⟩

omit h in
theorem OutP.slots_old (o : OutP) (x : Ctx) (n c : Nat) (hc : c ∈ x.cs) (hd : o.dst = .p n → c ∉ i.aff.map Item.c) :
    (o.slots i x).pAt i.launch.rcd n c = x.pAt i.launch.rcd n c := by
  unfold OutP.slots
  cases hdst : o.dst with
  | p k =>
    simp only
    apply Ctx.setPSlots_old _ _ _ _ _ _ hc
    by_cases hk : n = k
    · subst hk
      refine .inr ?_
      simp only [List.mem_map]
      rintro e ⟨u, hu, rfl⟩ he
      exact hd hdst (List.mem_map.2 ⟨u, hu, he⟩)
    · exact .inl hk
  | x k => rfl
  | q k => rfl
  | none => rfl

/-- A result written whole. -/
theorem OutP.whole_cases (o : OutP) (x z : Ctx) (hz : o.whole i x = some z) (hs : o.Sound i) (hk : x.cohort = i.ctx.cohort)
    (hcs : x.cs = i.ctx.cs) :
    (∀ n, o.dst = .p n → ∀ t ∈ i.aff, z.pAt i.launch.rcd n t.c = o.val t) ∧
    (∀ n, ∀ c ∈ x.cs, (o.dst = .p n → c ∉ i.aff.map Item.c) → z.pAt i.launch.rcd n c = x.pAt i.launch.rcd n c) := by
  have main : ∀ n f, o.dst = .p n → o.form = some f → i.full = true → z = x.setP n f →
      (∀ k, o.dst = .p k → ∀ t ∈ i.aff, z.pAt i.launch.rcd k t.c = o.val t) ∧
      (∀ k, ∀ c ∈ x.cs, (o.dst = .p k → c ∉ i.aff.map Item.c) → z.pAt i.launch.rcd k c = x.pAt i.launch.rcd k c) := by
    intro n f hd hf hfull hz
    have h7 : n ≠ 127 := fun e => hs.real (by rw [hd, e])
    subst hz
    constructor
    · intro k hk' t ht
      have : k = n := by rw [hd] at hk'; exact (Dst.p.inj hk').symm
      rw [Ctx.setP_pAt _ _ _ _ _ _ h7, if_pos this, hk]
      exact hs.form f hf t (h.aff_sub.subset ht)
    · intro k c hc hkeep
      have : k ≠ n := by
        intro e
        apply hkeep (by rw [hd, e])
        rw [h.full_eq hfull]
        rw [hcs] at hc
        exact hc
      rw [Ctx.setP_pAt _ _ _ _ _ _ h7, if_neg this]
  unfold OutP.whole at hz
  split at hz
  · next n v hd hf =>
    split at hz
    · next hfull => exact main n _ hd hf hfull (Option.some.inj hz).symm
    · cases hz
  · next n e hd hf =>
    split at hz
    · next hfull =>
      simp only [Bool.and_eq_true] at hfull
      exact main n _ hd hf hfull.1.1 (Option.some.inj hz).symm
    · cases hz
  · cases hz
  · next hnp _ =>
    cases hz
    refine ⟨fun n hd => ?_, fun _ _ _ _ => rfl⟩
    cases hf : o.form with
    | none => simp_all
    | some f => cases f <;> simp_all

omit h in
/-- Predicates that no two results share. -/
def ApartP (outs : List OutP) : Prop := outs.Pairwise fun o p => ∀ n, o.dst = .p n → p.dst ≠ .p n

theorem writePreds_facts (outs : List OutP) (x y : Ctx) (hy : writePreds i outs x = some y) (hap : ApartP outs)
    (hs : ∀ o ∈ outs, o.Sound i) (hk : x.cohort = i.ctx.cohort) (hcs : x.cs = i.ctx.cs) :
    (∀ o ∈ outs, ∀ n, o.dst = .p n → ∀ t ∈ i.aff, y.pAt i.launch.rcd n t.c = o.val t) ∧
    (∀ n, ∀ c ∈ i.ctx.cs, (∀ o ∈ outs, o.dst = .p n → c ∉ i.aff.map Item.c) →
      y.pAt i.launch.rcd n c = x.pAt i.launch.rcd n c) := by
  induction outs generalizing x with
  | nil =>
    simp only [writePreds, Option.some.injEq] at hy
    subst hy
    exact ⟨fun o ho => absurd ho (by simp), fun _ _ _ _ => rfl⟩
  | cons o os ih =>
    obtain ⟨h1, h2⟩ := List.pairwise_cons.1 hap
    have step : ∃ z, writePreds i os z = some y ∧ z.cohort = x.cohort ∧ z.cs = x.cs ∧
        (∀ n, o.dst = .p n → ∀ t ∈ i.aff, z.pAt i.launch.rcd n t.c = o.val t) ∧
        (∀ n, ∀ c ∈ x.cs, (o.dst = .p n → c ∉ i.aff.map Item.c) → z.pAt i.launch.rcd n c = x.pAt i.launch.rcd n c) := by
      simp only [writePreds] at hy
      split at hy
      · next z hz =>
        have hsame : z = { x with p := z.p } := by
          have := writePreds_same (i := i) [o] x z (by simp [writePreds, hz])
          exact this
        obtain ⟨ha, hb⟩ := OutP.whole_cases h o x z hz (hs o List.mem_cons_self) hk hcs
        exact ⟨z, hy, by rw [hsame], by rw [hsame]; rfl, ha, hb⟩
      · split at hy
        · cases hy
        · refine ⟨o.slots i x, hy, ?_, ?_, fun n hd t ht => OutP.slots_new h o x n hd (hs o List.mem_cons_self) t ht,
            fun n c hc hd => OutP.slots_old o x n c hc hd⟩
          · unfold OutP.slots; split <;> rfl
          · unfold OutP.slots; split <;> rfl
    obtain ⟨z, hz, hzk, hzc, ha, hb⟩ := step
    obtain ⟨hc, hd⟩ := ih z hz h2 (fun q hq => hs q (List.mem_cons_of_mem _ hq)) (by rw [hzk, hk]) (by rw [hzc, hcs])
    constructor
    · intro p hp n hpd t ht
      rcases List.mem_cons.1 hp with rfl | hp
      · rw [hd n t.c (List.mem_map_of_mem (h.aff_sub.subset ht)) (fun q hq e => absurd e (h1 q hq n hpd))]
        exact ha n hpd t ht
      · exact hc p hp n hpd t ht
    · intro n c hcc hkeep
      rw [hd n c hcc (fun q hq => hkeep q (List.mem_cons_of_mem _ hq))]
      exact hb n c (by rw [hcs]; exact hcc) (hkeep o List.mem_cons_self)

/-- What the writing of predicates makes of the context, flags raised and the group gone on. -/
theorem Issue.wroteP (outs : List OutP) (fl : BitVec 5) (t : State) (z : Ctx) (hz : i.writtenP m outs = some z)
    (hap : ApartP outs) (hs : ∀ o ∈ outs, o.Sound i) :
    WroteP i m outs fl (({ z with fflags := i.ctx.fflags ||| fl } : Ctx).gone t i m) := by
  have hkill := Ctx.kill_same i.ctx (i.grp.map Item.c) m.marks
  have hsame := writePreds_same outs _ z hz
  have hcs0 : (i.ctx.kill (i.grp.map Item.c) m.marks).cs = i.ctx.cs := Ctx.kill_cs _ _ _
  have hk0 : (i.ctx.kill (i.grp.map Item.c) m.marks).cohort = i.ctx.cohort := by rw [Ctx.kill_same]
  obtain ⟨ha, hb⟩ := writePreds_facts h outs _ z hz hap hs hk0 hcs0
  refine ⟨?_, ?_, ha, ?_, ?_, ?_⟩
  · rw [hsame, hkill]; rfl
  · apply Ctx.gone_moved
    rw [hsame, hkill]
  · intro n c hc hd
    rw [show (({ z with fflags := i.ctx.fflags ||| fl } : Ctx).gone t i m).pAt i.launch.rcd n c = z.pAt i.launch.rcd n c from rfl,
      hb n c hc hd, hkill]
    rfl
  · intro n c hc
    have : (({ z with fflags := i.ctx.fflags ||| fl } : Ctx).gone t i m).xAt i.launch.rcd n c
        = (i.ctx.kill (i.grp.map Item.c) m.marks).xAt i.launch.rcd n c := by rw [hsame]; rfl
    rw [this, Ctx.kill_xAt]
    rfl
  · intro n c hc
    have : (({ z with fflags := i.ctx.fflags ||| fl } : Ctx).gone t i m).qAt n c
        = (i.ctx.kill (i.grp.map Item.c) m.marks).qAt n c := by rw [hsame]; rfl
    rw [this, Ctx.kill_qAt]
    rfl

/-- Predicates that can be written and fit their storage are written. -/
theorem State.writePredList_run (outs : List OutP) (z : Ctx) (hz : i.writtenP m outs = some z) (hap : ApartP outs)
    (hs : ∀ o ∈ outs, o.Sound i) (hfit : s.fits z = true) :
    ∃ u y, (s.writePredList i m outs).run s i m = u ∧ OnlyCtx s i u y ∧ WroteP i m outs 0 y := by
  have hsame := writePreds_same outs _ z hz
  have hkill := Ctx.kill_same i.ctx (i.grp.map Item.c) m.marks
  have hid : z.id = i.ctx.id := by rw [hsame, hkill]
  have hff : z.fflags = i.ctx.fflags := by rw [hsame, hkill]
  have hout : s.writePredList i m outs = .advance (s.setCtx z) := by
    unfold State.writePredList
    have : writePreds i outs (i.ctx.kill (i.grp.map Item.c) m.marks) = some z := hz
    rw [this]
    simp only
    exact State.install_fits s i hfit
  have hz0 : ({ z with fflags := i.ctx.fflags ||| 0 } : Ctx) = z := by
    have : i.ctx.fflags ||| (0 : BitVec 5) = z.fflags := by rw [hff]; simp
    rw [this]
  refine ⟨_, z.gone s i m, rfl, ?_, ?_⟩
  · rw [hout]
    simp only [Act.run, State.advance_eq]
    refine ⟨rfl, fun n hn => ?_, ?_⟩
    · rw [State.modCtx_find _ _ _ (by intro; rfl), if_neg hn, State.setCtx_find, if_neg (by rw [hid]; exact hn)]
    · rw [State.modCtx_find _ _ _ (by intro; rfl), if_pos rfl, State.setCtx_find, if_pos hid.symm, h.ctx]
      rfl
  · have := Issue.wroteP h outs 0 s z hz hap hs
    rw [hz0] at this
    exact this

/-- The same of a comparison that raises flags. -/
theorem State.performP_run (o : OutP) (fl : Item → FFlags) (z : Ctx) (hz : i.writtenP m [o] = some z) (hs : o.Sound i)
    (htrap : s.trapped i [{ outs := [], once := false, fl := fl }] = none) (hfit : s.fits z = true) :
    ∃ u y, (s.performP i m o fl).run s i m = u ∧ OnlyCtx s i u y
      ∧ WroteP i m [o] (i.raised [{ outs := [], once := false, fl := fl }]) y := by
  have hsame := writePreds_same [o] _ z hz
  have hkill := Ctx.kill_same i.ctx (i.grp.map Item.c) m.marks
  have hid : z.id = i.ctx.id := by rw [hsame, hkill]
  have hff : z.fflags = i.ctx.fflags := by rw [hsame, hkill]
  have hout : s.writePred i m o = .advance (s.setCtx z) := by
    unfold State.writePred State.writePredList
    have : writePreds i [o] (i.ctx.kill (i.grp.map Item.c) m.marks) = some z := hz
    rw [this]
    simp only
    exact State.install_fits s i hfit
  refine ⟨_, ({ z with fflags := i.ctx.fflags ||| i.raised [{ outs := [], once := false, fl := fl }] } : Ctx).gone s i m, rfl,
    ?_, ?_⟩
  · unfold State.performP
    simp only [htrap, hout]
    simp only [Act.run, State.advance_eq]
    refine ⟨rfl, fun n hn => ?_, ?_⟩
    · rw [State.modCtx_find _ _ _ (by intro; rfl), if_neg hn, State.modCtx_find _ _ _ (by intro; rfl), if_neg hn,
        State.setCtx_find, if_neg (by rw [hid]; exact hn)]
    · rw [State.modCtx_find _ _ _ (by intro; rfl), if_pos rfl, State.modCtx_find _ _ _ (by intro; rfl), if_pos rfl,
        State.setCtx_find, if_pos hid.symm, h.ctx]
      simp only [Option.map_some, hff]
      rfl
  · exact Issue.wroteP h [o] _ s z hz (by simp [ApartP]) (by simpa using hs)

omit h in
/-- Outside a span predicates can always be written. -/
theorem writePreds_strand (hk : i.ctx.kind ≠ .span) (outs : List OutP) (x : Ctx) : ∃ y, writePreds i outs x = some y := by
  induction outs generalizing x with
  | nil => exact ⟨x, rfl⟩
  | cons o os ih =>
    simp only [writePreds]
    split
    · exact ih _
    · rw [if_neg (by simpa using hk)]
      exact ih _

omit h in
/-- Computations whose exceptions are not enabled do not trap. -/
theorem State.trapped_none (cs : List Calc) (hc : ∀ k ∈ cs, Calm i k) : s.trapped i cs = none := by
  have h1 : ¬ (cs.any fun c => c.once && match i.first with | some t => i.enabled (c.fl t) | none => false) = true := by
    rw [List.any_eq_true]
    rintro ⟨k, hk, hb⟩
    simp only [Bool.and_eq_true] at hb
    have := hc k hk
    unfold Calm at this
    rw [if_pos hb.1] at this
    cases hf : i.first with
    | none => simp [hf] at hb
    | some t => simp [hf, Issue.enabled, this t hf] at hb
  have h2 : (i.aff.filter fun t => cs.any fun c => !c.once && i.enabled (c.fl t)) = [] := by
    rw [List.filter_eq_nil_iff]
    intro t ht hb
    rw [List.any_eq_true] at hb
    obtain ⟨k, hk, hb⟩ := hb
    simp only [Bool.and_eq_true, Bool.not_eq_true'] at hb
    have := hc k hk
    unfold Calm at this
    rw [if_neg (by simp [hb.1])] at this
    simp [Issue.enabled, this t ht] at hb
  unfold State.trapped
  refine (if_neg h1).trans ?_
  rw [h2]
  rfl

end

end Sys2Proof.Machine
end

