-- ==== Sys2Proof/Laws/Forms.lean ====
section
/-! SUPPORT. Result forms (R152): a U or A form that an instruction gives its result has, for every item, the value that the
instruction computes for that item. -/

namespace Sys2Proof.Machine

/-- A form function of one source agrees with a word function. -/
def Agree1 (form : XForm → Option XForm) (f : Word → Word) : Prop :=
  ∀ a g, form a = some g → ∀ r k c, g.at r k c = f (a.at r k c)

/-- A form function of two sources agrees with a word function. -/
def Agree2 (form : XForm → XForm → Option XForm) (f : Word → Word → Word) : Prop :=
  ∀ a b g, form a b = some g → ∀ r k c, g.at r k c = f (a.at r k c) (b.at r k c)

/-- A form function of three sources agrees with a word function. -/
def Agree3 (form : XForm → XForm → XForm → Option XForm) (f : Word → Word → Word → Word) : Prop :=
  ∀ a b d g, form a b d = some g → ∀ r k c, g.at r k c = f (a.at r k c) (b.at r k c) (d.at r k c)

theorem oneU_agree (f : Word → Word) : Agree1 (oneU f) f := by
  intro a g h r k c
  cases a <;> simp only [oneU] at h <;> cases h
  rfl

theorem bothU_agree (f : Word → Word → Word) : Agree2 (bothU f) f := by
  intro a b g h r k c
  cases a <;> cases b <;> simp only [bothU] at h <;> cases h
  rfl

theorem threeU_agree (f : Word → Word → Word → Word) : Agree3 (threeU f) f := by
  intro a b d g h r k c
  cases a <;> cases b <;> cases d <;> simp only [threeU] at h <;> cases h
  rfl

/-- A form's value from its base and strides. -/
theorem XForm.parts_at {f : XForm} {b sx sy sz : Word} (h : f.parts = some (b, sx, sy, sz)) (r : LaunchRec) (k c : Nat) :
    f.at r k c = affineAt b sx sy sz (coord r k c) := by
  cases f <;> simp only [XForm.parts, Option.some.injEq, Prod.mk.injEq, reduceCtorEq] at h
  · obtain ⟨rfl, rfl, rfl, rfl⟩ := h
    simp [XForm.at, affineAt]
  · obtain ⟨rfl, rfl, rfl, rfl⟩ := h
    rfl

theorem zip_agree (f : Word → Word → Word)
    (hf : ∀ p px py pz q qx qy qz, ∀ v : Nat × Nat × Nat,
      affineAt (f p q) (f px qx) (f py qy) (f pz qz) v = f (affineAt p px py pz v) (affineAt q qx qy qz v)) :
    Agree2 (fun a b => a.zip f b) f := by
  intro a b g h r k c
  simp only [XForm.zip] at h
  split at h
  · next p px py pz q qx qy qz ha hb =>
    cases h
    rw [XForm.norm_at, XForm.parts_at ha, XForm.parts_at hb]
    exact hf ..
  · cases h

theorem add_affine (p px py pz q qx qy qz : Word) (v : Nat × Nat × Nat) :
    affineAt (p + q) (px + qx) (py + qy) (pz + qz) v = affineAt p px py pz v + affineAt q qx qy qz v := by
  unfold affineAt; ring

theorem sub_affine (p px py pz q qx qy qz : Word) (v : Nat × Nat × Nat) :
    affineAt (p - q) (px - qx) (py - qy) (pz - qz) v = affineAt p px py pz v - affineAt q qx qy qz v := by
  unfold affineAt; ring

theorem mul_affine (p px py pz w : Word) (v : Nat × Nat × Nat) :
    affineAt (p * w) (px * w) (py * w) (pz * w) v = affineAt p px py pz v * w := by
  unfold affineAt; ring

theorem shl_eq_mul (x : Word) (n : Nat) (h : n < 32) : x <<< n = x * BitVec.ofNat 32 (2 ^ n) := by
  apply BitVec.eq_of_toNat_eq
  have h2 : 2 ^ n < 2 ^ 32 := Nat.pow_lt_pow_right (by decide) h
  simp only [BitVec.toNat_shiftLeft, BitVec.toNat_mul, BitVec.toNat_ofNat, Nat.shiftLeft_eq]
  rw [Nat.mod_eq_of_lt h2]

theorem lea_affine (sh : Nat) (hsh : sh < 32) (p px py pz q qx qy qz : Word) (v : Nat × Nat × Nat) :
    affineAt (leaW sh p q) (leaW sh px qx) (leaW sh py qy) (leaW sh pz qz) v
      = leaW sh (affineAt p px py pz v) (affineAt q qx qy qz v) := by
  unfold leaW
  rw [shl_eq_mul _ _ hsh, shl_eq_mul _ _ hsh, shl_eq_mul _ _ hsh, shl_eq_mul _ _ hsh, shl_eq_mul _ _ hsh, add_affine,
    mul_affine]

theorem times_at {a g : XForm} {w : Word} (h : a.times w = some g) (r : LaunchRec) (k c : Nat) :
    g.at r k c = a.at r k c * w := by
  unfold XForm.times at h
  split at h
  · next p px py pz ha =>
    cases h
    rw [XForm.norm_at, XForm.parts_at ha]
    exact mul_affine ..
  · cases h

theorem product_agree : Agree2 XForm.product imulW := by
  intro a b g h r k c
  unfold XForm.product at h
  split at h
  · exact times_at h r k c
  · rw [times_at h r k c]; simp only [imulW, XForm.at]; ring
  · cases h

theorem formSum_add (sat : Bool) : Agree2 (formSum sat (iaddW sat)) (iaddW sat) := by
  cases sat
  · exact zip_agree _ (by intros; simp only [iaddW, Bool.false_eq_true, if_false]; exact add_affine ..)
  · exact bothU_agree _

theorem formSum_sub (sat : Bool) : Agree2 (formSum sat (isubW sat)) (isubW sat) := by
  cases sat
  · exact zip_agree _ (by intros; simp only [isubW, Bool.false_eq_true, if_false]; exact sub_affine ..)
  · exact bothU_agree _

theorem formMul_agree : Agree2 formMul imulW := product_agree

theorem formShl_agree : Agree2 formShl shlW := by
  intro a b g h r k c
  unfold formShl at h
  split at h
  · next n =>
    split at h
    · next hn =>
      rw [times_at h r k c]
      show _ = shlW _ n
      rw [shlW, if_pos hn]
      exact (shl_eq_mul _ _ hn).symm
    · next hn =>
      cases ha : a.parts with
      | none => simp [ha] at h
      | some p =>
        simp only [ha, Option.map_some, Option.some.injEq] at h
        subst h
        show _ = shlW _ n
        rw [shlW, if_neg hn]
        rfl
  · cases h

theorem formLea_agree (sh : Nat) (hsh : sh < 32) : Agree2 (formLea sh) (leaW sh) :=
  zip_agree _ (fun _ _ _ _ _ _ _ _ v => lea_affine sh hsh _ _ _ _ _ _ _ _ v)

theorem formMad_agree : Agree3 formMad imadW := by
  intro a b d g h r k c
  unfold formMad at h
  cases hp : a.product b with
  | none => simp [hp] at h
  | some p =>
    simp only [hp, Option.bind_some] at h
    have h1 := product_agree a b p hp r k c
    have h2 := zip_agree (· + ·) (fun _ _ _ _ _ _ _ _ v => add_affine _ _ _ _ _ _ _ _ v) p d g h r k c
    rw [h2, h1]
    rfl

theorem kept_at {f g : XForm} (h : f.kept = some g) (r : LaunchRec) (k c : Nat) : g.at r k c = f.at r k c := by
  cases f <;> simp only [XForm.kept] at h <;> cases h <;> rfl

end Sys2Proof.Machine
end

