-- ==== Sys2Proof/Laws/Memory.lean ====
section
/-! SUPPORT. Memory: what a byte reads after a write, and that every operation keeps the canonical form. -/

namespace Sys2Proof.Machine

theorem Memory.read_nil (a : Nat) : Memory.read [] a = Memory.blank := rfl

theorem Memory.read_cons (b : Nat) (w : Byte) (m : Memory) (a : Nat) :
    Memory.read ((b, w) :: m) a = if b = a then w else Memory.read m a := by
  unfold Memory.read
  rw [List.find?_cons]
  by_cases h : b = a
  · simp [h]
  · rw [if_neg h, show (b == a) = false from beq_false_of_ne h]

/-- The canonical form in its two parts. -/
theorem Memory.wf_iff (m : Memory) :
    m.wf = true ↔ m.Pairwise (fun a b => a.1 < b.1) ∧ ∀ c ∈ m, c.2 ≠ Memory.blank := by
  simp [Memory.wf]

theorem Memory.wf_nil : Memory.wf [] = true := by simp [Memory.wf]

theorem Memory.wf_cons (b : Nat) (w : Byte) (m : Memory) :
    Memory.wf ((b, w) :: m) = true ↔ (∀ c ∈ m, b < c.1) ∧ w ≠ Memory.blank ∧ m.wf = true := by
  simp only [Memory.wf_iff, List.pairwise_cons, List.mem_cons, forall_eq_or_imp]
  constructor
  · rintro ⟨⟨h1, h2⟩, h3, h4⟩; exact ⟨h1, h3, h2, h4⟩
  · rintro ⟨h1, h3, h2, h4⟩; exact ⟨⟨h1, h2⟩, h3, h4⟩

/-- Below every listed address memory reads blank. -/
theorem Memory.read_below (m : Memory) (a : Nat) (h : ∀ c ∈ m, a < c.1) : m.read a = Memory.blank := by
  induction m with
  | nil => rfl
  | cons c m ih =>
    obtain ⟨b, w⟩ := c
    rw [Memory.read_cons, if_neg, ih fun c hc => h c (List.mem_cons_of_mem _ hc)]
    have := h (b, w) List.mem_cons_self
    simp only at this
    omega

/-- What a write can list: the address written, or what was listed before. -/
theorem Memory.mem_write (m : Memory) (a : Nat) (v : Byte) (c : Host.Cell) (h : c ∈ m.write a v) : c = (a, v) ∨ c ∈ m := by
  induction m with
  | nil =>
    simp only [Memory.write] at h
    split at h <;> simp_all
  | cons d m ih =>
    obtain ⟨b, w⟩ := d
    simp only [Memory.write] at h
    split at h
    · split at h <;> simp_all
    · split at h
      · split at h <;> simp_all
        rcases h with h | h
        · exact .inl h
        · exact .inr (.inr h)
      · rcases List.mem_cons.1 h with h | h
        · exact .inr (by simp [h])
        · exact (ih h).imp id fun h => List.mem_cons_of_mem _ h

/-- A write keeps the canonical form. -/
theorem Memory.wf_write (m : Memory) (a : Nat) (v : Byte) (h : m.wf = true) : (m.write a v).wf = true := by
  induction m with
  | nil =>
    simp only [Memory.write]
    split
    · exact Memory.wf_nil
    · exact (Memory.wf_cons _ _ _).2 ⟨by simp, ‹_›, Memory.wf_nil⟩
  | cons d m ih =>
    obtain ⟨b, w⟩ := d
    obtain ⟨h1, h2, h3⟩ := (Memory.wf_cons _ _ _).1 h
    simp only [Memory.write]
    split
    · split
      · exact h
      · refine (Memory.wf_cons _ _ _).2 ⟨fun c hc => ?_, ‹_›, h⟩
        rcases List.mem_cons.1 hc with rfl | hc
        · assumption
        · have := h1 c hc
          omega
    · split
      · subst b
        split
        · exact h3
        · exact (Memory.wf_cons _ _ _).2 ⟨h1, ‹_›, h3⟩
      · refine (Memory.wf_cons _ _ _).2 ⟨fun c hc => ?_, h2, ih h3⟩
        rcases Memory.mem_write m a v c hc with rfl | hc
        · simp only; omega
        · exact h1 c hc

/-- A byte reads what was written last at its address, and every other byte what it read before. -/
theorem Memory.read_write (m : Memory) (a : Nat) (v : Byte) (b : Nat) (h : m.wf = true) :
    (m.write a v).read b = if a = b then v else m.read b := by
  induction m with
  | nil =>
    simp only [Memory.write]
    split
    · subst v
      split <;> rfl
    · rw [Memory.read_cons]
  | cons d m ih =>
    obtain ⟨e, w⟩ := d
    obtain ⟨h1, h2, h3⟩ := (Memory.wf_cons _ _ _).1 h
    simp only [Memory.write]
    split
    · have hlow : ∀ c ∈ (e, w) :: m, a < c.1 := by
        intro c hc
        rcases List.mem_cons.1 hc with rfl | hc
        · assumption
        · have := h1 c hc
          omega
      split
      · subst v
        split
        · subst b
          exact Memory.read_below _ _ hlow
        · rfl
      · rw [Memory.read_cons]
    · split
      · subst e
        split
        · subst v
          rw [Memory.read_cons]
          split
          · subst b
            exact Memory.read_below _ _ h1
          · rfl
        · rw [Memory.read_cons, Memory.read_cons]
          split <;> rfl
      · rw [Memory.read_cons, Memory.read_cons, ih h3]
        by_cases hb : e = b
        · subst b
          simp [*]
        · simp [hb]

/-- Storing bytes keeps the canonical form. -/
theorem Memory.wf_writeList (m : Memory) (a : Nat) (bs : List Byte) (h : m.wf = true) : (m.writeList a bs).wf = true := by
  induction bs generalizing m a with
  | nil => exact h
  | cons v vs ih => exact ih _ _ (Memory.wf_write m a v h)

/-- A byte reads the one stored at its place, and every byte outside the range what it read before. -/
theorem Memory.read_writeList (m : Memory) (a : Nat) (bs : List Byte) (b : Nat) (h : m.wf = true) :
    (m.writeList a bs).read b = if a ≤ b ∧ b < a + bs.length then bs.getD (b - a) Memory.blank else m.read b := by
  induction bs generalizing m a with
  | nil => rw [if_neg (by simp)]; rfl
  | cons v vs ih =>
    rw [Memory.writeList, ih _ _ (Memory.wf_write m a v h), Memory.read_write _ _ _ _ h]
    by_cases h1 : a + 1 ≤ b ∧ b < a + 1 + vs.length
    · rw [if_pos h1, if_pos (by simp only [List.length_cons]; omega)]
      obtain ⟨k, hk⟩ : ∃ k, b - a = k + 1 := ⟨b - a - 1, by omega⟩
      rw [hk, List.getD_cons_succ, show b - (a + 1) = k by omega]
    · rw [if_neg h1]
      by_cases h2 : a = b
      · subst b
        rw [if_pos rfl, if_pos (by simp), Nat.sub_self, List.getD_cons_zero]
      · rw [if_neg h2, if_neg (by simp only [List.length_cons]; omega)]

/-- Dropping cells keeps the canonical form. -/
theorem Memory.wf_filter (m : Memory) (p : Host.Cell → Bool) (h : m.wf = true) : Memory.wf (m.filter p) = true := by
  rw [Memory.wf_iff] at *
  exact ⟨h.1.filter _, fun c hc => h.2 c (List.mem_filter.1 hc).1⟩

/-- Zeroing a range keeps the canonical form. -/
theorem Memory.wf_wipe (m : Memory) (lo n : Nat) (h : m.wf = true) : (m.wipe lo n).wf = true := Memory.wf_filter m _ h

/-- A zeroed range reads blank, and every other byte what it read before. -/
theorem Memory.read_wipe (m : Memory) (lo n a : Nat) :
    (m.wipe lo n).read a = if lo ≤ a ∧ a < lo + n then Memory.blank else m.read a := by
  induction m with
  | nil => simp [Memory.wipe, Memory.read_nil]
  | cons c m ih =>
    obtain ⟨b, w⟩ := c
    by_cases hb : lo ≤ b ∧ b < lo + n
    · have e : Memory.wipe ((b, w) :: m) lo n = Memory.wipe m lo n := by simp [Memory.wipe, hb.1, hb.2]
      rw [e, ih, Memory.read_cons]
      by_cases ha : b = a
      · subst a; simp [hb]
      · simp [ha]
    · have e : Memory.wipe ((b, w) :: m) lo n = (b, w) :: Memory.wipe m lo n := by
        simp only [Memory.wipe, List.filter_cons]
        rw [if_pos (by simp; omega)]
      rw [e, Memory.read_cons, Memory.read_cons, ih]
      by_cases ha : b = a
      · subst a; simp [hb]
      · simp [ha]

/-- The four memories have the form after reset. -/
theorem Memory.wf_reset : Memory.wf State.reset.mem = true ∧ Memory.wf State.reset.host = true
    ∧ Memory.wf State.reset.window = true ∧ Memory.wf State.reset.shelf = true :=
  ⟨Memory.wf_nil, Memory.wf_nil, Memory.wf_nil, Memory.wf_nil⟩

/-- Bytes of a number give the number back (R3). -/
theorem leNat_leBytes (n v : Nat) : leNat (leBytes n v) = v % 256 ^ n := by
  induction n generalizing v with
  | zero => simp [leBytes, leNat, Nat.mod_one]
  | succ n ih =>
    simp only [leBytes, leNat, ih, BitVec.toNat_ofNat]
    rw [show (256 : Nat) ^ (n + 1) = 256 * 256 ^ n by rw [Nat.pow_succ, Nat.mul_comm], Nat.mod_mul]

theorem leBytes_length (n v : Nat) : (leBytes n v).length = n := by
  induction n generalizing v with
  | zero => rfl
  | succ n ih => simp [leBytes, ih]

end Sys2Proof.Machine
end

