-- ==== Sys2Proof/Laws/PerInstr.lean ====
section
/-! SUPPORT. One law for each constructor of `Instr`: its code words are as many as its first word says (R26). -/

namespace Sys2Proof.Laws.Length

/-- The code words of an instruction are as many as LEN of the first says (R26); a device step has none (95). -/
def Statement (i : Instr) : Prop := ∀ ws, encode i = some ws → instrLength (ws.headD 0) = ws.length

theorem of_some {i : Instr} {ws : List Word} (h : encode i = some ws) (hl : instrLength (ws.headD 0) = ws.length) : Statement i := by
  intro vs hv
  rw [h] at hv
  cases hv
  exact hl

theorem of_none {i : Instr} (h : encode i = none) : Statement i := by
  intro ws hw
  rw [h] at hw
  cases hw

theorem clause (x0) : Statement (.clause x0) := of_some rfl (clauseWord_length _)
theorem pair (x0) : Statement (.pair x0) := of_some rfl (pairWords_length _)
theorem iaddBase (x0) : Statement (.iaddBase x0) := of_some rfl (baseWord_length _ _ (by decide))
theorem iaddBaseLit (x0) : Statement (.iaddBaseLit x0) := of_some rfl (baseLitWords_length _ _ (by decide))
theorem isubBase (x0) : Statement (.isubBase x0) := of_some rfl (baseWord_length _ _ (by decide))
theorem isubBaseLit (x0) : Statement (.isubBaseLit x0) := of_some rfl (baseLitWords_length _ _ (by decide))
theorem imulBase (x0) : Statement (.imulBase x0) := of_some rfl (baseWord_length _ _ (by decide))
theorem imulBaseLit (x0) : Statement (.imulBaseLit x0) := of_some rfl (baseLitWords_length _ _ (by decide))
theorem imulhBase (x0) : Statement (.imulhBase x0) := of_some rfl (baseWord_length _ _ (by decide))
theorem imulhBaseLit (x0) : Statement (.imulhBaseLit x0) := of_some rfl (baseLitWords_length _ _ (by decide))
theorem iminBase (x0) : Statement (.iminBase x0) := of_some rfl (baseWord_length _ _ (by decide))
theorem iminBaseLit (x0) : Statement (.iminBaseLit x0) := of_some rfl (baseLitWords_length _ _ (by decide))
theorem imaxBase (x0) : Statement (.imaxBase x0) := of_some rfl (baseWord_length _ _ (by decide))
theorem imaxBaseLit (x0) : Statement (.imaxBaseLit x0) := of_some rfl (baseLitWords_length _ _ (by decide))
theorem andBase (x0) : Statement (.andBase x0) := of_some rfl (baseWord_length _ _ (by decide))
theorem andBaseLit (x0) : Statement (.andBaseLit x0) := of_some rfl (baseLitWords_length _ _ (by decide))
theorem orBase (x0) : Statement (.orBase x0) := of_some rfl (baseWord_length _ _ (by decide))
theorem orBaseLit (x0) : Statement (.orBaseLit x0) := of_some rfl (baseLitWords_length _ _ (by decide))
theorem xorBase (x0) : Statement (.xorBase x0) := of_some rfl (baseWord_length _ _ (by decide))
theorem xorBaseLit (x0) : Statement (.xorBaseLit x0) := of_some rfl (baseLitWords_length _ _ (by decide))
theorem andnBase (x0) : Statement (.andnBase x0) := of_some rfl (baseWord_length _ _ (by decide))
theorem andnBaseLit (x0) : Statement (.andnBaseLit x0) := of_some rfl (baseLitWords_length _ _ (by decide))
theorem shlBase (x0) : Statement (.shlBase x0) := of_some rfl (baseWord_length _ _ (by decide))
theorem shlBaseLit (x0) : Statement (.shlBaseLit x0) := of_some rfl (baseLitWords_length _ _ (by decide))
theorem shrBase (x0) : Statement (.shrBase x0) := of_some rfl (baseWord_length _ _ (by decide))
theorem shrBaseLit (x0) : Statement (.shrBaseLit x0) := of_some rfl (baseLitWords_length _ _ (by decide))
theorem sarBase (x0) : Statement (.sarBase x0) := of_some rfl (baseWord_length _ _ (by decide))
theorem sarBaseLit (x0) : Statement (.sarBaseLit x0) := of_some rfl (baseLitWords_length _ _ (by decide))
theorem rolBase (x0) : Statement (.rolBase x0) := of_some rfl (baseWord_length _ _ (by decide))
theorem rolBaseLit (x0) : Statement (.rolBaseLit x0) := of_some rfl (baseLitWords_length _ _ (by decide))
theorem lea1Base (x0) : Statement (.lea1Base x0) := of_some rfl (baseWord_length _ _ (by decide))
theorem lea1BaseLit (x0) : Statement (.lea1BaseLit x0) := of_some rfl (baseLitWords_length _ _ (by decide))
theorem lea2Base (x0) : Statement (.lea2Base x0) := of_some rfl (baseWord_length _ _ (by decide))
theorem lea2BaseLit (x0) : Statement (.lea2BaseLit x0) := of_some rfl (baseLitWords_length _ _ (by decide))
theorem lea3Base (x0) : Statement (.lea3Base x0) := of_some rfl (baseWord_length _ _ (by decide))
theorem lea3BaseLit (x0) : Statement (.lea3BaseLit x0) := of_some rfl (baseLitWords_length _ _ (by decide))
theorem faddBase (x0) : Statement (.faddBase x0) := of_some rfl (baseWord_length _ _ (by decide))
theorem faddBaseLit (x0) : Statement (.faddBaseLit x0) := of_some rfl (baseLitWords_length _ _ (by decide))
theorem fmulBase (x0) : Statement (.fmulBase x0) := of_some rfl (baseWord_length _ _ (by decide))
theorem fmulBaseLit (x0) : Statement (.fmulBaseLit x0) := of_some rfl (baseLitWords_length _ _ (by decide))
theorem ffmaDmBase (x0) : Statement (.ffmaDmBase x0) := of_some rfl (baseWord_length _ _ (by decide))
theorem ffmaDmBaseLit (x0) : Statement (.ffmaDmBaseLit x0) := of_some rfl (baseLitWords_length _ _ (by decide))
theorem ffmaAccBase (x0) : Statement (.ffmaAccBase x0) := of_some rfl (baseWord_length _ _ (by decide))
theorem ffmaAccBaseLit (x0) : Statement (.ffmaAccBaseLit x0) := of_some rfl (baseLitWords_length _ _ (by decide))
theorem fminBase (x0) : Statement (.fminBase x0) := of_some rfl (baseWord_length _ _ (by decide))
theorem fminBaseLit (x0) : Statement (.fminBaseLit x0) := of_some rfl (baseLitWords_length _ _ (by decide))
theorem fmaxBase (x0) : Statement (.fmaxBase x0) := of_some rfl (baseWord_length _ _ (by decide))
theorem fmaxBaseLit (x0) : Statement (.fmaxBaseLit x0) := of_some rfl (baseLitWords_length _ _ (by decide))
theorem padd16Base (x0) : Statement (.padd16Base x0) := of_some rfl (baseWord_length _ _ (by decide))
theorem padd16BaseLit (x0) : Statement (.padd16BaseLit x0) := of_some rfl (baseLitWords_length _ _ (by decide))
theorem pmul16Base (x0) : Statement (.pmul16Base x0) := of_some rfl (baseWord_length _ _ (by decide))
theorem pmul16BaseLit (x0) : Statement (.pmul16BaseLit x0) := of_some rfl (baseLitWords_length _ _ (by decide))
theorem pfma16AccBase (x0) : Statement (.pfma16AccBase x0) := of_some rfl (baseWord_length _ _ (by decide))
theorem pfma16AccBaseLit (x0) : Statement (.pfma16AccBaseLit x0) := of_some rfl (baseLitWords_length _ _ (by decide))
theorem movBase (x0) : Statement (.movBase x0) := of_some rfl (base1Word_length _ _ (by decide))
theorem movBaseLit (x0) : Statement (.movBaseLit x0) := of_some rfl (base1LitWords_length _ _ (by decide))
theorem popcBase (x0) : Statement (.popcBase x0) := of_some rfl (base1Word_length _ _ (by decide))
theorem popcBaseLit (x0) : Statement (.popcBaseLit x0) := of_some rfl (base1LitWords_length _ _ (by decide))
theorem clzBase (x0) : Statement (.clzBase x0) := of_some rfl (base1Word_length _ _ (by decide))
theorem clzBaseLit (x0) : Statement (.clzBaseLit x0) := of_some rfl (base1LitWords_length _ _ (by decide))
theorem brevBase (x0) : Statement (.brevBase x0) := of_some rfl (base1Word_length _ _ (by decide))
theorem brevBaseLit (x0) : Statement (.brevBaseLit x0) := of_some rfl (base1LitWords_length _ _ (by decide))
theorem notBase (x0) : Statement (.notBase x0) := of_some rfl (base1Word_length _ _ (by decide))
theorem notBaseLit (x0) : Statement (.notBaseLit x0) := of_some rfl (base1LitWords_length _ _ (by decide))
theorem ldB32Base (x0) : Statement (.ldB32Base x0) := of_some rfl (baseWord_length _ _ (by decide))
theorem ldB32BaseLit (x0) : Statement (.ldB32BaseLit x0) := of_some rfl (baseLitWords_length _ _ (by decide))
theorem stB32Base (x0) : Statement (.stB32Base x0) := of_some rfl (baseWord_length _ _ (by decide))
theorem stB32BaseLit (x0) : Statement (.stB32BaseLit x0) := of_some rfl (baseLitWords_length _ _ (by decide))
theorem ldqB32Base (x0) : Statement (.ldqB32Base x0) := of_some rfl (baseWord_length _ _ (by decide))
theorem ldqB32BaseLit (x0) : Statement (.ldqB32BaseLit x0) := of_some rfl (baseLitWords_length _ _ (by decide))
theorem braBase (x0) : Statement (.braBase x0) := of_some rfl (braBase_length _)
theorem faddI (x0) : Statement (.faddI x0) := of_some rfl (f20Words_length _ _ (by decide))
theorem fmulI (x0) : Statement (.fmulI x0) := of_some rfl (f20Words_length _ _ (by decide))
theorem fminI (x0) : Statement (.fminI x0) := of_some rfl (f20Words_length _ _ (by decide))
theorem fmaxI (x0) : Statement (.fmaxI x0) := of_some rfl (f20Words_length _ _ (by decide))
theorem fmovI (x0) : Statement (.fmovI x0) := of_some rfl (f20Words_length _ _ (by decide))
theorem bra (x0) : Statement (.bra x0) := of_some rfl (extWords_length _ _ (by decide))
theorem brx (x0) : Statement (.brx x0) := of_some rfl (extWords_length _ _ (by decide))
theorem call (x0) : Statement (.call x0) := of_some rfl (extWords_length _ _ (by decide))
theorem ret (x0) : Statement (.ret x0) := of_some rfl (extWords_length _ _ (by decide))
theorem exit (x0) : Statement (.exit x0) := of_some rfl (extWords_length _ _ (by decide))
theorem join (x0) : Statement (.join x0) := of_some rfl (extWords_length _ _ (by decide))
theorem yield (x0) : Statement (.yield x0) := of_some rfl (extWords_length _ _ (by decide))
theorem wait (x0) : Statement (.wait x0) := of_some rfl (extWords_length _ _ (by decide))
theorem nop (x0) : Statement (.nop x0) := of_some rfl (extWords_length _ _ (by decide))
theorem mat (x0) : Statement (.mat x0) := of_some rfl (extWords_length _ _ (by decide))
theorem formq (x0) : Statement (.formq x0) := of_some rfl (extWords_length _ _ (by decide))
theorem mov (x0) : Statement (.mov x0) := of_some rfl (extWords_length _ _ (by decide))
theorem movk (x0) : Statement (.movk x0) := of_some rfl (extWords_length _ _ (by decide))
theorem sel (x0) : Statement (.sel x0) := of_some rfl (extWords_length _ _ (by decide))
theorem rds (x0) : Statement (.rds x0) := of_some rfl (extWords_length _ _ (by decide))
theorem wrs (x0) : Statement (.wrs x0) := of_some rfl (extWords_length _ _ (by decide))
theorem pcomb (x0) : Statement (.pcomb x0) := of_some rfl (extWords_length _ _ (by decide))
theorem pmov (x0) : Statement (.pmov x0) := of_some rfl (extWords_length _ _ (by decide))
theorem vote (x0) : Statement (.vote x0) := of_some rfl (extWords_length _ _ (by decide))
theorem sxch (x0) : Statement (.sxch x0) := of_some rfl (extWords_length _ _ (by decide))
theorem sred (x0) : Statement (.sred x0) := of_some rfl (extWords_length _ _ (by decide))
theorem iadd (x0) : Statement (.iadd x0) := of_some rfl (extWords_length _ _ (by decide))
theorem isub (x0) : Statement (.isub x0) := of_some rfl (extWords_length _ _ (by decide))
theorem imul (x0) : Statement (.imul x0) := of_some rfl (extWords_length _ _ (by decide))
theorem imulh (x0) : Statement (.imulh x0) := of_some rfl (extWords_length _ _ (by decide))
theorem imad (x0) : Statement (.imad x0) := of_some rfl (extWords_length _ _ (by decide))
theorem imin (x0) : Statement (.imin x0) := of_some rfl (extWords_length _ _ (by decide))
theorem imax (x0) : Statement (.imax x0) := of_some rfl (extWords_length _ _ (by decide))
theorem iabs (x0) : Statement (.iabs x0) := of_some rfl (extWords_length _ _ (by decide))
theorem ineg (x0) : Statement (.ineg x0) := of_some rfl (extWords_length _ _ (by decide))
theorem and (x0) : Statement (.and x0) := of_some rfl (extWords_length _ _ (by decide))
theorem or (x0) : Statement (.or x0) := of_some rfl (extWords_length _ _ (by decide))
theorem xor (x0) : Statement (.xor x0) := of_some rfl (extWords_length _ _ (by decide))
theorem not (x0) : Statement (.not x0) := of_some rfl (extWords_length _ _ (by decide))
theorem andn (x0) : Statement (.andn x0) := of_some rfl (extWords_length _ _ (by decide))
theorem shl (x0) : Statement (.shl x0) := of_some rfl (extWords_length _ _ (by decide))
theorem shr (x0) : Statement (.shr x0) := of_some rfl (extWords_length _ _ (by decide))
theorem sar (x0) : Statement (.sar x0) := of_some rfl (extWords_length _ _ (by decide))
theorem rol (x0) : Statement (.rol x0) := of_some rfl (extWords_length _ _ (by decide))
theorem popc (x0) : Statement (.popc x0) := of_some rfl (extWords_length _ _ (by decide))
theorem clz (x0) : Statement (.clz x0) := of_some rfl (extWords_length _ _ (by decide))
theorem brev (x0) : Statement (.brev x0) := of_some rfl (extWords_length _ _ (by decide))
theorem bfe (x0) : Statement (.bfe x0) := of_some rfl (extWords_length _ _ (by decide))
theorem bfi (x0) : Statement (.bfi x0) := of_some rfl (extWords_length _ _ (by decide))
theorem bperm (x0) : Statement (.bperm x0) := of_some rfl (extWords_length _ _ (by decide))
theorem lea (x0) : Statement (.lea x0) := of_some rfl (extWords_length _ _ (by decide))
theorem icmp (x0) : Statement (.icmp x0) := of_some rfl (extWords_length _ _ (by decide))
theorem idp4 (x0) : Statement (.idp4 x0) := of_some rfl (extWords_length _ _ (by decide))
theorem iadd64 (x0) : Statement (.iadd64 x0) := of_some rfl (extWords_length _ _ (by decide))
theorem imad64 (x0) : Statement (.imad64 x0) := of_some rfl (extWords_length _ _ (by decide))
theorem fadd (x0) : Statement (.fadd x0) := of_some rfl (extWords_length _ _ (by decide))
theorem fmul (x0) : Statement (.fmul x0) := of_some rfl (extWords_length _ _ (by decide))
theorem ffma (x0) : Statement (.ffma x0) := of_some rfl (extWords_length _ _ (by decide))
theorem fmin (x0) : Statement (.fmin x0) := of_some rfl (extWords_length _ _ (by decide))
theorem fmax (x0) : Statement (.fmax x0) := of_some rfl (extWords_length _ _ (by decide))
theorem fcmp (x0) : Statement (.fcmp x0) := of_some rfl (extWords_length _ _ (by decide))
theorem frnd (x0) : Statement (.frnd x0) := of_some rfl (extWords_length _ _ (by decide))
theorem frcp (x0) : Statement (.frcp x0) := of_some rfl (extWords_length _ _ (by decide))
theorem frsq (x0) : Statement (.frsq x0) := of_some rfl (extWords_length _ _ (by decide))
theorem fsqrt (x0) : Statement (.fsqrt x0) := of_some rfl (extWords_length _ _ (by decide))
theorem fex2 (x0) : Statement (.fex2 x0) := of_some rfl (extWords_length _ _ (by decide))
theorem flg2 (x0) : Statement (.flg2 x0) := of_some rfl (extWords_length _ _ (by decide))
theorem fsin (x0) : Statement (.fsin x0) := of_some rfl (extWords_length _ _ (by decide))
theorem fcos (x0) : Statement (.fcos x0) := of_some rfl (extWords_length _ _ (by decide))
theorem padd16 (x0) : Statement (.padd16 x0) := of_some rfl (extWords_length _ _ (by decide))
theorem pmul16 (x0) : Statement (.pmul16 x0) := of_some rfl (extWords_length _ _ (by decide))
theorem pfma16 (x0) : Statement (.pfma16 x0) := of_some rfl (extWords_length _ _ (by decide))
theorem pmin16 (x0) : Statement (.pmin16 x0) := of_some rfl (extWords_length _ _ (by decide))
theorem pmax16 (x0) : Statement (.pmax16 x0) := of_some rfl (extWords_length _ _ (by decide))
theorem ftoi (x0) : Statement (.ftoi x0) := of_some rfl (extWords_length _ _ (by decide))
theorem itof (x0) : Statement (.itof x0) := of_some rfl (extWords_length _ _ (by decide))
theorem ftof (x0) : Statement (.ftof x0) := of_some rfl (extWords_length _ _ (by decide))
theorem fpk8 (x0) : Statement (.fpk8 x0) := of_some rfl (extWords_length _ _ (by decide))
theorem fpk4 (x0) : Statement (.fpk4 x0) := of_some rfl (extWords_length _ _ (by decide))
theorem funpk (x0) : Statement (.funpk x0) := of_some rfl (extWords_length _ _ (by decide))
theorem ld (x0) : Statement (.ld x0) := of_some rfl (extWords_length _ _ (by decide))
theorem st (x0) : Statement (.st x0) := of_some rfl (extWords_length _ _ (by decide))
theorem ldq (x0) : Statement (.ldq x0) := of_some rfl (extWords_length _ _ (by decide))
theorem prf (x0) : Statement (.prf x0) := of_some rfl (extWords_length _ _ (by decide))
theorem cctl (x0) : Statement (.cctl x0) := of_some rfl (extWords_length _ _ (by decide))
theorem atom (x0) : Statement (.atom x0) := of_some rfl (extWords_length _ _ (by decide))
theorem red (x0) : Statement (.red x0) := of_some rfl (extWords_length _ _ (by decide))
theorem cas128 (x0) : Statement (.cas128 x0) := of_some rfl (extWords_length _ _ (by decide))
theorem fence (x0) : Statement (.fence x0) := of_some rfl (extWords_length _ _ (by decide))
theorem cpy (x0) : Statement (.cpy x0) := of_some rfl (extWords_length _ _ (by decide))
theorem cpy2 (x0) : Statement (.cpy2 x0) := of_some rfl (extWords_length _ _ (by decide))
theorem cpy3 (x0) : Statement (.cpy3 x0) := of_some rfl (extWords_length _ _ (by decide))
theorem cpyg (x0) : Statement (.cpyg x0) := of_some rfl (extWords_length _ _ (by decide))
theorem publ (x0) : Statement (.publ x0) := of_some rfl (extWords_length _ _ (by decide))
theorem ctok (x0) : Statement (.ctok x0) := of_some rfl (extWords_length _ _ (by decide))
theorem ccan (x0) : Statement (.ccan x0) := of_some rfl (extWords_length _ _ (by decide))
theorem grel (x0) : Statement (.grel x0) := of_some rfl (extWords_length _ _ (by decide))
theorem gstat (x0) : Statement (.gstat x0) := of_some rfl (extWords_length _ _ (by decide))
theorem tpost (x0) : Statement (.tpost x0) := of_some rfl (extWords_length _ _ (by decide))
theorem chb (x0) : Statement (.chb x0) := of_some rfl (extWords_length _ _ (by decide))
theorem che (x0) : Statement (.che x0) := of_some rfl (extWords_length _ _ (by decide))
theorem gnew (x0) : Statement (.gnew x0) := of_some rfl (extWords_length _ _ (by decide))
theorem gjoin (x0) : Statement (.gjoin x0) := of_some rfl (extWords_length _ _ (by decide))
theorem gleave (x0) : Statement (.gleave x0) := of_some rfl (extWords_length _ _ (by decide))
theorem gfree (x0) : Statement (.gfree x0) := of_some rfl (extWords_length _ _ (by decide))
theorem bar (x0) : Statement (.bar x0) := of_some rfl (extWords_length _ _ (by decide))
theorem barinit (x0) : Statement (.barinit x0) := of_some rfl (extWords_length _ _ (by decide))
theorem barr (x0) : Statement (.barr x0) := of_some rfl (extWords_length _ _ (by decide))
theorem barw (x0) : Statement (.barw x0) := of_some rfl (extWords_length _ _ (by decide))
theorem sigs (x0) : Statement (.sigs x0) := of_some rfl (extWords_length _ _ (by decide))
theorem sigw (x0) : Statement (.sigw x0) := of_some rfl (extWords_length _ _ (by decide))
theorem launch (x0) : Statement (.launch x0) := of_some rfl (extWords_length _ _ (by decide))
theorem trap (x0) : Statement (.trap x0) := of_some rfl (extWords_length _ _ (by decide))
theorem brk (x0) : Statement (.brk x0) := of_some rfl (extWords_length _ _ (by decide))
theorem registerWrite (x0) (x1) (x2) (x3) : Statement (.registerWrite x0 x1 x2 x3) := of_none rfl
theorem moduleReset : Statement (.moduleReset) := of_none rfl
theorem firmwarePush (x0) : Statement (.firmwarePush x0) := of_none rfl
theorem bringUpRecordClear : Statement (.bringUpRecordClear) := of_none rfl
theorem sealWrite (x0) (x1) (x2) : Statement (.sealWrite x0 x1 x2) := of_none rfl
theorem launchRecordParse (x0) : Statement (.launchRecordParse x0) := of_none rfl
theorem afterTokenPoll (x0) : Statement (.afterTokenPoll x0) := of_none rfl
theorem admissionRound (x0) : Statement (.admissionRound x0) := of_none rfl
theorem distributorReport (x0) : Statement (.distributorReport x0) := of_none rfl
theorem fastPathLateCheck (x0) : Statement (.fastPathLateCheck x0) := of_none rfl
theorem launchComplete (x0) : Statement (.launchComplete x0) := of_none rfl
theorem launchDoneWatchdog (x0) : Statement (.launchDoneWatchdog x0) := of_none rfl
theorem ctbRequestWrite (x0) (x1) (x2) : Statement (.ctbRequestWrite x0 x1 x2) := of_none rfl
theorem ctbBindWrite (x0) (x1) (x2) (x3) : Statement (.ctbBindWrite x0 x1 x2 x3) := of_none rfl
theorem curatorDefaultBind (x0) : Statement (.curatorDefaultBind x0) := of_none rfl
theorem tlbMissWalk (x0) : Statement (.tlbMissWalk x0) := of_none rfl
theorem walkComplete (x0) : Statement (.walkComplete x0) := of_none rfl
theorem pageFaultRecord (x0) (x1) : Statement (.pageFaultRecord x0 x1) := of_none rfl
theorem fwsInvalidatePage (x0) (x1) : Statement (.fwsInvalidatePage x0 x1) := of_none rfl
theorem fwsInvalidateAsid (x0) (x1) : Statement (.fwsInvalidateAsid x0 x1) := of_none rfl
theorem fwsInvalidateSlice (x0) : Statement (.fwsInvalidateSlice x0) := of_none rfl
theorem invalidationDone (x0) : Statement (.invalidationDone x0) := of_none rfl
theorem fwsReplay (x0) (x1) : Statement (.fwsReplay x0 x1) := of_none rfl
theorem fwsFail (x0) (x1) : Statement (.fwsFail x0 x1) := of_none rfl
theorem l2bHashctlWrite (x0) (x1) : Statement (.l2bHashctlWrite x0 x1) := of_none rfl
theorem l2bPidmaskWrite (x0) (x1) (x2) : Statement (.l2bPidmaskWrite x0 x1 x2) := of_none rfl
theorem loadDataLanding (x0) (x1) : Statement (.loadDataLanding x0 x1) := of_none rfl
theorem l1WriteBack (x0) (x1) : Statement (.l1WriteBack x0 x1) := of_none rfl
theorem l1CleanLineExpiry (x0) (x1) : Statement (.l1CleanLineExpiry x0 x1) := of_none rfl
theorem writeAcknowledgement (x0) (x1) : Statement (.writeAcknowledgement x0 x1) := of_none rfl
theorem asuRequest (x0) : Statement (.asuRequest x0) := of_none rfl
theorem atomicResultLanding (x0) (x1) : Statement (.atomicResultLanding x0 x1) := of_none rfl
theorem homeWrite (x0) : Statement (.homeWrite x0) := of_none rfl
theorem invalidationAcksDone (x0) : Statement (.invalidationAcksDone x0) := of_none rfl
theorem holderInvalidation (x0) (x1) : Statement (.holderInvalidation x0 x1) := of_none rfl
theorem peerReadRequest (x0) : Statement (.peerReadRequest x0) := of_none rfl
theorem peerWriteRequest (x0) (x1) : Statement (.peerWriteRequest x0 x1) := of_none rfl
theorem hostSnoop (x0) (x1) (x2) : Statement (.hostSnoop x0 x1 x2) := of_none rfl
theorem hostMemoryRead (x0) (x1) (x2) : Statement (.hostMemoryRead x0 x1 x2) := of_none rfl
theorem hostMemoryWrite (x0) (x1) (x2) : Statement (.hostMemoryWrite x0 x1 x2) := of_none rfl
theorem fieldBeacon (x0) (x1) : Statement (.fieldBeacon x0 x1) := of_none rfl
theorem crossFieldWriteApply (x0) : Statement (.crossFieldWriteApply x0) := of_none rfl
theorem eccPatrolScrub (x0) (x1) : Statement (.eccPatrolScrub x0 x1) := of_none rfl
theorem copyComplete (x0) (x1) : Statement (.copyComplete x0 x1) := of_none rfl
theorem publPhaseFlip (x0) (x1) : Statement (.publPhaseFlip x0 x1) := of_none rfl
theorem publDone (x0) (x1) : Statement (.publDone x0 x1) := of_none rfl
theorem cpeShwctlWrite (x0) (x1) (x2) : Statement (.cpeShwctlWrite x0 x1 x2) := of_none rfl
theorem currentGrant (x0) : Statement (.currentGrant x0) := of_none rfl
theorem taskStart (x0) : Statement (.taskStart x0) := of_none rfl
theorem taskComplete (x0) : Statement (.taskComplete x0) := of_none rfl
theorem taskReadinessWatchdog (x0) : Statement (.taskReadinessWatchdog x0) := of_none rfl
theorem multicastPartnerTimeout (x0) : Statement (.multicastPartnerTimeout x0) := of_none rfl
theorem currentEstimatePublish (x0) (x1) : Statement (.currentEstimatePublish x0 x1) := of_none rfl
theorem operatingPointChange (x0) : Statement (.operatingPointChange x0) := of_none rfl
theorem pendingRemainderCut (x0) : Statement (.pendingRemainderCut x0) := of_none rfl
theorem pendingRemainderWatchdog (x0) : Statement (.pendingRemainderWatchdog x0) := of_none rfl
theorem soloCut (x0) (x1) : Statement (.soloCut x0 x1) := of_none rfl
theorem starvationWatchdog (x0) : Statement (.starvationWatchdog x0) := of_none rfl
theorem joinDeadline (x0) : Statement (.joinDeadline x0) := of_none rfl
theorem waitClkExpiry (x0) : Statement (.waitClkExpiry x0) := of_none rfl
theorem groupPhaseWatchdog (x0) : Statement (.groupPhaseWatchdog x0) := of_none rfl
theorem countedBarrierDeadline (x0) : Statement (.countedBarrierDeadline x0) := of_none rfl
theorem sigwTimeout (x0) (x1) : Statement (.sigwTimeout x0 x1) := of_none rfl
theorem faultRecordWrite (x0) : Statement (.faultRecordWrite x0) := of_none rfl
theorem faultResume (x0) (x1) : Statement (.faultResume x0 x1) := of_none rfl
theorem faultEnd (x0) (x1) : Statement (.faultEnd x0 x1) := of_none rfl
theorem faultKill (x0) (x1) : Statement (.faultKill x0 x1) := of_none rfl
theorem faultDump (x0) (x1) : Statement (.faultDump x0 x1) := of_none rfl
theorem syscallRecordWrite (x0) : Statement (.syscallRecordWrite x0) := of_none rfl
theorem syscallDone (x0) (x1) (x2) : Statement (.syscallDone x0 x1 x2) := of_none rfl
theorem preempt (x0) : Statement (.preempt x0) := of_none rfl
theorem preemptDrainComplete (x0) : Statement (.preemptDrainComplete x0) := of_none rfl
theorem preemptT1Expiry (x0) : Statement (.preemptT1Expiry x0) := of_none rfl
theorem preemptSaveComplete (x0) : Statement (.preemptSaveComplete x0) := of_none rfl
theorem preemptT2Expiry (x0) : Statement (.preemptT2Expiry x0) := of_none rfl
theorem preemptResume (x0) : Statement (.preemptResume x0) := of_none rfl
theorem sliceGroupApply : Statement (.sliceGroupApply) := of_none rfl
theorem slcGrpWrite (x0) (x1) : Statement (.slcGrpWrite x0 x1) := of_none rfl
theorem sliceOnlyReset (x0) : Statement (.sliceOnlyReset x0) := of_none rfl
theorem usageClear (x0) : Statement (.usageClear x0) := of_none rfl
theorem clearingSequence (x0) : Statement (.clearingSequence x0) := of_none rfl
theorem clearingComplete (x0) : Statement (.clearingComplete x0) := of_none rfl
theorem lockInterfaceRequest (x0) : Statement (.lockInterfaceRequest x0) := of_none rfl
theorem startInterfaceRequest (x0) : Statement (.startInterfaceRequest x0) := of_none rfl
theorem stopInterfaceRequest (x0) : Statement (.stopInterfaceRequest x0) := of_none rfl
theorem getDeviceInterfaceReport (x0) : Statement (.getDeviceInterfaceReport x0) := of_none rfl
theorem getVersion (x0) : Statement (.getVersion x0) := of_none rfl
theorem getCapabilities (x0) : Statement (.getCapabilities x0) := of_none rfl
theorem negotiateAlgorithms (x0) (x1) : Statement (.negotiateAlgorithms x0 x1) := of_none rfl
theorem getDigests (x0) : Statement (.getDigests x0) := of_none rfl
theorem getCertificate (x0) (x1) : Statement (.getCertificate x0 x1) := of_none rfl
theorem challenge (x0) (x1) : Statement (.challenge x0 x1) := of_none rfl
theorem getMeasurements (x0) (x1) (x2) : Statement (.getMeasurements x0 x1 x2) := of_none rfl
theorem keyExchange (x0) : Statement (.keyExchange x0) := of_none rfl
theorem finish (x0) (x1) : Statement (.finish x0 x1) := of_none rfl
theorem endSession (x0) (x1) : Statement (.endSession x0 x1) := of_none rfl
theorem slcMigctlWrite (x0) (x1) : Statement (.slcMigctlWrite x0 x1) := of_none rfl
theorem rake (x0) (x1) : Statement (.rake x0 x1) := of_none rfl
theorem send (x0) (x1) : Statement (.send x0 x1) := of_none rfl
theorem final (x0) (x1) : Statement (.final x0 x1) := of_none rfl
theorem abort (x0) : Statement (.abort x0) := of_none rfl
theorem migrationCommandComplete (x0) (x1) : Statement (.migrationCommandComplete x0 x1) := of_none rfl
theorem migrationFolioLanded (x0) (x1) : Statement (.migrationFolioLanded x0 x1) := of_none rfl
theorem pagePullRequest (x0) (x1) : Statement (.pagePullRequest x0 x1) := of_none rfl
theorem pagePullArrival (x0) (x1) (x2) : Statement (.pagePullArrival x0 x1 x2) := of_none rfl
theorem pagePullTimeout (x0) (x1) : Statement (.pagePullTimeout x0 x1) := of_none rfl
theorem checkpointCutMarker (x0) (x1) : Statement (.checkpointCutMarker x0 x1) := of_none rfl
theorem checkpointCommit (x0) (x1) : Statement (.checkpointCommit x0 x1) := of_none rfl
theorem checkpointRollbackMarker (x0) (x1) (x2) : Statement (.checkpointRollbackMarker x0 x1 x2) := of_none rfl
theorem edgeSwitch (x0) (x1) : Statement (.edgeSwitch x0 x1) := of_none rfl
theorem edgeDrainComplete (x0) : Statement (.edgeDrainComplete x0) := of_none rfl
theorem edgeTrainingComplete (x0) : Statement (.edgeTrainingComplete x0) := of_none rfl
theorem edgeLinklayerComplete (x0) : Statement (.edgeLinklayerComplete x0) := of_none rfl
theorem edgeMappingComplete (x0) : Statement (.edgeMappingComplete x0) := of_none rfl
theorem edgeBoundExceeded (x0) : Statement (.edgeBoundExceeded x0) := of_none rfl
theorem parkedAccessTimeout (x0) : Statement (.parkedAccessTimeout x0) := of_none rfl
theorem portHDown : Statement (.portHDown) := of_none rfl
theorem portHUp : Statement (.portHUp) := of_none rfl
theorem edgeLinkFailure (x0) : Statement (.edgeLinkFailure x0) := of_none rfl
theorem scaleoutDescriptorStart (x0) : Statement (.scaleoutDescriptorStart x0) := of_none rfl
theorem scaleoutDescriptorComplete (x0) (x1) (x2) : Statement (.scaleoutDescriptorComplete x0 x1 x2) := of_none rfl
theorem scaleoutTimeout (x0) (x1) : Statement (.scaleoutTimeout x0 x1) := of_none rfl
theorem slcEcccorRead (x0) : Statement (.slcEcccorRead x0) := of_none rfl
theorem slcEccuncRead (x0) : Statement (.slcEccuncRead x0) := of_none rfl
theorem l2bRecallRead (x0) : Statement (.l2bRecallRead x0) := of_none rfl
theorem mxeSatcntRead (x0) : Statement (.mxeSatcntRead x0) := of_none rfl
theorem mxeNancntRead (x0) : Statement (.mxeNancntRead x0) := of_none rfl
theorem slcDropcntRead (x0) : Statement (.slcDropcntRead x0) := of_none rfl
theorem dstLrefcntRead (x0) : Statement (.dstLrefcntRead x0) := of_none rfl
theorem cpeCpycntRead (x0) : Statement (.cpeCpycntRead x0) := of_none rfl
theorem slcScrheadRead (x0) : Statement (.slcScrheadRead x0) := of_none rfl
theorem slcLinkevtRead (x0) : Statement (.slcLinkevtRead x0) := of_none rfl
theorem constantImageArrival (x0) (x1) : Statement (.constantImageArrival x0 x1) := of_none rfl
theorem taskOperandReadsComplete (x0) : Statement (.taskOperandReadsComplete x0) := of_none rfl

end Sys2Proof.Laws.Length
end

