-- ==== Sys2Proof/Laws/State.lean ====
section
/-! SUPPORT. Beside the state: what each named update of it leaves as it was, field by field. -/

namespace Sys2Proof.Machine

@[simp] theorem State.setSlice_clock (s : State) (n : Nat) (f : SliceSt → SliceSt) : (s.setSlice n f).clock = s.clock := rfl
@[simp] theorem State.setSlice_free (s : State) (n : Nat) (f : SliceSt → SliceSt) : (s.setSlice n f).free = s.free := rfl
@[simp] theorem State.setSlice_inputs (s : State) (n : Nat) (f : SliceSt → SliceSt) : (s.setSlice n f).inputs = s.inputs := rfl
@[simp] theorem State.setSlice_cur (s : State) (n : Nat) (f : SliceSt → SliceSt) : (s.setSlice n f).cur = s.cur := rfl
@[simp] theorem State.setSlice_nextId (s : State) (n : Nat) (f : SliceSt → SliceSt) : (s.setSlice n f).nextId = s.nextId := rfl
@[simp] theorem State.setSlice_resp (s : State) (n : Nat) (f : SliceSt → SliceSt) : (s.setSlice n f).resp = s.resp := rfl
@[simp] theorem State.setSlice_valid (s : State) (n : Nat) (f : SliceSt → SliceSt) : (s.setSlice n f).valid = s.valid := rfl
@[simp] theorem State.setSlice_part (s : State) (n : Nat) (f : SliceSt → SliceSt) : (s.setSlice n f).part = s.part := rfl
@[simp] theorem State.setSlice_bring (s : State) (n : Nat) (f : SliceSt → SliceSt) : (s.setSlice n f).bring = s.bring := rfl
@[simp] theorem State.setSlice_fwErr (s : State) (n : Nat) (f : SliceSt → SliceSt) : (s.setSlice n f).fwErr = s.fwErr := rfl
@[simp] theorem State.setSlice_fwStep (s : State) (n : Nat) (f : SliceSt → SliceSt) : (s.setSlice n f).fwStep = s.fwStep := rfl
@[simp] theorem State.setSlice_fwBusy (s : State) (n : Nat) (f : SliceSt → SliceSt) : (s.setSlice n f).fwBusy = s.fwBusy := rfl
@[simp] theorem State.setSlice_measure (s : State) (n : Nat) (f : SliceSt → SliceSt) : (s.setSlice n f).measure = s.measure := rfl
@[simp] theorem State.setSlice_measured (s : State) (n : Nat) (f : SliceSt → SliceSt) : (s.setSlice n f).measured = s.measured := rfl
@[simp] theorem State.setSlice_regs (s : State) (n : Nat) (f : SliceSt → SliceSt) : (s.setSlice n f).regs = s.regs := rfl
@[simp] theorem State.setSlice_portH (s : State) (n : Nat) (f : SliceSt → SliceSt) : (s.setSlice n f).portH = s.portH := rfl
@[simp] theorem State.setSlice_mem (s : State) (n : Nat) (f : SliceSt → SliceSt) : (s.setSlice n f).mem = s.mem := rfl
@[simp] theorem State.setSlice_poison (s : State) (n : Nat) (f : SliceSt → SliceSt) : (s.setSlice n f).poison = s.poison := rfl
@[simp] theorem State.setSlice_ecc (s : State) (n : Nat) (f : SliceSt → SliceSt) : (s.setSlice n f).ecc = s.ecc := rfl
@[simp] theorem State.setSlice_l2err (s : State) (n : Nat) (f : SliceSt → SliceSt) : (s.setSlice n f).l2err = s.l2err := rfl
@[simp] theorem State.setSlice_oldCode (s : State) (n : Nat) (f : SliceSt → SliceSt) : (s.setSlice n f).oldCode = s.oldCode := rfl
@[simp] theorem State.setSlice_host (s : State) (n : Nat) (f : SliceSt → SliceSt) : (s.setSlice n f).host = s.host := rfl
@[simp] theorem State.setSlice_window (s : State) (n : Nat) (f : SliceSt → SliceSt) : (s.setSlice n f).window = s.window := rfl
@[simp] theorem State.setSlice_shelf (s : State) (n : Nat) (f : SliceSt → SliceSt) : (s.setSlice n f).shelf = s.shelf := rfl
@[simp] theorem State.setSlice_shelfPoison (s : State) (n : Nat) (f : SliceSt → SliceSt) : (s.setSlice n f).shelfPoison = s.shelfPoison := rfl
@[simp] theorem State.setSlice_l1 (s : State) (n : Nat) (f : SliceSt → SliceSt) : (s.setSlice n f).l1 = s.l1 := rfl
@[simp] theorem State.setSlice_l2 (s : State) (n : Nat) (f : SliceSt → SliceSt) : (s.setSlice n f).l2 = s.l2 := rfl
@[simp] theorem State.setSlice_dir (s : State) (n : Nat) (f : SliceSt → SliceSt) : (s.setSlice n f).dir = s.dir := rfl
@[simp] theorem State.setSlice_homeWrites (s : State) (n : Nat) (f : SliceSt → SliceSt) : (s.setSlice n f).homeWrites = s.homeWrites := rfl
@[simp] theorem State.setSlice_tlb (s : State) (n : Nat) (f : SliceSt → SliceSt) : (s.setSlice n f).tlb = s.tlb := rfl
@[simp] theorem State.setSlice_ctlb (s : State) (n : Nat) (f : SliceSt → SliceSt) : (s.setSlice n f).ctlb = s.ctlb := rfl
@[simp] theorem State.setSlice_wcache (s : State) (n : Nat) (f : SliceSt → SliceSt) : (s.setSlice n f).wcache = s.wcache := rfl
@[simp] theorem State.setSlice_walks (s : State) (n : Nat) (f : SliceSt → SliceSt) : (s.setSlice n f).walks = s.walks := rfl
@[simp] theorem State.setSlice_lent (s : State) (n : Nat) (f : SliceSt → SliceSt) : (s.setSlice n f).lent = s.lent := rfl
@[simp] theorem State.setSlice_pfaults (s : State) (n : Nat) (f : SliceSt → SliceSt) : (s.setSlice n f).pfaults = s.pfaults := rfl
@[simp] theorem State.setSlice_invals (s : State) (n : Nat) (f : SliceSt → SliceSt) : (s.setSlice n f).invals = s.invals := rfl
@[simp] theorem State.setSlice_fields (s : State) (n : Nat) (f : SliceSt → SliceSt) : (s.setSlice n f).fields = s.fields := rfl
@[simp] theorem State.setSlice_xwrites (s : State) (n : Nat) (f : SliceSt → SliceSt) : (s.setSlice n f).xwrites = s.xwrites := rfl
@[simp] theorem State.setSlice_cores (s : State) (n : Nat) (f : SliceSt → SliceSt) : (s.setSlice n f).cores = s.cores := rfl
@[simp] theorem State.setSlice_grpGens (s : State) (n : Nat) (f : SliceSt → SliceSt) : (s.setSlice n f).grpGens = s.grpGens := rfl
@[simp] theorem State.setSlice_launches (s : State) (n : Nat) (f : SliceSt → SliceSt) : (s.setSlice n f).launches = s.launches := rfl
@[simp] theorem State.setSlice_cohorts (s : State) (n : Nat) (f : SliceSt → SliceSt) : (s.setSlice n f).cohorts = s.cohorts := rfl
@[simp] theorem State.setSlice_units (s : State) (n : Nat) (f : SliceSt → SliceSt) : (s.setSlice n f).units = s.units := rfl
@[simp] theorem State.setSlice_consts (s : State) (n : Nat) (f : SliceSt → SliceSt) : (s.setSlice n f).consts = s.consts := rfl
@[simp] theorem State.setSlice_reports (s : State) (n : Nat) (f : SliceSt → SliceSt) : (s.setSlice n f).reports = s.reports := rfl
@[simp] theorem State.setSlice_ctxs (s : State) (n : Nat) (f : SliceSt → SliceSt) : (s.setSlice n f).ctxs = s.ctxs := rfl
@[simp] theorem State.setSlice_ops (s : State) (n : Nat) (f : SliceSt → SliceSt) : (s.setSlice n f).ops = s.ops := rfl
@[simp] theorem State.setSlice_grans (s : State) (n : Nat) (f : SliceSt → SliceSt) : (s.setSlice n f).grans = s.grans := rfl
@[simp] theorem State.setSlice_copies (s : State) (n : Nat) (f : SliceSt → SliceSt) : (s.setSlice n f).copies = s.copies := rfl
@[simp] theorem State.setSlice_doneCopies (s : State) (n : Nat) (f : SliceSt → SliceSt) : (s.setSlice n f).doneCopies = s.doneCopies := rfl
@[simp] theorem State.setSlice_publs (s : State) (n : Nat) (f : SliceSt → SliceSt) : (s.setSlice n f).publs = s.publs := rfl
@[simp] theorem State.setSlice_tasks (s : State) (n : Nat) (f : SliceSt → SliceSt) : (s.setSlice n f).tasks = s.tasks := rfl
@[simp] theorem State.setSlice_slots (s : State) (n : Nat) (f : SliceSt → SliceSt) : (s.setSlice n f).slots = s.slots := rfl
@[simp] theorem State.setSlice_banks (s : State) (n : Nat) (f : SliceSt → SliceSt) : (s.setSlice n f).banks = s.banks := rfl
@[simp] theorem State.setSlice_chains (s : State) (n : Nat) (f : SliceSt → SliceSt) : (s.setSlice n f).chains = s.chains := rfl
@[simp] theorem State.setSlice_taskFails (s : State) (n : Nat) (f : SliceSt → SliceSt) : (s.setSlice n f).taskFails = s.taskFails := rfl
@[simp] theorem State.setSlice_curReqs (s : State) (n : Nat) (f : SliceSt → SliceSt) : (s.setSlice n f).curReqs = s.curReqs := rfl
@[simp] theorem State.setSlice_groups (s : State) (n : Nat) (f : SliceSt → SliceSt) : (s.setSlice n f).groups = s.groups := rfl
@[simp] theorem State.setSlice_asu (s : State) (n : Nat) (f : SliceSt → SliceSt) : (s.setSlice n f).asu = s.asu := rfl
@[simp] theorem State.setSlice_barDl (s : State) (n : Nat) (f : SliceSt → SliceSt) : (s.setSlice n f).barDl = s.barDl := rfl
@[simp] theorem State.setSlice_faults (s : State) (n : Nat) (f : SliceSt → SliceSt) : (s.setSlice n f).faults = s.faults := rfl
@[simp] theorem State.setSlice_childFails (s : State) (n : Nat) (f : SliceSt → SliceSt) : (s.setSlice n f).childFails = s.childFails := rfl
@[simp] theorem State.setSlice_syscalls (s : State) (n : Nat) (f : SliceSt → SliceSt) : (s.setSlice n f).syscalls = s.syscalls := rfl
@[simp] theorem State.setSlice_irqs (s : State) (n : Nat) (f : SliceSt → SliceSt) : (s.setSlice n f).irqs = s.irqs := rfl
@[simp] theorem State.setSlice_edges (s : State) (n : Nat) (f : SliceSt → SliceSt) : (s.setSlice n f).edges = s.edges := rfl
@[simp] theorem State.setSlice_descs (s : State) (n : Nat) (f : SliceSt → SliceSt) : (s.setSlice n f).descs = s.descs := rfl

@[simp] theorem State.setReg_clock (s : State) (fn off : Nat) (v : Word) : (s.setReg fn off v).clock = s.clock := rfl
@[simp] theorem State.setReg_free (s : State) (fn off : Nat) (v : Word) : (s.setReg fn off v).free = s.free := rfl
@[simp] theorem State.setReg_inputs (s : State) (fn off : Nat) (v : Word) : (s.setReg fn off v).inputs = s.inputs := rfl
@[simp] theorem State.setReg_cur (s : State) (fn off : Nat) (v : Word) : (s.setReg fn off v).cur = s.cur := rfl
@[simp] theorem State.setReg_nextId (s : State) (fn off : Nat) (v : Word) : (s.setReg fn off v).nextId = s.nextId := rfl
@[simp] theorem State.setReg_resp (s : State) (fn off : Nat) (v : Word) : (s.setReg fn off v).resp = s.resp := rfl
@[simp] theorem State.setReg_valid (s : State) (fn off : Nat) (v : Word) : (s.setReg fn off v).valid = s.valid := rfl
@[simp] theorem State.setReg_part (s : State) (fn off : Nat) (v : Word) : (s.setReg fn off v).part = s.part := rfl
@[simp] theorem State.setReg_bring (s : State) (fn off : Nat) (v : Word) : (s.setReg fn off v).bring = s.bring := rfl
@[simp] theorem State.setReg_fwErr (s : State) (fn off : Nat) (v : Word) : (s.setReg fn off v).fwErr = s.fwErr := rfl
@[simp] theorem State.setReg_fwStep (s : State) (fn off : Nat) (v : Word) : (s.setReg fn off v).fwStep = s.fwStep := rfl
@[simp] theorem State.setReg_fwBusy (s : State) (fn off : Nat) (v : Word) : (s.setReg fn off v).fwBusy = s.fwBusy := rfl
@[simp] theorem State.setReg_measure (s : State) (fn off : Nat) (v : Word) : (s.setReg fn off v).measure = s.measure := rfl
@[simp] theorem State.setReg_measured (s : State) (fn off : Nat) (v : Word) : (s.setReg fn off v).measured = s.measured := rfl
@[simp] theorem State.setReg_portH (s : State) (fn off : Nat) (v : Word) : (s.setReg fn off v).portH = s.portH := rfl
@[simp] theorem State.setReg_slices (s : State) (fn off : Nat) (v : Word) : (s.setReg fn off v).slices = s.slices := rfl
@[simp] theorem State.setReg_mem (s : State) (fn off : Nat) (v : Word) : (s.setReg fn off v).mem = s.mem := rfl
@[simp] theorem State.setReg_poison (s : State) (fn off : Nat) (v : Word) : (s.setReg fn off v).poison = s.poison := rfl
@[simp] theorem State.setReg_ecc (s : State) (fn off : Nat) (v : Word) : (s.setReg fn off v).ecc = s.ecc := rfl
@[simp] theorem State.setReg_l2err (s : State) (fn off : Nat) (v : Word) : (s.setReg fn off v).l2err = s.l2err := rfl
@[simp] theorem State.setReg_oldCode (s : State) (fn off : Nat) (v : Word) : (s.setReg fn off v).oldCode = s.oldCode := rfl
@[simp] theorem State.setReg_host (s : State) (fn off : Nat) (v : Word) : (s.setReg fn off v).host = s.host := rfl
@[simp] theorem State.setReg_window (s : State) (fn off : Nat) (v : Word) : (s.setReg fn off v).window = s.window := rfl
@[simp] theorem State.setReg_shelf (s : State) (fn off : Nat) (v : Word) : (s.setReg fn off v).shelf = s.shelf := rfl
@[simp] theorem State.setReg_shelfPoison (s : State) (fn off : Nat) (v : Word) : (s.setReg fn off v).shelfPoison = s.shelfPoison := rfl
@[simp] theorem State.setReg_l1 (s : State) (fn off : Nat) (v : Word) : (s.setReg fn off v).l1 = s.l1 := rfl
@[simp] theorem State.setReg_l2 (s : State) (fn off : Nat) (v : Word) : (s.setReg fn off v).l2 = s.l2 := rfl
@[simp] theorem State.setReg_dir (s : State) (fn off : Nat) (v : Word) : (s.setReg fn off v).dir = s.dir := rfl
@[simp] theorem State.setReg_homeWrites (s : State) (fn off : Nat) (v : Word) : (s.setReg fn off v).homeWrites = s.homeWrites := rfl
@[simp] theorem State.setReg_tlb (s : State) (fn off : Nat) (v : Word) : (s.setReg fn off v).tlb = s.tlb := rfl
@[simp] theorem State.setReg_ctlb (s : State) (fn off : Nat) (v : Word) : (s.setReg fn off v).ctlb = s.ctlb := rfl
@[simp] theorem State.setReg_wcache (s : State) (fn off : Nat) (v : Word) : (s.setReg fn off v).wcache = s.wcache := rfl
@[simp] theorem State.setReg_walks (s : State) (fn off : Nat) (v : Word) : (s.setReg fn off v).walks = s.walks := rfl
@[simp] theorem State.setReg_lent (s : State) (fn off : Nat) (v : Word) : (s.setReg fn off v).lent = s.lent := rfl
@[simp] theorem State.setReg_pfaults (s : State) (fn off : Nat) (v : Word) : (s.setReg fn off v).pfaults = s.pfaults := rfl
@[simp] theorem State.setReg_invals (s : State) (fn off : Nat) (v : Word) : (s.setReg fn off v).invals = s.invals := rfl
@[simp] theorem State.setReg_fields (s : State) (fn off : Nat) (v : Word) : (s.setReg fn off v).fields = s.fields := rfl
@[simp] theorem State.setReg_xwrites (s : State) (fn off : Nat) (v : Word) : (s.setReg fn off v).xwrites = s.xwrites := rfl
@[simp] theorem State.setReg_cores (s : State) (fn off : Nat) (v : Word) : (s.setReg fn off v).cores = s.cores := rfl
@[simp] theorem State.setReg_grpGens (s : State) (fn off : Nat) (v : Word) : (s.setReg fn off v).grpGens = s.grpGens := rfl
@[simp] theorem State.setReg_launches (s : State) (fn off : Nat) (v : Word) : (s.setReg fn off v).launches = s.launches := rfl
@[simp] theorem State.setReg_cohorts (s : State) (fn off : Nat) (v : Word) : (s.setReg fn off v).cohorts = s.cohorts := rfl
@[simp] theorem State.setReg_units (s : State) (fn off : Nat) (v : Word) : (s.setReg fn off v).units = s.units := rfl
@[simp] theorem State.setReg_consts (s : State) (fn off : Nat) (v : Word) : (s.setReg fn off v).consts = s.consts := rfl
@[simp] theorem State.setReg_reports (s : State) (fn off : Nat) (v : Word) : (s.setReg fn off v).reports = s.reports := rfl
@[simp] theorem State.setReg_ctxs (s : State) (fn off : Nat) (v : Word) : (s.setReg fn off v).ctxs = s.ctxs := rfl
@[simp] theorem State.setReg_ops (s : State) (fn off : Nat) (v : Word) : (s.setReg fn off v).ops = s.ops := rfl
@[simp] theorem State.setReg_grans (s : State) (fn off : Nat) (v : Word) : (s.setReg fn off v).grans = s.grans := rfl
@[simp] theorem State.setReg_copies (s : State) (fn off : Nat) (v : Word) : (s.setReg fn off v).copies = s.copies := rfl
@[simp] theorem State.setReg_doneCopies (s : State) (fn off : Nat) (v : Word) : (s.setReg fn off v).doneCopies = s.doneCopies := rfl
@[simp] theorem State.setReg_publs (s : State) (fn off : Nat) (v : Word) : (s.setReg fn off v).publs = s.publs := rfl
@[simp] theorem State.setReg_tasks (s : State) (fn off : Nat) (v : Word) : (s.setReg fn off v).tasks = s.tasks := rfl
@[simp] theorem State.setReg_slots (s : State) (fn off : Nat) (v : Word) : (s.setReg fn off v).slots = s.slots := rfl
@[simp] theorem State.setReg_banks (s : State) (fn off : Nat) (v : Word) : (s.setReg fn off v).banks = s.banks := rfl
@[simp] theorem State.setReg_chains (s : State) (fn off : Nat) (v : Word) : (s.setReg fn off v).chains = s.chains := rfl
@[simp] theorem State.setReg_taskFails (s : State) (fn off : Nat) (v : Word) : (s.setReg fn off v).taskFails = s.taskFails := rfl
@[simp] theorem State.setReg_curReqs (s : State) (fn off : Nat) (v : Word) : (s.setReg fn off v).curReqs = s.curReqs := rfl
@[simp] theorem State.setReg_groups (s : State) (fn off : Nat) (v : Word) : (s.setReg fn off v).groups = s.groups := rfl
@[simp] theorem State.setReg_asu (s : State) (fn off : Nat) (v : Word) : (s.setReg fn off v).asu = s.asu := rfl
@[simp] theorem State.setReg_barDl (s : State) (fn off : Nat) (v : Word) : (s.setReg fn off v).barDl = s.barDl := rfl
@[simp] theorem State.setReg_faults (s : State) (fn off : Nat) (v : Word) : (s.setReg fn off v).faults = s.faults := rfl
@[simp] theorem State.setReg_childFails (s : State) (fn off : Nat) (v : Word) : (s.setReg fn off v).childFails = s.childFails := rfl
@[simp] theorem State.setReg_syscalls (s : State) (fn off : Nat) (v : Word) : (s.setReg fn off v).syscalls = s.syscalls := rfl
@[simp] theorem State.setReg_irqs (s : State) (fn off : Nat) (v : Word) : (s.setReg fn off v).irqs = s.irqs := rfl
@[simp] theorem State.setReg_edges (s : State) (fn off : Nat) (v : Word) : (s.setReg fn off v).edges = s.edges := rfl
@[simp] theorem State.setReg_descs (s : State) (fn off : Nat) (v : Word) : (s.setReg fn off v).descs = s.descs := rfl

@[simp] theorem State.setVreg_clock (s : State) (slice off : Nat) (v : Word) : (s.setVreg slice off v).clock = s.clock := rfl
@[simp] theorem State.setVreg_free (s : State) (slice off : Nat) (v : Word) : (s.setVreg slice off v).free = s.free := rfl
@[simp] theorem State.setVreg_inputs (s : State) (slice off : Nat) (v : Word) : (s.setVreg slice off v).inputs = s.inputs := rfl
@[simp] theorem State.setVreg_cur (s : State) (slice off : Nat) (v : Word) : (s.setVreg slice off v).cur = s.cur := rfl
@[simp] theorem State.setVreg_nextId (s : State) (slice off : Nat) (v : Word) : (s.setVreg slice off v).nextId = s.nextId := rfl
@[simp] theorem State.setVreg_resp (s : State) (slice off : Nat) (v : Word) : (s.setVreg slice off v).resp = s.resp := rfl
@[simp] theorem State.setVreg_valid (s : State) (slice off : Nat) (v : Word) : (s.setVreg slice off v).valid = s.valid := rfl
@[simp] theorem State.setVreg_part (s : State) (slice off : Nat) (v : Word) : (s.setVreg slice off v).part = s.part := rfl
@[simp] theorem State.setVreg_bring (s : State) (slice off : Nat) (v : Word) : (s.setVreg slice off v).bring = s.bring := rfl
@[simp] theorem State.setVreg_fwErr (s : State) (slice off : Nat) (v : Word) : (s.setVreg slice off v).fwErr = s.fwErr := rfl
@[simp] theorem State.setVreg_fwStep (s : State) (slice off : Nat) (v : Word) : (s.setVreg slice off v).fwStep = s.fwStep := rfl
@[simp] theorem State.setVreg_fwBusy (s : State) (slice off : Nat) (v : Word) : (s.setVreg slice off v).fwBusy = s.fwBusy := rfl
@[simp] theorem State.setVreg_measure (s : State) (slice off : Nat) (v : Word) : (s.setVreg slice off v).measure = s.measure := rfl
@[simp] theorem State.setVreg_measured (s : State) (slice off : Nat) (v : Word) : (s.setVreg slice off v).measured = s.measured := rfl
@[simp] theorem State.setVreg_portH (s : State) (slice off : Nat) (v : Word) : (s.setVreg slice off v).portH = s.portH := rfl
@[simp] theorem State.setVreg_slices (s : State) (slice off : Nat) (v : Word) : (s.setVreg slice off v).slices = s.slices := rfl
@[simp] theorem State.setVreg_mem (s : State) (slice off : Nat) (v : Word) : (s.setVreg slice off v).mem = s.mem := rfl
@[simp] theorem State.setVreg_poison (s : State) (slice off : Nat) (v : Word) : (s.setVreg slice off v).poison = s.poison := rfl
@[simp] theorem State.setVreg_ecc (s : State) (slice off : Nat) (v : Word) : (s.setVreg slice off v).ecc = s.ecc := rfl
@[simp] theorem State.setVreg_l2err (s : State) (slice off : Nat) (v : Word) : (s.setVreg slice off v).l2err = s.l2err := rfl
@[simp] theorem State.setVreg_oldCode (s : State) (slice off : Nat) (v : Word) : (s.setVreg slice off v).oldCode = s.oldCode := rfl
@[simp] theorem State.setVreg_host (s : State) (slice off : Nat) (v : Word) : (s.setVreg slice off v).host = s.host := rfl
@[simp] theorem State.setVreg_window (s : State) (slice off : Nat) (v : Word) : (s.setVreg slice off v).window = s.window := rfl
@[simp] theorem State.setVreg_shelf (s : State) (slice off : Nat) (v : Word) : (s.setVreg slice off v).shelf = s.shelf := rfl
@[simp] theorem State.setVreg_shelfPoison (s : State) (slice off : Nat) (v : Word) : (s.setVreg slice off v).shelfPoison = s.shelfPoison := rfl
@[simp] theorem State.setVreg_l1 (s : State) (slice off : Nat) (v : Word) : (s.setVreg slice off v).l1 = s.l1 := rfl
@[simp] theorem State.setVreg_l2 (s : State) (slice off : Nat) (v : Word) : (s.setVreg slice off v).l2 = s.l2 := rfl
@[simp] theorem State.setVreg_dir (s : State) (slice off : Nat) (v : Word) : (s.setVreg slice off v).dir = s.dir := rfl
@[simp] theorem State.setVreg_homeWrites (s : State) (slice off : Nat) (v : Word) : (s.setVreg slice off v).homeWrites = s.homeWrites := rfl
@[simp] theorem State.setVreg_tlb (s : State) (slice off : Nat) (v : Word) : (s.setVreg slice off v).tlb = s.tlb := rfl
@[simp] theorem State.setVreg_ctlb (s : State) (slice off : Nat) (v : Word) : (s.setVreg slice off v).ctlb = s.ctlb := rfl
@[simp] theorem State.setVreg_wcache (s : State) (slice off : Nat) (v : Word) : (s.setVreg slice off v).wcache = s.wcache := rfl
@[simp] theorem State.setVreg_walks (s : State) (slice off : Nat) (v : Word) : (s.setVreg slice off v).walks = s.walks := rfl
@[simp] theorem State.setVreg_lent (s : State) (slice off : Nat) (v : Word) : (s.setVreg slice off v).lent = s.lent := rfl
@[simp] theorem State.setVreg_pfaults (s : State) (slice off : Nat) (v : Word) : (s.setVreg slice off v).pfaults = s.pfaults := rfl
@[simp] theorem State.setVreg_invals (s : State) (slice off : Nat) (v : Word) : (s.setVreg slice off v).invals = s.invals := rfl
@[simp] theorem State.setVreg_fields (s : State) (slice off : Nat) (v : Word) : (s.setVreg slice off v).fields = s.fields := rfl
@[simp] theorem State.setVreg_xwrites (s : State) (slice off : Nat) (v : Word) : (s.setVreg slice off v).xwrites = s.xwrites := rfl
@[simp] theorem State.setVreg_cores (s : State) (slice off : Nat) (v : Word) : (s.setVreg slice off v).cores = s.cores := rfl
@[simp] theorem State.setVreg_grpGens (s : State) (slice off : Nat) (v : Word) : (s.setVreg slice off v).grpGens = s.grpGens := rfl
@[simp] theorem State.setVreg_launches (s : State) (slice off : Nat) (v : Word) : (s.setVreg slice off v).launches = s.launches := rfl
@[simp] theorem State.setVreg_cohorts (s : State) (slice off : Nat) (v : Word) : (s.setVreg slice off v).cohorts = s.cohorts := rfl
@[simp] theorem State.setVreg_units (s : State) (slice off : Nat) (v : Word) : (s.setVreg slice off v).units = s.units := rfl
@[simp] theorem State.setVreg_consts (s : State) (slice off : Nat) (v : Word) : (s.setVreg slice off v).consts = s.consts := rfl
@[simp] theorem State.setVreg_reports (s : State) (slice off : Nat) (v : Word) : (s.setVreg slice off v).reports = s.reports := rfl
@[simp] theorem State.setVreg_ctxs (s : State) (slice off : Nat) (v : Word) : (s.setVreg slice off v).ctxs = s.ctxs := rfl
@[simp] theorem State.setVreg_ops (s : State) (slice off : Nat) (v : Word) : (s.setVreg slice off v).ops = s.ops := rfl
@[simp] theorem State.setVreg_grans (s : State) (slice off : Nat) (v : Word) : (s.setVreg slice off v).grans = s.grans := rfl
@[simp] theorem State.setVreg_copies (s : State) (slice off : Nat) (v : Word) : (s.setVreg slice off v).copies = s.copies := rfl
@[simp] theorem State.setVreg_doneCopies (s : State) (slice off : Nat) (v : Word) : (s.setVreg slice off v).doneCopies = s.doneCopies := rfl
@[simp] theorem State.setVreg_publs (s : State) (slice off : Nat) (v : Word) : (s.setVreg slice off v).publs = s.publs := rfl
@[simp] theorem State.setVreg_tasks (s : State) (slice off : Nat) (v : Word) : (s.setVreg slice off v).tasks = s.tasks := rfl
@[simp] theorem State.setVreg_slots (s : State) (slice off : Nat) (v : Word) : (s.setVreg slice off v).slots = s.slots := rfl
@[simp] theorem State.setVreg_banks (s : State) (slice off : Nat) (v : Word) : (s.setVreg slice off v).banks = s.banks := rfl
@[simp] theorem State.setVreg_chains (s : State) (slice off : Nat) (v : Word) : (s.setVreg slice off v).chains = s.chains := rfl
@[simp] theorem State.setVreg_taskFails (s : State) (slice off : Nat) (v : Word) : (s.setVreg slice off v).taskFails = s.taskFails := rfl
@[simp] theorem State.setVreg_curReqs (s : State) (slice off : Nat) (v : Word) : (s.setVreg slice off v).curReqs = s.curReqs := rfl
@[simp] theorem State.setVreg_groups (s : State) (slice off : Nat) (v : Word) : (s.setVreg slice off v).groups = s.groups := rfl
@[simp] theorem State.setVreg_asu (s : State) (slice off : Nat) (v : Word) : (s.setVreg slice off v).asu = s.asu := rfl
@[simp] theorem State.setVreg_barDl (s : State) (slice off : Nat) (v : Word) : (s.setVreg slice off v).barDl = s.barDl := rfl
@[simp] theorem State.setVreg_faults (s : State) (slice off : Nat) (v : Word) : (s.setVreg slice off v).faults = s.faults := rfl
@[simp] theorem State.setVreg_childFails (s : State) (slice off : Nat) (v : Word) : (s.setVreg slice off v).childFails = s.childFails := rfl
@[simp] theorem State.setVreg_syscalls (s : State) (slice off : Nat) (v : Word) : (s.setVreg slice off v).syscalls = s.syscalls := rfl
@[simp] theorem State.setVreg_irqs (s : State) (slice off : Nat) (v : Word) : (s.setVreg slice off v).irqs = s.irqs := rfl
@[simp] theorem State.setVreg_edges (s : State) (slice off : Nat) (v : Word) : (s.setVreg slice off v).edges = s.edges := rfl
@[simp] theorem State.setVreg_descs (s : State) (slice off : Nat) (v : Word) : (s.setVreg slice off v).descs = s.descs := rfl

@[simp] theorem State.count_clock (s : State) (slice off n : Nat) : (s.count slice off n).clock = s.clock := rfl
@[simp] theorem State.count_free (s : State) (slice off n : Nat) : (s.count slice off n).free = s.free := rfl
@[simp] theorem State.count_inputs (s : State) (slice off n : Nat) : (s.count slice off n).inputs = s.inputs := rfl
@[simp] theorem State.count_cur (s : State) (slice off n : Nat) : (s.count slice off n).cur = s.cur := rfl
@[simp] theorem State.count_nextId (s : State) (slice off n : Nat) : (s.count slice off n).nextId = s.nextId := rfl
@[simp] theorem State.count_resp (s : State) (slice off n : Nat) : (s.count slice off n).resp = s.resp := rfl
@[simp] theorem State.count_valid (s : State) (slice off n : Nat) : (s.count slice off n).valid = s.valid := rfl
@[simp] theorem State.count_part (s : State) (slice off n : Nat) : (s.count slice off n).part = s.part := rfl
@[simp] theorem State.count_bring (s : State) (slice off n : Nat) : (s.count slice off n).bring = s.bring := rfl
@[simp] theorem State.count_fwErr (s : State) (slice off n : Nat) : (s.count slice off n).fwErr = s.fwErr := rfl
@[simp] theorem State.count_fwStep (s : State) (slice off n : Nat) : (s.count slice off n).fwStep = s.fwStep := rfl
@[simp] theorem State.count_fwBusy (s : State) (slice off n : Nat) : (s.count slice off n).fwBusy = s.fwBusy := rfl
@[simp] theorem State.count_measure (s : State) (slice off n : Nat) : (s.count slice off n).measure = s.measure := rfl
@[simp] theorem State.count_measured (s : State) (slice off n : Nat) : (s.count slice off n).measured = s.measured := rfl
@[simp] theorem State.count_portH (s : State) (slice off n : Nat) : (s.count slice off n).portH = s.portH := rfl
@[simp] theorem State.count_slices (s : State) (slice off n : Nat) : (s.count slice off n).slices = s.slices := rfl
@[simp] theorem State.count_mem (s : State) (slice off n : Nat) : (s.count slice off n).mem = s.mem := rfl
@[simp] theorem State.count_poison (s : State) (slice off n : Nat) : (s.count slice off n).poison = s.poison := rfl
@[simp] theorem State.count_ecc (s : State) (slice off n : Nat) : (s.count slice off n).ecc = s.ecc := rfl
@[simp] theorem State.count_l2err (s : State) (slice off n : Nat) : (s.count slice off n).l2err = s.l2err := rfl
@[simp] theorem State.count_oldCode (s : State) (slice off n : Nat) : (s.count slice off n).oldCode = s.oldCode := rfl
@[simp] theorem State.count_host (s : State) (slice off n : Nat) : (s.count slice off n).host = s.host := rfl
@[simp] theorem State.count_window (s : State) (slice off n : Nat) : (s.count slice off n).window = s.window := rfl
@[simp] theorem State.count_shelf (s : State) (slice off n : Nat) : (s.count slice off n).shelf = s.shelf := rfl
@[simp] theorem State.count_shelfPoison (s : State) (slice off n : Nat) : (s.count slice off n).shelfPoison = s.shelfPoison := rfl
@[simp] theorem State.count_l1 (s : State) (slice off n : Nat) : (s.count slice off n).l1 = s.l1 := rfl
@[simp] theorem State.count_l2 (s : State) (slice off n : Nat) : (s.count slice off n).l2 = s.l2 := rfl
@[simp] theorem State.count_dir (s : State) (slice off n : Nat) : (s.count slice off n).dir = s.dir := rfl
@[simp] theorem State.count_homeWrites (s : State) (slice off n : Nat) : (s.count slice off n).homeWrites = s.homeWrites := rfl
@[simp] theorem State.count_tlb (s : State) (slice off n : Nat) : (s.count slice off n).tlb = s.tlb := rfl
@[simp] theorem State.count_ctlb (s : State) (slice off n : Nat) : (s.count slice off n).ctlb = s.ctlb := rfl
@[simp] theorem State.count_wcache (s : State) (slice off n : Nat) : (s.count slice off n).wcache = s.wcache := rfl
@[simp] theorem State.count_walks (s : State) (slice off n : Nat) : (s.count slice off n).walks = s.walks := rfl
@[simp] theorem State.count_lent (s : State) (slice off n : Nat) : (s.count slice off n).lent = s.lent := rfl
@[simp] theorem State.count_pfaults (s : State) (slice off n : Nat) : (s.count slice off n).pfaults = s.pfaults := rfl
@[simp] theorem State.count_invals (s : State) (slice off n : Nat) : (s.count slice off n).invals = s.invals := rfl
@[simp] theorem State.count_fields (s : State) (slice off n : Nat) : (s.count slice off n).fields = s.fields := rfl
@[simp] theorem State.count_xwrites (s : State) (slice off n : Nat) : (s.count slice off n).xwrites = s.xwrites := rfl
@[simp] theorem State.count_cores (s : State) (slice off n : Nat) : (s.count slice off n).cores = s.cores := rfl
@[simp] theorem State.count_grpGens (s : State) (slice off n : Nat) : (s.count slice off n).grpGens = s.grpGens := rfl
@[simp] theorem State.count_launches (s : State) (slice off n : Nat) : (s.count slice off n).launches = s.launches := rfl
@[simp] theorem State.count_cohorts (s : State) (slice off n : Nat) : (s.count slice off n).cohorts = s.cohorts := rfl
@[simp] theorem State.count_units (s : State) (slice off n : Nat) : (s.count slice off n).units = s.units := rfl
@[simp] theorem State.count_consts (s : State) (slice off n : Nat) : (s.count slice off n).consts = s.consts := rfl
@[simp] theorem State.count_reports (s : State) (slice off n : Nat) : (s.count slice off n).reports = s.reports := rfl
@[simp] theorem State.count_ctxs (s : State) (slice off n : Nat) : (s.count slice off n).ctxs = s.ctxs := rfl
@[simp] theorem State.count_ops (s : State) (slice off n : Nat) : (s.count slice off n).ops = s.ops := rfl
@[simp] theorem State.count_grans (s : State) (slice off n : Nat) : (s.count slice off n).grans = s.grans := rfl
@[simp] theorem State.count_copies (s : State) (slice off n : Nat) : (s.count slice off n).copies = s.copies := rfl
@[simp] theorem State.count_doneCopies (s : State) (slice off n : Nat) : (s.count slice off n).doneCopies = s.doneCopies := rfl
@[simp] theorem State.count_publs (s : State) (slice off n : Nat) : (s.count slice off n).publs = s.publs := rfl
@[simp] theorem State.count_tasks (s : State) (slice off n : Nat) : (s.count slice off n).tasks = s.tasks := rfl
@[simp] theorem State.count_slots (s : State) (slice off n : Nat) : (s.count slice off n).slots = s.slots := rfl
@[simp] theorem State.count_banks (s : State) (slice off n : Nat) : (s.count slice off n).banks = s.banks := rfl
@[simp] theorem State.count_chains (s : State) (slice off n : Nat) : (s.count slice off n).chains = s.chains := rfl
@[simp] theorem State.count_taskFails (s : State) (slice off n : Nat) : (s.count slice off n).taskFails = s.taskFails := rfl
@[simp] theorem State.count_curReqs (s : State) (slice off n : Nat) : (s.count slice off n).curReqs = s.curReqs := rfl
@[simp] theorem State.count_groups (s : State) (slice off n : Nat) : (s.count slice off n).groups = s.groups := rfl
@[simp] theorem State.count_asu (s : State) (slice off n : Nat) : (s.count slice off n).asu = s.asu := rfl
@[simp] theorem State.count_barDl (s : State) (slice off n : Nat) : (s.count slice off n).barDl = s.barDl := rfl
@[simp] theorem State.count_faults (s : State) (slice off n : Nat) : (s.count slice off n).faults = s.faults := rfl
@[simp] theorem State.count_childFails (s : State) (slice off n : Nat) : (s.count slice off n).childFails = s.childFails := rfl
@[simp] theorem State.count_syscalls (s : State) (slice off n : Nat) : (s.count slice off n).syscalls = s.syscalls := rfl
@[simp] theorem State.count_irqs (s : State) (slice off n : Nat) : (s.count slice off n).irqs = s.irqs := rfl
@[simp] theorem State.count_edges (s : State) (slice off n : Nat) : (s.count slice off n).edges = s.edges := rfl
@[simp] theorem State.count_descs (s : State) (slice off n : Nat) : (s.count slice off n).descs = s.descs := rfl

@[simp] theorem State.draw_clock (s : State) : s.draw.clock = s.clock := rfl
@[simp] theorem State.draw_inputs (s : State) : s.draw.inputs = s.inputs := rfl
@[simp] theorem State.draw_cur (s : State) : s.draw.cur = s.cur := rfl
@[simp] theorem State.draw_nextId (s : State) : s.draw.nextId = s.nextId := rfl
@[simp] theorem State.draw_resp (s : State) : s.draw.resp = s.resp := rfl
@[simp] theorem State.draw_valid (s : State) : s.draw.valid = s.valid := rfl
@[simp] theorem State.draw_part (s : State) : s.draw.part = s.part := rfl
@[simp] theorem State.draw_bring (s : State) : s.draw.bring = s.bring := rfl
@[simp] theorem State.draw_fwErr (s : State) : s.draw.fwErr = s.fwErr := rfl
@[simp] theorem State.draw_fwStep (s : State) : s.draw.fwStep = s.fwStep := rfl
@[simp] theorem State.draw_fwBusy (s : State) : s.draw.fwBusy = s.fwBusy := rfl
@[simp] theorem State.draw_measure (s : State) : s.draw.measure = s.measure := rfl
@[simp] theorem State.draw_measured (s : State) : s.draw.measured = s.measured := rfl
@[simp] theorem State.draw_regs (s : State) : s.draw.regs = s.regs := rfl
@[simp] theorem State.draw_portH (s : State) : s.draw.portH = s.portH := rfl
@[simp] theorem State.draw_slices (s : State) : s.draw.slices = s.slices := rfl
@[simp] theorem State.draw_mem (s : State) : s.draw.mem = s.mem := rfl
@[simp] theorem State.draw_poison (s : State) : s.draw.poison = s.poison := rfl
@[simp] theorem State.draw_ecc (s : State) : s.draw.ecc = s.ecc := rfl
@[simp] theorem State.draw_l2err (s : State) : s.draw.l2err = s.l2err := rfl
@[simp] theorem State.draw_oldCode (s : State) : s.draw.oldCode = s.oldCode := rfl
@[simp] theorem State.draw_host (s : State) : s.draw.host = s.host := rfl
@[simp] theorem State.draw_window (s : State) : s.draw.window = s.window := rfl
@[simp] theorem State.draw_shelf (s : State) : s.draw.shelf = s.shelf := rfl
@[simp] theorem State.draw_shelfPoison (s : State) : s.draw.shelfPoison = s.shelfPoison := rfl
@[simp] theorem State.draw_l1 (s : State) : s.draw.l1 = s.l1 := rfl
@[simp] theorem State.draw_l2 (s : State) : s.draw.l2 = s.l2 := rfl
@[simp] theorem State.draw_dir (s : State) : s.draw.dir = s.dir := rfl
@[simp] theorem State.draw_homeWrites (s : State) : s.draw.homeWrites = s.homeWrites := rfl
@[simp] theorem State.draw_tlb (s : State) : s.draw.tlb = s.tlb := rfl
@[simp] theorem State.draw_ctlb (s : State) : s.draw.ctlb = s.ctlb := rfl
@[simp] theorem State.draw_wcache (s : State) : s.draw.wcache = s.wcache := rfl
@[simp] theorem State.draw_walks (s : State) : s.draw.walks = s.walks := rfl
@[simp] theorem State.draw_lent (s : State) : s.draw.lent = s.lent := rfl
@[simp] theorem State.draw_pfaults (s : State) : s.draw.pfaults = s.pfaults := rfl
@[simp] theorem State.draw_invals (s : State) : s.draw.invals = s.invals := rfl
@[simp] theorem State.draw_fields (s : State) : s.draw.fields = s.fields := rfl
@[simp] theorem State.draw_xwrites (s : State) : s.draw.xwrites = s.xwrites := rfl
@[simp] theorem State.draw_cores (s : State) : s.draw.cores = s.cores := rfl
@[simp] theorem State.draw_grpGens (s : State) : s.draw.grpGens = s.grpGens := rfl
@[simp] theorem State.draw_launches (s : State) : s.draw.launches = s.launches := rfl
@[simp] theorem State.draw_cohorts (s : State) : s.draw.cohorts = s.cohorts := rfl
@[simp] theorem State.draw_units (s : State) : s.draw.units = s.units := rfl
@[simp] theorem State.draw_consts (s : State) : s.draw.consts = s.consts := rfl
@[simp] theorem State.draw_reports (s : State) : s.draw.reports = s.reports := rfl
@[simp] theorem State.draw_ctxs (s : State) : s.draw.ctxs = s.ctxs := rfl
@[simp] theorem State.draw_ops (s : State) : s.draw.ops = s.ops := rfl
@[simp] theorem State.draw_grans (s : State) : s.draw.grans = s.grans := rfl
@[simp] theorem State.draw_copies (s : State) : s.draw.copies = s.copies := rfl
@[simp] theorem State.draw_doneCopies (s : State) : s.draw.doneCopies = s.doneCopies := rfl
@[simp] theorem State.draw_publs (s : State) : s.draw.publs = s.publs := rfl
@[simp] theorem State.draw_tasks (s : State) : s.draw.tasks = s.tasks := rfl
@[simp] theorem State.draw_slots (s : State) : s.draw.slots = s.slots := rfl
@[simp] theorem State.draw_banks (s : State) : s.draw.banks = s.banks := rfl
@[simp] theorem State.draw_chains (s : State) : s.draw.chains = s.chains := rfl
@[simp] theorem State.draw_taskFails (s : State) : s.draw.taskFails = s.taskFails := rfl
@[simp] theorem State.draw_curReqs (s : State) : s.draw.curReqs = s.curReqs := rfl
@[simp] theorem State.draw_groups (s : State) : s.draw.groups = s.groups := rfl
@[simp] theorem State.draw_asu (s : State) : s.draw.asu = s.asu := rfl
@[simp] theorem State.draw_barDl (s : State) : s.draw.barDl = s.barDl := rfl
@[simp] theorem State.draw_faults (s : State) : s.draw.faults = s.faults := rfl
@[simp] theorem State.draw_childFails (s : State) : s.draw.childFails = s.childFails := rfl
@[simp] theorem State.draw_syscalls (s : State) : s.draw.syscalls = s.syscalls := rfl
@[simp] theorem State.draw_irqs (s : State) : s.draw.irqs = s.irqs := rfl
@[simp] theorem State.draw_edges (s : State) : s.draw.edges = s.edges := rfl
@[simp] theorem State.draw_descs (s : State) : s.draw.descs = s.descs := rfl

@[simp] theorem State.setCore_clock (s : State) (core : Nat) (f : CoreSt → CoreSt) : (s.setCore core f).clock = s.clock := rfl
@[simp] theorem State.setCore_free (s : State) (core : Nat) (f : CoreSt → CoreSt) : (s.setCore core f).free = s.free := rfl
@[simp] theorem State.setCore_inputs (s : State) (core : Nat) (f : CoreSt → CoreSt) : (s.setCore core f).inputs = s.inputs := rfl
@[simp] theorem State.setCore_cur (s : State) (core : Nat) (f : CoreSt → CoreSt) : (s.setCore core f).cur = s.cur := rfl
@[simp] theorem State.setCore_nextId (s : State) (core : Nat) (f : CoreSt → CoreSt) : (s.setCore core f).nextId = s.nextId := rfl
@[simp] theorem State.setCore_resp (s : State) (core : Nat) (f : CoreSt → CoreSt) : (s.setCore core f).resp = s.resp := rfl
@[simp] theorem State.setCore_valid (s : State) (core : Nat) (f : CoreSt → CoreSt) : (s.setCore core f).valid = s.valid := rfl
@[simp] theorem State.setCore_part (s : State) (core : Nat) (f : CoreSt → CoreSt) : (s.setCore core f).part = s.part := rfl
@[simp] theorem State.setCore_bring (s : State) (core : Nat) (f : CoreSt → CoreSt) : (s.setCore core f).bring = s.bring := rfl
@[simp] theorem State.setCore_fwErr (s : State) (core : Nat) (f : CoreSt → CoreSt) : (s.setCore core f).fwErr = s.fwErr := rfl
@[simp] theorem State.setCore_fwStep (s : State) (core : Nat) (f : CoreSt → CoreSt) : (s.setCore core f).fwStep = s.fwStep := rfl
@[simp] theorem State.setCore_fwBusy (s : State) (core : Nat) (f : CoreSt → CoreSt) : (s.setCore core f).fwBusy = s.fwBusy := rfl
@[simp] theorem State.setCore_measure (s : State) (core : Nat) (f : CoreSt → CoreSt) : (s.setCore core f).measure = s.measure := rfl
@[simp] theorem State.setCore_measured (s : State) (core : Nat) (f : CoreSt → CoreSt) : (s.setCore core f).measured = s.measured := rfl
@[simp] theorem State.setCore_regs (s : State) (core : Nat) (f : CoreSt → CoreSt) : (s.setCore core f).regs = s.regs := rfl
@[simp] theorem State.setCore_portH (s : State) (core : Nat) (f : CoreSt → CoreSt) : (s.setCore core f).portH = s.portH := rfl
@[simp] theorem State.setCore_slices (s : State) (core : Nat) (f : CoreSt → CoreSt) : (s.setCore core f).slices = s.slices := rfl
@[simp] theorem State.setCore_mem (s : State) (core : Nat) (f : CoreSt → CoreSt) : (s.setCore core f).mem = s.mem := rfl
@[simp] theorem State.setCore_poison (s : State) (core : Nat) (f : CoreSt → CoreSt) : (s.setCore core f).poison = s.poison := rfl
@[simp] theorem State.setCore_ecc (s : State) (core : Nat) (f : CoreSt → CoreSt) : (s.setCore core f).ecc = s.ecc := rfl
@[simp] theorem State.setCore_l2err (s : State) (core : Nat) (f : CoreSt → CoreSt) : (s.setCore core f).l2err = s.l2err := rfl
@[simp] theorem State.setCore_oldCode (s : State) (core : Nat) (f : CoreSt → CoreSt) : (s.setCore core f).oldCode = s.oldCode := rfl
@[simp] theorem State.setCore_host (s : State) (core : Nat) (f : CoreSt → CoreSt) : (s.setCore core f).host = s.host := rfl
@[simp] theorem State.setCore_window (s : State) (core : Nat) (f : CoreSt → CoreSt) : (s.setCore core f).window = s.window := rfl
@[simp] theorem State.setCore_shelf (s : State) (core : Nat) (f : CoreSt → CoreSt) : (s.setCore core f).shelf = s.shelf := rfl
@[simp] theorem State.setCore_shelfPoison (s : State) (core : Nat) (f : CoreSt → CoreSt) : (s.setCore core f).shelfPoison = s.shelfPoison := rfl
@[simp] theorem State.setCore_l1 (s : State) (core : Nat) (f : CoreSt → CoreSt) : (s.setCore core f).l1 = s.l1 := rfl
@[simp] theorem State.setCore_l2 (s : State) (core : Nat) (f : CoreSt → CoreSt) : (s.setCore core f).l2 = s.l2 := rfl
@[simp] theorem State.setCore_dir (s : State) (core : Nat) (f : CoreSt → CoreSt) : (s.setCore core f).dir = s.dir := rfl
@[simp] theorem State.setCore_homeWrites (s : State) (core : Nat) (f : CoreSt → CoreSt) : (s.setCore core f).homeWrites = s.homeWrites := rfl
@[simp] theorem State.setCore_tlb (s : State) (core : Nat) (f : CoreSt → CoreSt) : (s.setCore core f).tlb = s.tlb := rfl
@[simp] theorem State.setCore_ctlb (s : State) (core : Nat) (f : CoreSt → CoreSt) : (s.setCore core f).ctlb = s.ctlb := rfl
@[simp] theorem State.setCore_wcache (s : State) (core : Nat) (f : CoreSt → CoreSt) : (s.setCore core f).wcache = s.wcache := rfl
@[simp] theorem State.setCore_walks (s : State) (core : Nat) (f : CoreSt → CoreSt) : (s.setCore core f).walks = s.walks := rfl
@[simp] theorem State.setCore_lent (s : State) (core : Nat) (f : CoreSt → CoreSt) : (s.setCore core f).lent = s.lent := rfl
@[simp] theorem State.setCore_pfaults (s : State) (core : Nat) (f : CoreSt → CoreSt) : (s.setCore core f).pfaults = s.pfaults := rfl
@[simp] theorem State.setCore_invals (s : State) (core : Nat) (f : CoreSt → CoreSt) : (s.setCore core f).invals = s.invals := rfl
@[simp] theorem State.setCore_fields (s : State) (core : Nat) (f : CoreSt → CoreSt) : (s.setCore core f).fields = s.fields := rfl
@[simp] theorem State.setCore_xwrites (s : State) (core : Nat) (f : CoreSt → CoreSt) : (s.setCore core f).xwrites = s.xwrites := rfl
@[simp] theorem State.setCore_grpGens (s : State) (core : Nat) (f : CoreSt → CoreSt) : (s.setCore core f).grpGens = s.grpGens := rfl
@[simp] theorem State.setCore_launches (s : State) (core : Nat) (f : CoreSt → CoreSt) : (s.setCore core f).launches = s.launches := rfl
@[simp] theorem State.setCore_cohorts (s : State) (core : Nat) (f : CoreSt → CoreSt) : (s.setCore core f).cohorts = s.cohorts := rfl
@[simp] theorem State.setCore_units (s : State) (core : Nat) (f : CoreSt → CoreSt) : (s.setCore core f).units = s.units := rfl
@[simp] theorem State.setCore_consts (s : State) (core : Nat) (f : CoreSt → CoreSt) : (s.setCore core f).consts = s.consts := rfl
@[simp] theorem State.setCore_reports (s : State) (core : Nat) (f : CoreSt → CoreSt) : (s.setCore core f).reports = s.reports := rfl
@[simp] theorem State.setCore_ctxs (s : State) (core : Nat) (f : CoreSt → CoreSt) : (s.setCore core f).ctxs = s.ctxs := rfl
@[simp] theorem State.setCore_ops (s : State) (core : Nat) (f : CoreSt → CoreSt) : (s.setCore core f).ops = s.ops := rfl
@[simp] theorem State.setCore_grans (s : State) (core : Nat) (f : CoreSt → CoreSt) : (s.setCore core f).grans = s.grans := rfl
@[simp] theorem State.setCore_copies (s : State) (core : Nat) (f : CoreSt → CoreSt) : (s.setCore core f).copies = s.copies := rfl
@[simp] theorem State.setCore_doneCopies (s : State) (core : Nat) (f : CoreSt → CoreSt) : (s.setCore core f).doneCopies = s.doneCopies := rfl
@[simp] theorem State.setCore_publs (s : State) (core : Nat) (f : CoreSt → CoreSt) : (s.setCore core f).publs = s.publs := rfl
@[simp] theorem State.setCore_tasks (s : State) (core : Nat) (f : CoreSt → CoreSt) : (s.setCore core f).tasks = s.tasks := rfl
@[simp] theorem State.setCore_slots (s : State) (core : Nat) (f : CoreSt → CoreSt) : (s.setCore core f).slots = s.slots := rfl
@[simp] theorem State.setCore_banks (s : State) (core : Nat) (f : CoreSt → CoreSt) : (s.setCore core f).banks = s.banks := rfl
@[simp] theorem State.setCore_chains (s : State) (core : Nat) (f : CoreSt → CoreSt) : (s.setCore core f).chains = s.chains := rfl
@[simp] theorem State.setCore_taskFails (s : State) (core : Nat) (f : CoreSt → CoreSt) : (s.setCore core f).taskFails = s.taskFails := rfl
@[simp] theorem State.setCore_curReqs (s : State) (core : Nat) (f : CoreSt → CoreSt) : (s.setCore core f).curReqs = s.curReqs := rfl
@[simp] theorem State.setCore_groups (s : State) (core : Nat) (f : CoreSt → CoreSt) : (s.setCore core f).groups = s.groups := rfl
@[simp] theorem State.setCore_asu (s : State) (core : Nat) (f : CoreSt → CoreSt) : (s.setCore core f).asu = s.asu := rfl
@[simp] theorem State.setCore_barDl (s : State) (core : Nat) (f : CoreSt → CoreSt) : (s.setCore core f).barDl = s.barDl := rfl
@[simp] theorem State.setCore_faults (s : State) (core : Nat) (f : CoreSt → CoreSt) : (s.setCore core f).faults = s.faults := rfl
@[simp] theorem State.setCore_childFails (s : State) (core : Nat) (f : CoreSt → CoreSt) : (s.setCore core f).childFails = s.childFails := rfl
@[simp] theorem State.setCore_syscalls (s : State) (core : Nat) (f : CoreSt → CoreSt) : (s.setCore core f).syscalls = s.syscalls := rfl
@[simp] theorem State.setCore_irqs (s : State) (core : Nat) (f : CoreSt → CoreSt) : (s.setCore core f).irqs = s.irqs := rfl
@[simp] theorem State.setCore_edges (s : State) (core : Nat) (f : CoreSt → CoreSt) : (s.setCore core f).edges = s.edges := rfl
@[simp] theorem State.setCore_descs (s : State) (core : Nat) (f : CoreSt → CoreSt) : (s.setCore core f).descs = s.descs := rfl

@[simp] theorem State.setLaunch_clock (s : State) (n : Nat) (f : Launch → Launch) : (s.setLaunch n f).clock = s.clock := rfl
@[simp] theorem State.setLaunch_free (s : State) (n : Nat) (f : Launch → Launch) : (s.setLaunch n f).free = s.free := rfl
@[simp] theorem State.setLaunch_inputs (s : State) (n : Nat) (f : Launch → Launch) : (s.setLaunch n f).inputs = s.inputs := rfl
@[simp] theorem State.setLaunch_cur (s : State) (n : Nat) (f : Launch → Launch) : (s.setLaunch n f).cur = s.cur := rfl
@[simp] theorem State.setLaunch_nextId (s : State) (n : Nat) (f : Launch → Launch) : (s.setLaunch n f).nextId = s.nextId := rfl
@[simp] theorem State.setLaunch_resp (s : State) (n : Nat) (f : Launch → Launch) : (s.setLaunch n f).resp = s.resp := rfl
@[simp] theorem State.setLaunch_valid (s : State) (n : Nat) (f : Launch → Launch) : (s.setLaunch n f).valid = s.valid := rfl
@[simp] theorem State.setLaunch_part (s : State) (n : Nat) (f : Launch → Launch) : (s.setLaunch n f).part = s.part := rfl
@[simp] theorem State.setLaunch_bring (s : State) (n : Nat) (f : Launch → Launch) : (s.setLaunch n f).bring = s.bring := rfl
@[simp] theorem State.setLaunch_fwErr (s : State) (n : Nat) (f : Launch → Launch) : (s.setLaunch n f).fwErr = s.fwErr := rfl
@[simp] theorem State.setLaunch_fwStep (s : State) (n : Nat) (f : Launch → Launch) : (s.setLaunch n f).fwStep = s.fwStep := rfl
@[simp] theorem State.setLaunch_fwBusy (s : State) (n : Nat) (f : Launch → Launch) : (s.setLaunch n f).fwBusy = s.fwBusy := rfl
@[simp] theorem State.setLaunch_measure (s : State) (n : Nat) (f : Launch → Launch) : (s.setLaunch n f).measure = s.measure := rfl
@[simp] theorem State.setLaunch_measured (s : State) (n : Nat) (f : Launch → Launch) : (s.setLaunch n f).measured = s.measured := rfl
@[simp] theorem State.setLaunch_regs (s : State) (n : Nat) (f : Launch → Launch) : (s.setLaunch n f).regs = s.regs := rfl
@[simp] theorem State.setLaunch_portH (s : State) (n : Nat) (f : Launch → Launch) : (s.setLaunch n f).portH = s.portH := rfl
@[simp] theorem State.setLaunch_slices (s : State) (n : Nat) (f : Launch → Launch) : (s.setLaunch n f).slices = s.slices := rfl
@[simp] theorem State.setLaunch_mem (s : State) (n : Nat) (f : Launch → Launch) : (s.setLaunch n f).mem = s.mem := rfl
@[simp] theorem State.setLaunch_poison (s : State) (n : Nat) (f : Launch → Launch) : (s.setLaunch n f).poison = s.poison := rfl
@[simp] theorem State.setLaunch_ecc (s : State) (n : Nat) (f : Launch → Launch) : (s.setLaunch n f).ecc = s.ecc := rfl
@[simp] theorem State.setLaunch_l2err (s : State) (n : Nat) (f : Launch → Launch) : (s.setLaunch n f).l2err = s.l2err := rfl
@[simp] theorem State.setLaunch_oldCode (s : State) (n : Nat) (f : Launch → Launch) : (s.setLaunch n f).oldCode = s.oldCode := rfl
@[simp] theorem State.setLaunch_host (s : State) (n : Nat) (f : Launch → Launch) : (s.setLaunch n f).host = s.host := rfl
@[simp] theorem State.setLaunch_window (s : State) (n : Nat) (f : Launch → Launch) : (s.setLaunch n f).window = s.window := rfl
@[simp] theorem State.setLaunch_shelf (s : State) (n : Nat) (f : Launch → Launch) : (s.setLaunch n f).shelf = s.shelf := rfl
@[simp] theorem State.setLaunch_shelfPoison (s : State) (n : Nat) (f : Launch → Launch) : (s.setLaunch n f).shelfPoison = s.shelfPoison := rfl
@[simp] theorem State.setLaunch_l1 (s : State) (n : Nat) (f : Launch → Launch) : (s.setLaunch n f).l1 = s.l1 := rfl
@[simp] theorem State.setLaunch_l2 (s : State) (n : Nat) (f : Launch → Launch) : (s.setLaunch n f).l2 = s.l2 := rfl
@[simp] theorem State.setLaunch_dir (s : State) (n : Nat) (f : Launch → Launch) : (s.setLaunch n f).dir = s.dir := rfl
@[simp] theorem State.setLaunch_homeWrites (s : State) (n : Nat) (f : Launch → Launch) : (s.setLaunch n f).homeWrites = s.homeWrites := rfl
@[simp] theorem State.setLaunch_tlb (s : State) (n : Nat) (f : Launch → Launch) : (s.setLaunch n f).tlb = s.tlb := rfl
@[simp] theorem State.setLaunch_ctlb (s : State) (n : Nat) (f : Launch → Launch) : (s.setLaunch n f).ctlb = s.ctlb := rfl
@[simp] theorem State.setLaunch_wcache (s : State) (n : Nat) (f : Launch → Launch) : (s.setLaunch n f).wcache = s.wcache := rfl
@[simp] theorem State.setLaunch_walks (s : State) (n : Nat) (f : Launch → Launch) : (s.setLaunch n f).walks = s.walks := rfl
@[simp] theorem State.setLaunch_lent (s : State) (n : Nat) (f : Launch → Launch) : (s.setLaunch n f).lent = s.lent := rfl
@[simp] theorem State.setLaunch_pfaults (s : State) (n : Nat) (f : Launch → Launch) : (s.setLaunch n f).pfaults = s.pfaults := rfl
@[simp] theorem State.setLaunch_invals (s : State) (n : Nat) (f : Launch → Launch) : (s.setLaunch n f).invals = s.invals := rfl
@[simp] theorem State.setLaunch_fields (s : State) (n : Nat) (f : Launch → Launch) : (s.setLaunch n f).fields = s.fields := rfl
@[simp] theorem State.setLaunch_xwrites (s : State) (n : Nat) (f : Launch → Launch) : (s.setLaunch n f).xwrites = s.xwrites := rfl
@[simp] theorem State.setLaunch_cores (s : State) (n : Nat) (f : Launch → Launch) : (s.setLaunch n f).cores = s.cores := rfl
@[simp] theorem State.setLaunch_grpGens (s : State) (n : Nat) (f : Launch → Launch) : (s.setLaunch n f).grpGens = s.grpGens := rfl
@[simp] theorem State.setLaunch_cohorts (s : State) (n : Nat) (f : Launch → Launch) : (s.setLaunch n f).cohorts = s.cohorts := rfl
@[simp] theorem State.setLaunch_units (s : State) (n : Nat) (f : Launch → Launch) : (s.setLaunch n f).units = s.units := rfl
@[simp] theorem State.setLaunch_consts (s : State) (n : Nat) (f : Launch → Launch) : (s.setLaunch n f).consts = s.consts := rfl
@[simp] theorem State.setLaunch_reports (s : State) (n : Nat) (f : Launch → Launch) : (s.setLaunch n f).reports = s.reports := rfl
@[simp] theorem State.setLaunch_ctxs (s : State) (n : Nat) (f : Launch → Launch) : (s.setLaunch n f).ctxs = s.ctxs := rfl
@[simp] theorem State.setLaunch_ops (s : State) (n : Nat) (f : Launch → Launch) : (s.setLaunch n f).ops = s.ops := rfl
@[simp] theorem State.setLaunch_grans (s : State) (n : Nat) (f : Launch → Launch) : (s.setLaunch n f).grans = s.grans := rfl
@[simp] theorem State.setLaunch_copies (s : State) (n : Nat) (f : Launch → Launch) : (s.setLaunch n f).copies = s.copies := rfl
@[simp] theorem State.setLaunch_doneCopies (s : State) (n : Nat) (f : Launch → Launch) : (s.setLaunch n f).doneCopies = s.doneCopies := rfl
@[simp] theorem State.setLaunch_publs (s : State) (n : Nat) (f : Launch → Launch) : (s.setLaunch n f).publs = s.publs := rfl
@[simp] theorem State.setLaunch_tasks (s : State) (n : Nat) (f : Launch → Launch) : (s.setLaunch n f).tasks = s.tasks := rfl
@[simp] theorem State.setLaunch_slots (s : State) (n : Nat) (f : Launch → Launch) : (s.setLaunch n f).slots = s.slots := rfl
@[simp] theorem State.setLaunch_banks (s : State) (n : Nat) (f : Launch → Launch) : (s.setLaunch n f).banks = s.banks := rfl
@[simp] theorem State.setLaunch_chains (s : State) (n : Nat) (f : Launch → Launch) : (s.setLaunch n f).chains = s.chains := rfl
@[simp] theorem State.setLaunch_taskFails (s : State) (n : Nat) (f : Launch → Launch) : (s.setLaunch n f).taskFails = s.taskFails := rfl
@[simp] theorem State.setLaunch_curReqs (s : State) (n : Nat) (f : Launch → Launch) : (s.setLaunch n f).curReqs = s.curReqs := rfl
@[simp] theorem State.setLaunch_groups (s : State) (n : Nat) (f : Launch → Launch) : (s.setLaunch n f).groups = s.groups := rfl
@[simp] theorem State.setLaunch_asu (s : State) (n : Nat) (f : Launch → Launch) : (s.setLaunch n f).asu = s.asu := rfl
@[simp] theorem State.setLaunch_barDl (s : State) (n : Nat) (f : Launch → Launch) : (s.setLaunch n f).barDl = s.barDl := rfl
@[simp] theorem State.setLaunch_faults (s : State) (n : Nat) (f : Launch → Launch) : (s.setLaunch n f).faults = s.faults := rfl
@[simp] theorem State.setLaunch_childFails (s : State) (n : Nat) (f : Launch → Launch) : (s.setLaunch n f).childFails = s.childFails := rfl
@[simp] theorem State.setLaunch_syscalls (s : State) (n : Nat) (f : Launch → Launch) : (s.setLaunch n f).syscalls = s.syscalls := rfl
@[simp] theorem State.setLaunch_irqs (s : State) (n : Nat) (f : Launch → Launch) : (s.setLaunch n f).irqs = s.irqs := rfl
@[simp] theorem State.setLaunch_edges (s : State) (n : Nat) (f : Launch → Launch) : (s.setLaunch n f).edges = s.edges := rfl
@[simp] theorem State.setLaunch_descs (s : State) (n : Nat) (f : Launch → Launch) : (s.setLaunch n f).descs = s.descs := rfl

@[simp] theorem State.setCohort_clock (s : State) (l n : Nat) (f : Cohort → Cohort) : (s.setCohort l n f).clock = s.clock := rfl
@[simp] theorem State.setCohort_free (s : State) (l n : Nat) (f : Cohort → Cohort) : (s.setCohort l n f).free = s.free := rfl
@[simp] theorem State.setCohort_inputs (s : State) (l n : Nat) (f : Cohort → Cohort) : (s.setCohort l n f).inputs = s.inputs := rfl
@[simp] theorem State.setCohort_cur (s : State) (l n : Nat) (f : Cohort → Cohort) : (s.setCohort l n f).cur = s.cur := rfl
@[simp] theorem State.setCohort_nextId (s : State) (l n : Nat) (f : Cohort → Cohort) : (s.setCohort l n f).nextId = s.nextId := rfl
@[simp] theorem State.setCohort_resp (s : State) (l n : Nat) (f : Cohort → Cohort) : (s.setCohort l n f).resp = s.resp := rfl
@[simp] theorem State.setCohort_valid (s : State) (l n : Nat) (f : Cohort → Cohort) : (s.setCohort l n f).valid = s.valid := rfl
@[simp] theorem State.setCohort_part (s : State) (l n : Nat) (f : Cohort → Cohort) : (s.setCohort l n f).part = s.part := rfl
@[simp] theorem State.setCohort_bring (s : State) (l n : Nat) (f : Cohort → Cohort) : (s.setCohort l n f).bring = s.bring := rfl
@[simp] theorem State.setCohort_fwErr (s : State) (l n : Nat) (f : Cohort → Cohort) : (s.setCohort l n f).fwErr = s.fwErr := rfl
@[simp] theorem State.setCohort_fwStep (s : State) (l n : Nat) (f : Cohort → Cohort) : (s.setCohort l n f).fwStep = s.fwStep := rfl
@[simp] theorem State.setCohort_fwBusy (s : State) (l n : Nat) (f : Cohort → Cohort) : (s.setCohort l n f).fwBusy = s.fwBusy := rfl
@[simp] theorem State.setCohort_measure (s : State) (l n : Nat) (f : Cohort → Cohort) : (s.setCohort l n f).measure = s.measure := rfl
@[simp] theorem State.setCohort_measured (s : State) (l n : Nat) (f : Cohort → Cohort) : (s.setCohort l n f).measured = s.measured := rfl
@[simp] theorem State.setCohort_regs (s : State) (l n : Nat) (f : Cohort → Cohort) : (s.setCohort l n f).regs = s.regs := rfl
@[simp] theorem State.setCohort_portH (s : State) (l n : Nat) (f : Cohort → Cohort) : (s.setCohort l n f).portH = s.portH := rfl
@[simp] theorem State.setCohort_slices (s : State) (l n : Nat) (f : Cohort → Cohort) : (s.setCohort l n f).slices = s.slices := rfl
@[simp] theorem State.setCohort_mem (s : State) (l n : Nat) (f : Cohort → Cohort) : (s.setCohort l n f).mem = s.mem := rfl
@[simp] theorem State.setCohort_poison (s : State) (l n : Nat) (f : Cohort → Cohort) : (s.setCohort l n f).poison = s.poison := rfl
@[simp] theorem State.setCohort_ecc (s : State) (l n : Nat) (f : Cohort → Cohort) : (s.setCohort l n f).ecc = s.ecc := rfl
@[simp] theorem State.setCohort_l2err (s : State) (l n : Nat) (f : Cohort → Cohort) : (s.setCohort l n f).l2err = s.l2err := rfl
@[simp] theorem State.setCohort_oldCode (s : State) (l n : Nat) (f : Cohort → Cohort) : (s.setCohort l n f).oldCode = s.oldCode := rfl
@[simp] theorem State.setCohort_host (s : State) (l n : Nat) (f : Cohort → Cohort) : (s.setCohort l n f).host = s.host := rfl
@[simp] theorem State.setCohort_window (s : State) (l n : Nat) (f : Cohort → Cohort) : (s.setCohort l n f).window = s.window := rfl
@[simp] theorem State.setCohort_shelf (s : State) (l n : Nat) (f : Cohort → Cohort) : (s.setCohort l n f).shelf = s.shelf := rfl
@[simp] theorem State.setCohort_shelfPoison (s : State) (l n : Nat) (f : Cohort → Cohort) : (s.setCohort l n f).shelfPoison = s.shelfPoison := rfl
@[simp] theorem State.setCohort_l1 (s : State) (l n : Nat) (f : Cohort → Cohort) : (s.setCohort l n f).l1 = s.l1 := rfl
@[simp] theorem State.setCohort_l2 (s : State) (l n : Nat) (f : Cohort → Cohort) : (s.setCohort l n f).l2 = s.l2 := rfl
@[simp] theorem State.setCohort_dir (s : State) (l n : Nat) (f : Cohort → Cohort) : (s.setCohort l n f).dir = s.dir := rfl
@[simp] theorem State.setCohort_homeWrites (s : State) (l n : Nat) (f : Cohort → Cohort) : (s.setCohort l n f).homeWrites = s.homeWrites := rfl
@[simp] theorem State.setCohort_tlb (s : State) (l n : Nat) (f : Cohort → Cohort) : (s.setCohort l n f).tlb = s.tlb := rfl
@[simp] theorem State.setCohort_ctlb (s : State) (l n : Nat) (f : Cohort → Cohort) : (s.setCohort l n f).ctlb = s.ctlb := rfl
@[simp] theorem State.setCohort_wcache (s : State) (l n : Nat) (f : Cohort → Cohort) : (s.setCohort l n f).wcache = s.wcache := rfl
@[simp] theorem State.setCohort_walks (s : State) (l n : Nat) (f : Cohort → Cohort) : (s.setCohort l n f).walks = s.walks := rfl
@[simp] theorem State.setCohort_lent (s : State) (l n : Nat) (f : Cohort → Cohort) : (s.setCohort l n f).lent = s.lent := rfl
@[simp] theorem State.setCohort_pfaults (s : State) (l n : Nat) (f : Cohort → Cohort) : (s.setCohort l n f).pfaults = s.pfaults := rfl
@[simp] theorem State.setCohort_invals (s : State) (l n : Nat) (f : Cohort → Cohort) : (s.setCohort l n f).invals = s.invals := rfl
@[simp] theorem State.setCohort_fields (s : State) (l n : Nat) (f : Cohort → Cohort) : (s.setCohort l n f).fields = s.fields := rfl
@[simp] theorem State.setCohort_xwrites (s : State) (l n : Nat) (f : Cohort → Cohort) : (s.setCohort l n f).xwrites = s.xwrites := rfl
@[simp] theorem State.setCohort_cores (s : State) (l n : Nat) (f : Cohort → Cohort) : (s.setCohort l n f).cores = s.cores := rfl
@[simp] theorem State.setCohort_grpGens (s : State) (l n : Nat) (f : Cohort → Cohort) : (s.setCohort l n f).grpGens = s.grpGens := rfl
@[simp] theorem State.setCohort_launches (s : State) (l n : Nat) (f : Cohort → Cohort) : (s.setCohort l n f).launches = s.launches := rfl
@[simp] theorem State.setCohort_units (s : State) (l n : Nat) (f : Cohort → Cohort) : (s.setCohort l n f).units = s.units := rfl
@[simp] theorem State.setCohort_consts (s : State) (l n : Nat) (f : Cohort → Cohort) : (s.setCohort l n f).consts = s.consts := rfl
@[simp] theorem State.setCohort_reports (s : State) (l n : Nat) (f : Cohort → Cohort) : (s.setCohort l n f).reports = s.reports := rfl
@[simp] theorem State.setCohort_ctxs (s : State) (l n : Nat) (f : Cohort → Cohort) : (s.setCohort l n f).ctxs = s.ctxs := rfl
@[simp] theorem State.setCohort_ops (s : State) (l n : Nat) (f : Cohort → Cohort) : (s.setCohort l n f).ops = s.ops := rfl
@[simp] theorem State.setCohort_grans (s : State) (l n : Nat) (f : Cohort → Cohort) : (s.setCohort l n f).grans = s.grans := rfl
@[simp] theorem State.setCohort_copies (s : State) (l n : Nat) (f : Cohort → Cohort) : (s.setCohort l n f).copies = s.copies := rfl
@[simp] theorem State.setCohort_doneCopies (s : State) (l n : Nat) (f : Cohort → Cohort) : (s.setCohort l n f).doneCopies = s.doneCopies := rfl
@[simp] theorem State.setCohort_publs (s : State) (l n : Nat) (f : Cohort → Cohort) : (s.setCohort l n f).publs = s.publs := rfl
@[simp] theorem State.setCohort_tasks (s : State) (l n : Nat) (f : Cohort → Cohort) : (s.setCohort l n f).tasks = s.tasks := rfl
@[simp] theorem State.setCohort_slots (s : State) (l n : Nat) (f : Cohort → Cohort) : (s.setCohort l n f).slots = s.slots := rfl
@[simp] theorem State.setCohort_banks (s : State) (l n : Nat) (f : Cohort → Cohort) : (s.setCohort l n f).banks = s.banks := rfl
@[simp] theorem State.setCohort_chains (s : State) (l n : Nat) (f : Cohort → Cohort) : (s.setCohort l n f).chains = s.chains := rfl
@[simp] theorem State.setCohort_taskFails (s : State) (l n : Nat) (f : Cohort → Cohort) : (s.setCohort l n f).taskFails = s.taskFails := rfl
@[simp] theorem State.setCohort_curReqs (s : State) (l n : Nat) (f : Cohort → Cohort) : (s.setCohort l n f).curReqs = s.curReqs := rfl
@[simp] theorem State.setCohort_groups (s : State) (l n : Nat) (f : Cohort → Cohort) : (s.setCohort l n f).groups = s.groups := rfl
@[simp] theorem State.setCohort_asu (s : State) (l n : Nat) (f : Cohort → Cohort) : (s.setCohort l n f).asu = s.asu := rfl
@[simp] theorem State.setCohort_barDl (s : State) (l n : Nat) (f : Cohort → Cohort) : (s.setCohort l n f).barDl = s.barDl := rfl
@[simp] theorem State.setCohort_faults (s : State) (l n : Nat) (f : Cohort → Cohort) : (s.setCohort l n f).faults = s.faults := rfl
@[simp] theorem State.setCohort_childFails (s : State) (l n : Nat) (f : Cohort → Cohort) : (s.setCohort l n f).childFails = s.childFails := rfl
@[simp] theorem State.setCohort_syscalls (s : State) (l n : Nat) (f : Cohort → Cohort) : (s.setCohort l n f).syscalls = s.syscalls := rfl
@[simp] theorem State.setCohort_irqs (s : State) (l n : Nat) (f : Cohort → Cohort) : (s.setCohort l n f).irqs = s.irqs := rfl
@[simp] theorem State.setCohort_edges (s : State) (l n : Nat) (f : Cohort → Cohort) : (s.setCohort l n f).edges = s.edges := rfl
@[simp] theorem State.setCohort_descs (s : State) (l n : Nat) (f : Cohort → Cohort) : (s.setCohort l n f).descs = s.descs := rfl

@[simp] theorem State.setCtx_clock (s : State) (c : Ctx) : (s.setCtx c).clock = s.clock := rfl
@[simp] theorem State.setCtx_free (s : State) (c : Ctx) : (s.setCtx c).free = s.free := rfl
@[simp] theorem State.setCtx_inputs (s : State) (c : Ctx) : (s.setCtx c).inputs = s.inputs := rfl
@[simp] theorem State.setCtx_cur (s : State) (c : Ctx) : (s.setCtx c).cur = s.cur := rfl
@[simp] theorem State.setCtx_nextId (s : State) (c : Ctx) : (s.setCtx c).nextId = s.nextId := rfl
@[simp] theorem State.setCtx_resp (s : State) (c : Ctx) : (s.setCtx c).resp = s.resp := rfl
@[simp] theorem State.setCtx_valid (s : State) (c : Ctx) : (s.setCtx c).valid = s.valid := rfl
@[simp] theorem State.setCtx_part (s : State) (c : Ctx) : (s.setCtx c).part = s.part := rfl
@[simp] theorem State.setCtx_bring (s : State) (c : Ctx) : (s.setCtx c).bring = s.bring := rfl
@[simp] theorem State.setCtx_fwErr (s : State) (c : Ctx) : (s.setCtx c).fwErr = s.fwErr := rfl
@[simp] theorem State.setCtx_fwStep (s : State) (c : Ctx) : (s.setCtx c).fwStep = s.fwStep := rfl
@[simp] theorem State.setCtx_fwBusy (s : State) (c : Ctx) : (s.setCtx c).fwBusy = s.fwBusy := rfl
@[simp] theorem State.setCtx_measure (s : State) (c : Ctx) : (s.setCtx c).measure = s.measure := rfl
@[simp] theorem State.setCtx_measured (s : State) (c : Ctx) : (s.setCtx c).measured = s.measured := rfl
@[simp] theorem State.setCtx_regs (s : State) (c : Ctx) : (s.setCtx c).regs = s.regs := rfl
@[simp] theorem State.setCtx_portH (s : State) (c : Ctx) : (s.setCtx c).portH = s.portH := rfl
@[simp] theorem State.setCtx_slices (s : State) (c : Ctx) : (s.setCtx c).slices = s.slices := rfl
@[simp] theorem State.setCtx_mem (s : State) (c : Ctx) : (s.setCtx c).mem = s.mem := rfl
@[simp] theorem State.setCtx_poison (s : State) (c : Ctx) : (s.setCtx c).poison = s.poison := rfl
@[simp] theorem State.setCtx_ecc (s : State) (c : Ctx) : (s.setCtx c).ecc = s.ecc := rfl
@[simp] theorem State.setCtx_l2err (s : State) (c : Ctx) : (s.setCtx c).l2err = s.l2err := rfl
@[simp] theorem State.setCtx_oldCode (s : State) (c : Ctx) : (s.setCtx c).oldCode = s.oldCode := rfl
@[simp] theorem State.setCtx_host (s : State) (c : Ctx) : (s.setCtx c).host = s.host := rfl
@[simp] theorem State.setCtx_window (s : State) (c : Ctx) : (s.setCtx c).window = s.window := rfl
@[simp] theorem State.setCtx_shelf (s : State) (c : Ctx) : (s.setCtx c).shelf = s.shelf := rfl
@[simp] theorem State.setCtx_shelfPoison (s : State) (c : Ctx) : (s.setCtx c).shelfPoison = s.shelfPoison := rfl
@[simp] theorem State.setCtx_l1 (s : State) (c : Ctx) : (s.setCtx c).l1 = s.l1 := rfl
@[simp] theorem State.setCtx_l2 (s : State) (c : Ctx) : (s.setCtx c).l2 = s.l2 := rfl
@[simp] theorem State.setCtx_dir (s : State) (c : Ctx) : (s.setCtx c).dir = s.dir := rfl
@[simp] theorem State.setCtx_homeWrites (s : State) (c : Ctx) : (s.setCtx c).homeWrites = s.homeWrites := rfl
@[simp] theorem State.setCtx_tlb (s : State) (c : Ctx) : (s.setCtx c).tlb = s.tlb := rfl
@[simp] theorem State.setCtx_ctlb (s : State) (c : Ctx) : (s.setCtx c).ctlb = s.ctlb := rfl
@[simp] theorem State.setCtx_wcache (s : State) (c : Ctx) : (s.setCtx c).wcache = s.wcache := rfl
@[simp] theorem State.setCtx_walks (s : State) (c : Ctx) : (s.setCtx c).walks = s.walks := rfl
@[simp] theorem State.setCtx_lent (s : State) (c : Ctx) : (s.setCtx c).lent = s.lent := rfl
@[simp] theorem State.setCtx_pfaults (s : State) (c : Ctx) : (s.setCtx c).pfaults = s.pfaults := rfl
@[simp] theorem State.setCtx_invals (s : State) (c : Ctx) : (s.setCtx c).invals = s.invals := rfl
@[simp] theorem State.setCtx_fields (s : State) (c : Ctx) : (s.setCtx c).fields = s.fields := rfl
@[simp] theorem State.setCtx_xwrites (s : State) (c : Ctx) : (s.setCtx c).xwrites = s.xwrites := rfl
@[simp] theorem State.setCtx_cores (s : State) (c : Ctx) : (s.setCtx c).cores = s.cores := rfl
@[simp] theorem State.setCtx_grpGens (s : State) (c : Ctx) : (s.setCtx c).grpGens = s.grpGens := rfl
@[simp] theorem State.setCtx_launches (s : State) (c : Ctx) : (s.setCtx c).launches = s.launches := rfl
@[simp] theorem State.setCtx_cohorts (s : State) (c : Ctx) : (s.setCtx c).cohorts = s.cohorts := rfl
@[simp] theorem State.setCtx_units (s : State) (c : Ctx) : (s.setCtx c).units = s.units := rfl
@[simp] theorem State.setCtx_consts (s : State) (c : Ctx) : (s.setCtx c).consts = s.consts := rfl
@[simp] theorem State.setCtx_reports (s : State) (c : Ctx) : (s.setCtx c).reports = s.reports := rfl
@[simp] theorem State.setCtx_ops (s : State) (c : Ctx) : (s.setCtx c).ops = s.ops := rfl
@[simp] theorem State.setCtx_grans (s : State) (c : Ctx) : (s.setCtx c).grans = s.grans := rfl
@[simp] theorem State.setCtx_copies (s : State) (c : Ctx) : (s.setCtx c).copies = s.copies := rfl
@[simp] theorem State.setCtx_doneCopies (s : State) (c : Ctx) : (s.setCtx c).doneCopies = s.doneCopies := rfl
@[simp] theorem State.setCtx_publs (s : State) (c : Ctx) : (s.setCtx c).publs = s.publs := rfl
@[simp] theorem State.setCtx_tasks (s : State) (c : Ctx) : (s.setCtx c).tasks = s.tasks := rfl
@[simp] theorem State.setCtx_slots (s : State) (c : Ctx) : (s.setCtx c).slots = s.slots := rfl
@[simp] theorem State.setCtx_banks (s : State) (c : Ctx) : (s.setCtx c).banks = s.banks := rfl
@[simp] theorem State.setCtx_chains (s : State) (c : Ctx) : (s.setCtx c).chains = s.chains := rfl
@[simp] theorem State.setCtx_taskFails (s : State) (c : Ctx) : (s.setCtx c).taskFails = s.taskFails := rfl
@[simp] theorem State.setCtx_curReqs (s : State) (c : Ctx) : (s.setCtx c).curReqs = s.curReqs := rfl
@[simp] theorem State.setCtx_groups (s : State) (c : Ctx) : (s.setCtx c).groups = s.groups := rfl
@[simp] theorem State.setCtx_asu (s : State) (c : Ctx) : (s.setCtx c).asu = s.asu := rfl
@[simp] theorem State.setCtx_barDl (s : State) (c : Ctx) : (s.setCtx c).barDl = s.barDl := rfl
@[simp] theorem State.setCtx_faults (s : State) (c : Ctx) : (s.setCtx c).faults = s.faults := rfl
@[simp] theorem State.setCtx_childFails (s : State) (c : Ctx) : (s.setCtx c).childFails = s.childFails := rfl
@[simp] theorem State.setCtx_syscalls (s : State) (c : Ctx) : (s.setCtx c).syscalls = s.syscalls := rfl
@[simp] theorem State.setCtx_irqs (s : State) (c : Ctx) : (s.setCtx c).irqs = s.irqs := rfl
@[simp] theorem State.setCtx_edges (s : State) (c : Ctx) : (s.setCtx c).edges = s.edges := rfl
@[simp] theorem State.setCtx_descs (s : State) (c : Ctx) : (s.setCtx c).descs = s.descs := rfl

@[simp] theorem State.modCtx_clock (s : State) (id : Nat) (f : Ctx → Ctx) : (s.modCtx id f).clock = s.clock := rfl
@[simp] theorem State.modCtx_free (s : State) (id : Nat) (f : Ctx → Ctx) : (s.modCtx id f).free = s.free := rfl
@[simp] theorem State.modCtx_inputs (s : State) (id : Nat) (f : Ctx → Ctx) : (s.modCtx id f).inputs = s.inputs := rfl
@[simp] theorem State.modCtx_cur (s : State) (id : Nat) (f : Ctx → Ctx) : (s.modCtx id f).cur = s.cur := rfl
@[simp] theorem State.modCtx_nextId (s : State) (id : Nat) (f : Ctx → Ctx) : (s.modCtx id f).nextId = s.nextId := rfl
@[simp] theorem State.modCtx_resp (s : State) (id : Nat) (f : Ctx → Ctx) : (s.modCtx id f).resp = s.resp := rfl
@[simp] theorem State.modCtx_valid (s : State) (id : Nat) (f : Ctx → Ctx) : (s.modCtx id f).valid = s.valid := rfl
@[simp] theorem State.modCtx_part (s : State) (id : Nat) (f : Ctx → Ctx) : (s.modCtx id f).part = s.part := rfl
@[simp] theorem State.modCtx_bring (s : State) (id : Nat) (f : Ctx → Ctx) : (s.modCtx id f).bring = s.bring := rfl
@[simp] theorem State.modCtx_fwErr (s : State) (id : Nat) (f : Ctx → Ctx) : (s.modCtx id f).fwErr = s.fwErr := rfl
@[simp] theorem State.modCtx_fwStep (s : State) (id : Nat) (f : Ctx → Ctx) : (s.modCtx id f).fwStep = s.fwStep := rfl
@[simp] theorem State.modCtx_fwBusy (s : State) (id : Nat) (f : Ctx → Ctx) : (s.modCtx id f).fwBusy = s.fwBusy := rfl
@[simp] theorem State.modCtx_measure (s : State) (id : Nat) (f : Ctx → Ctx) : (s.modCtx id f).measure = s.measure := rfl
@[simp] theorem State.modCtx_measured (s : State) (id : Nat) (f : Ctx → Ctx) : (s.modCtx id f).measured = s.measured := rfl
@[simp] theorem State.modCtx_regs (s : State) (id : Nat) (f : Ctx → Ctx) : (s.modCtx id f).regs = s.regs := rfl
@[simp] theorem State.modCtx_portH (s : State) (id : Nat) (f : Ctx → Ctx) : (s.modCtx id f).portH = s.portH := rfl
@[simp] theorem State.modCtx_slices (s : State) (id : Nat) (f : Ctx → Ctx) : (s.modCtx id f).slices = s.slices := rfl
@[simp] theorem State.modCtx_mem (s : State) (id : Nat) (f : Ctx → Ctx) : (s.modCtx id f).mem = s.mem := rfl
@[simp] theorem State.modCtx_poison (s : State) (id : Nat) (f : Ctx → Ctx) : (s.modCtx id f).poison = s.poison := rfl
@[simp] theorem State.modCtx_ecc (s : State) (id : Nat) (f : Ctx → Ctx) : (s.modCtx id f).ecc = s.ecc := rfl
@[simp] theorem State.modCtx_l2err (s : State) (id : Nat) (f : Ctx → Ctx) : (s.modCtx id f).l2err = s.l2err := rfl
@[simp] theorem State.modCtx_oldCode (s : State) (id : Nat) (f : Ctx → Ctx) : (s.modCtx id f).oldCode = s.oldCode := rfl
@[simp] theorem State.modCtx_host (s : State) (id : Nat) (f : Ctx → Ctx) : (s.modCtx id f).host = s.host := rfl
@[simp] theorem State.modCtx_window (s : State) (id : Nat) (f : Ctx → Ctx) : (s.modCtx id f).window = s.window := rfl
@[simp] theorem State.modCtx_shelf (s : State) (id : Nat) (f : Ctx → Ctx) : (s.modCtx id f).shelf = s.shelf := rfl
@[simp] theorem State.modCtx_shelfPoison (s : State) (id : Nat) (f : Ctx → Ctx) : (s.modCtx id f).shelfPoison = s.shelfPoison := rfl
@[simp] theorem State.modCtx_l1 (s : State) (id : Nat) (f : Ctx → Ctx) : (s.modCtx id f).l1 = s.l1 := rfl
@[simp] theorem State.modCtx_l2 (s : State) (id : Nat) (f : Ctx → Ctx) : (s.modCtx id f).l2 = s.l2 := rfl
@[simp] theorem State.modCtx_dir (s : State) (id : Nat) (f : Ctx → Ctx) : (s.modCtx id f).dir = s.dir := rfl
@[simp] theorem State.modCtx_homeWrites (s : State) (id : Nat) (f : Ctx → Ctx) : (s.modCtx id f).homeWrites = s.homeWrites := rfl
@[simp] theorem State.modCtx_tlb (s : State) (id : Nat) (f : Ctx → Ctx) : (s.modCtx id f).tlb = s.tlb := rfl
@[simp] theorem State.modCtx_ctlb (s : State) (id : Nat) (f : Ctx → Ctx) : (s.modCtx id f).ctlb = s.ctlb := rfl
@[simp] theorem State.modCtx_wcache (s : State) (id : Nat) (f : Ctx → Ctx) : (s.modCtx id f).wcache = s.wcache := rfl
@[simp] theorem State.modCtx_walks (s : State) (id : Nat) (f : Ctx → Ctx) : (s.modCtx id f).walks = s.walks := rfl
@[simp] theorem State.modCtx_lent (s : State) (id : Nat) (f : Ctx → Ctx) : (s.modCtx id f).lent = s.lent := rfl
@[simp] theorem State.modCtx_pfaults (s : State) (id : Nat) (f : Ctx → Ctx) : (s.modCtx id f).pfaults = s.pfaults := rfl
@[simp] theorem State.modCtx_invals (s : State) (id : Nat) (f : Ctx → Ctx) : (s.modCtx id f).invals = s.invals := rfl
@[simp] theorem State.modCtx_fields (s : State) (id : Nat) (f : Ctx → Ctx) : (s.modCtx id f).fields = s.fields := rfl
@[simp] theorem State.modCtx_xwrites (s : State) (id : Nat) (f : Ctx → Ctx) : (s.modCtx id f).xwrites = s.xwrites := rfl
@[simp] theorem State.modCtx_cores (s : State) (id : Nat) (f : Ctx → Ctx) : (s.modCtx id f).cores = s.cores := rfl
@[simp] theorem State.modCtx_grpGens (s : State) (id : Nat) (f : Ctx → Ctx) : (s.modCtx id f).grpGens = s.grpGens := rfl
@[simp] theorem State.modCtx_launches (s : State) (id : Nat) (f : Ctx → Ctx) : (s.modCtx id f).launches = s.launches := rfl
@[simp] theorem State.modCtx_cohorts (s : State) (id : Nat) (f : Ctx → Ctx) : (s.modCtx id f).cohorts = s.cohorts := rfl
@[simp] theorem State.modCtx_units (s : State) (id : Nat) (f : Ctx → Ctx) : (s.modCtx id f).units = s.units := rfl
@[simp] theorem State.modCtx_consts (s : State) (id : Nat) (f : Ctx → Ctx) : (s.modCtx id f).consts = s.consts := rfl
@[simp] theorem State.modCtx_reports (s : State) (id : Nat) (f : Ctx → Ctx) : (s.modCtx id f).reports = s.reports := rfl
@[simp] theorem State.modCtx_ops (s : State) (id : Nat) (f : Ctx → Ctx) : (s.modCtx id f).ops = s.ops := rfl
@[simp] theorem State.modCtx_grans (s : State) (id : Nat) (f : Ctx → Ctx) : (s.modCtx id f).grans = s.grans := rfl
@[simp] theorem State.modCtx_copies (s : State) (id : Nat) (f : Ctx → Ctx) : (s.modCtx id f).copies = s.copies := rfl
@[simp] theorem State.modCtx_doneCopies (s : State) (id : Nat) (f : Ctx → Ctx) : (s.modCtx id f).doneCopies = s.doneCopies := rfl
@[simp] theorem State.modCtx_publs (s : State) (id : Nat) (f : Ctx → Ctx) : (s.modCtx id f).publs = s.publs := rfl
@[simp] theorem State.modCtx_tasks (s : State) (id : Nat) (f : Ctx → Ctx) : (s.modCtx id f).tasks = s.tasks := rfl
@[simp] theorem State.modCtx_slots (s : State) (id : Nat) (f : Ctx → Ctx) : (s.modCtx id f).slots = s.slots := rfl
@[simp] theorem State.modCtx_banks (s : State) (id : Nat) (f : Ctx → Ctx) : (s.modCtx id f).banks = s.banks := rfl
@[simp] theorem State.modCtx_chains (s : State) (id : Nat) (f : Ctx → Ctx) : (s.modCtx id f).chains = s.chains := rfl
@[simp] theorem State.modCtx_taskFails (s : State) (id : Nat) (f : Ctx → Ctx) : (s.modCtx id f).taskFails = s.taskFails := rfl
@[simp] theorem State.modCtx_curReqs (s : State) (id : Nat) (f : Ctx → Ctx) : (s.modCtx id f).curReqs = s.curReqs := rfl
@[simp] theorem State.modCtx_groups (s : State) (id : Nat) (f : Ctx → Ctx) : (s.modCtx id f).groups = s.groups := rfl
@[simp] theorem State.modCtx_asu (s : State) (id : Nat) (f : Ctx → Ctx) : (s.modCtx id f).asu = s.asu := rfl
@[simp] theorem State.modCtx_barDl (s : State) (id : Nat) (f : Ctx → Ctx) : (s.modCtx id f).barDl = s.barDl := rfl
@[simp] theorem State.modCtx_faults (s : State) (id : Nat) (f : Ctx → Ctx) : (s.modCtx id f).faults = s.faults := rfl
@[simp] theorem State.modCtx_childFails (s : State) (id : Nat) (f : Ctx → Ctx) : (s.modCtx id f).childFails = s.childFails := rfl
@[simp] theorem State.modCtx_syscalls (s : State) (id : Nat) (f : Ctx → Ctx) : (s.modCtx id f).syscalls = s.syscalls := rfl
@[simp] theorem State.modCtx_irqs (s : State) (id : Nat) (f : Ctx → Ctx) : (s.modCtx id f).irqs = s.irqs := rfl
@[simp] theorem State.modCtx_edges (s : State) (id : Nat) (f : Ctx → Ctx) : (s.modCtx id f).edges = s.edges := rfl
@[simp] theorem State.modCtx_descs (s : State) (id : Nat) (f : Ctx → Ctx) : (s.modCtx id f).descs = s.descs := rfl

@[simp] theorem State.pass_inputs (s : State) : s.pass.inputs = s.inputs := rfl
@[simp] theorem State.pass_cur (s : State) : s.pass.cur = s.cur := rfl
@[simp] theorem State.pass_nextId (s : State) : s.pass.nextId = s.nextId := rfl
@[simp] theorem State.pass_resp (s : State) : s.pass.resp = s.resp := rfl
@[simp] theorem State.pass_valid (s : State) : s.pass.valid = s.valid := rfl
@[simp] theorem State.pass_part (s : State) : s.pass.part = s.part := rfl
@[simp] theorem State.pass_bring (s : State) : s.pass.bring = s.bring := rfl
@[simp] theorem State.pass_fwErr (s : State) : s.pass.fwErr = s.fwErr := rfl
@[simp] theorem State.pass_fwStep (s : State) : s.pass.fwStep = s.fwStep := rfl
@[simp] theorem State.pass_fwBusy (s : State) : s.pass.fwBusy = s.fwBusy := rfl
@[simp] theorem State.pass_measure (s : State) : s.pass.measure = s.measure := rfl
@[simp] theorem State.pass_measured (s : State) : s.pass.measured = s.measured := rfl
@[simp] theorem State.pass_regs (s : State) : s.pass.regs = s.regs := rfl
@[simp] theorem State.pass_portH (s : State) : s.pass.portH = s.portH := rfl
@[simp] theorem State.pass_slices (s : State) : s.pass.slices = s.slices := rfl
@[simp] theorem State.pass_mem (s : State) : s.pass.mem = s.mem := rfl
@[simp] theorem State.pass_poison (s : State) : s.pass.poison = s.poison := rfl
@[simp] theorem State.pass_oldCode (s : State) : s.pass.oldCode = s.oldCode := rfl
@[simp] theorem State.pass_host (s : State) : s.pass.host = s.host := rfl
@[simp] theorem State.pass_window (s : State) : s.pass.window = s.window := rfl
@[simp] theorem State.pass_shelf (s : State) : s.pass.shelf = s.shelf := rfl
@[simp] theorem State.pass_l1 (s : State) : s.pass.l1 = s.l1 := rfl
@[simp] theorem State.pass_l2 (s : State) : s.pass.l2 = s.l2 := rfl
@[simp] theorem State.pass_dir (s : State) : s.pass.dir = s.dir := rfl
@[simp] theorem State.pass_homeWrites (s : State) : s.pass.homeWrites = s.homeWrites := rfl
@[simp] theorem State.pass_tlb (s : State) : s.pass.tlb = s.tlb := rfl
@[simp] theorem State.pass_ctlb (s : State) : s.pass.ctlb = s.ctlb := rfl
@[simp] theorem State.pass_wcache (s : State) : s.pass.wcache = s.wcache := rfl
@[simp] theorem State.pass_walks (s : State) : s.pass.walks = s.walks := rfl
@[simp] theorem State.pass_lent (s : State) : s.pass.lent = s.lent := rfl
@[simp] theorem State.pass_pfaults (s : State) : s.pass.pfaults = s.pfaults := rfl
@[simp] theorem State.pass_invals (s : State) : s.pass.invals = s.invals := rfl
@[simp] theorem State.pass_fields (s : State) : s.pass.fields = s.fields := rfl
@[simp] theorem State.pass_xwrites (s : State) : s.pass.xwrites = s.xwrites := rfl
@[simp] theorem State.pass_cores (s : State) : s.pass.cores = s.cores := rfl
@[simp] theorem State.pass_grpGens (s : State) : s.pass.grpGens = s.grpGens := rfl
@[simp] theorem State.pass_launches (s : State) : s.pass.launches = s.launches := rfl
@[simp] theorem State.pass_cohorts (s : State) : s.pass.cohorts = s.cohorts := rfl
@[simp] theorem State.pass_units (s : State) : s.pass.units = s.units := rfl
@[simp] theorem State.pass_consts (s : State) : s.pass.consts = s.consts := rfl
@[simp] theorem State.pass_reports (s : State) : s.pass.reports = s.reports := rfl
@[simp] theorem State.pass_ctxs (s : State) : s.pass.ctxs = s.ctxs := rfl
@[simp] theorem State.pass_ops (s : State) : s.pass.ops = s.ops := rfl
@[simp] theorem State.pass_grans (s : State) : s.pass.grans = s.grans := rfl
@[simp] theorem State.pass_copies (s : State) : s.pass.copies = s.copies := rfl
@[simp] theorem State.pass_doneCopies (s : State) : s.pass.doneCopies = s.doneCopies := rfl
@[simp] theorem State.pass_publs (s : State) : s.pass.publs = s.publs := rfl
@[simp] theorem State.pass_tasks (s : State) : s.pass.tasks = s.tasks := rfl
@[simp] theorem State.pass_slots (s : State) : s.pass.slots = s.slots := rfl
@[simp] theorem State.pass_banks (s : State) : s.pass.banks = s.banks := rfl
@[simp] theorem State.pass_chains (s : State) : s.pass.chains = s.chains := rfl
@[simp] theorem State.pass_taskFails (s : State) : s.pass.taskFails = s.taskFails := rfl
@[simp] theorem State.pass_curReqs (s : State) : s.pass.curReqs = s.curReqs := rfl
@[simp] theorem State.pass_groups (s : State) : s.pass.groups = s.groups := rfl
@[simp] theorem State.pass_asu (s : State) : s.pass.asu = s.asu := rfl
@[simp] theorem State.pass_barDl (s : State) : s.pass.barDl = s.barDl := rfl
@[simp] theorem State.pass_faults (s : State) : s.pass.faults = s.faults := rfl
@[simp] theorem State.pass_childFails (s : State) : s.pass.childFails = s.childFails := rfl
@[simp] theorem State.pass_syscalls (s : State) : s.pass.syscalls = s.syscalls := rfl
@[simp] theorem State.pass_irqs (s : State) : s.pass.irqs = s.irqs := rfl
@[simp] theorem State.pass_edges (s : State) : s.pass.edges = s.edges := rfl
@[simp] theorem State.pass_descs (s : State) : s.pass.descs = s.descs := rfl

@[simp] theorem State.fresh_clock (s : State) : s.fresh.2.clock = s.clock := rfl
@[simp] theorem State.fresh_free (s : State) : s.fresh.2.free = s.free := rfl
@[simp] theorem State.fresh_inputs (s : State) : s.fresh.2.inputs = s.inputs := rfl
@[simp] theorem State.fresh_cur (s : State) : s.fresh.2.cur = s.cur := rfl
@[simp] theorem State.fresh_resp (s : State) : s.fresh.2.resp = s.resp := rfl
@[simp] theorem State.fresh_valid (s : State) : s.fresh.2.valid = s.valid := rfl
@[simp] theorem State.fresh_part (s : State) : s.fresh.2.part = s.part := rfl
@[simp] theorem State.fresh_bring (s : State) : s.fresh.2.bring = s.bring := rfl
@[simp] theorem State.fresh_fwErr (s : State) : s.fresh.2.fwErr = s.fwErr := rfl
@[simp] theorem State.fresh_fwStep (s : State) : s.fresh.2.fwStep = s.fwStep := rfl
@[simp] theorem State.fresh_fwBusy (s : State) : s.fresh.2.fwBusy = s.fwBusy := rfl
@[simp] theorem State.fresh_measure (s : State) : s.fresh.2.measure = s.measure := rfl
@[simp] theorem State.fresh_measured (s : State) : s.fresh.2.measured = s.measured := rfl
@[simp] theorem State.fresh_regs (s : State) : s.fresh.2.regs = s.regs := rfl
@[simp] theorem State.fresh_portH (s : State) : s.fresh.2.portH = s.portH := rfl
@[simp] theorem State.fresh_slices (s : State) : s.fresh.2.slices = s.slices := rfl
@[simp] theorem State.fresh_mem (s : State) : s.fresh.2.mem = s.mem := rfl
@[simp] theorem State.fresh_poison (s : State) : s.fresh.2.poison = s.poison := rfl
@[simp] theorem State.fresh_ecc (s : State) : s.fresh.2.ecc = s.ecc := rfl
@[simp] theorem State.fresh_l2err (s : State) : s.fresh.2.l2err = s.l2err := rfl
@[simp] theorem State.fresh_oldCode (s : State) : s.fresh.2.oldCode = s.oldCode := rfl
@[simp] theorem State.fresh_host (s : State) : s.fresh.2.host = s.host := rfl
@[simp] theorem State.fresh_window (s : State) : s.fresh.2.window = s.window := rfl
@[simp] theorem State.fresh_shelf (s : State) : s.fresh.2.shelf = s.shelf := rfl
@[simp] theorem State.fresh_shelfPoison (s : State) : s.fresh.2.shelfPoison = s.shelfPoison := rfl
@[simp] theorem State.fresh_l1 (s : State) : s.fresh.2.l1 = s.l1 := rfl
@[simp] theorem State.fresh_l2 (s : State) : s.fresh.2.l2 = s.l2 := rfl
@[simp] theorem State.fresh_dir (s : State) : s.fresh.2.dir = s.dir := rfl
@[simp] theorem State.fresh_homeWrites (s : State) : s.fresh.2.homeWrites = s.homeWrites := rfl
@[simp] theorem State.fresh_tlb (s : State) : s.fresh.2.tlb = s.tlb := rfl
@[simp] theorem State.fresh_ctlb (s : State) : s.fresh.2.ctlb = s.ctlb := rfl
@[simp] theorem State.fresh_wcache (s : State) : s.fresh.2.wcache = s.wcache := rfl
@[simp] theorem State.fresh_walks (s : State) : s.fresh.2.walks = s.walks := rfl
@[simp] theorem State.fresh_lent (s : State) : s.fresh.2.lent = s.lent := rfl
@[simp] theorem State.fresh_pfaults (s : State) : s.fresh.2.pfaults = s.pfaults := rfl
@[simp] theorem State.fresh_invals (s : State) : s.fresh.2.invals = s.invals := rfl
@[simp] theorem State.fresh_fields (s : State) : s.fresh.2.fields = s.fields := rfl
@[simp] theorem State.fresh_xwrites (s : State) : s.fresh.2.xwrites = s.xwrites := rfl
@[simp] theorem State.fresh_cores (s : State) : s.fresh.2.cores = s.cores := rfl
@[simp] theorem State.fresh_grpGens (s : State) : s.fresh.2.grpGens = s.grpGens := rfl
@[simp] theorem State.fresh_launches (s : State) : s.fresh.2.launches = s.launches := rfl
@[simp] theorem State.fresh_cohorts (s : State) : s.fresh.2.cohorts = s.cohorts := rfl
@[simp] theorem State.fresh_units (s : State) : s.fresh.2.units = s.units := rfl
@[simp] theorem State.fresh_consts (s : State) : s.fresh.2.consts = s.consts := rfl
@[simp] theorem State.fresh_reports (s : State) : s.fresh.2.reports = s.reports := rfl
@[simp] theorem State.fresh_ctxs (s : State) : s.fresh.2.ctxs = s.ctxs := rfl
@[simp] theorem State.fresh_ops (s : State) : s.fresh.2.ops = s.ops := rfl
@[simp] theorem State.fresh_grans (s : State) : s.fresh.2.grans = s.grans := rfl
@[simp] theorem State.fresh_copies (s : State) : s.fresh.2.copies = s.copies := rfl
@[simp] theorem State.fresh_doneCopies (s : State) : s.fresh.2.doneCopies = s.doneCopies := rfl
@[simp] theorem State.fresh_publs (s : State) : s.fresh.2.publs = s.publs := rfl
@[simp] theorem State.fresh_tasks (s : State) : s.fresh.2.tasks = s.tasks := rfl
@[simp] theorem State.fresh_slots (s : State) : s.fresh.2.slots = s.slots := rfl
@[simp] theorem State.fresh_banks (s : State) : s.fresh.2.banks = s.banks := rfl
@[simp] theorem State.fresh_chains (s : State) : s.fresh.2.chains = s.chains := rfl
@[simp] theorem State.fresh_taskFails (s : State) : s.fresh.2.taskFails = s.taskFails := rfl
@[simp] theorem State.fresh_curReqs (s : State) : s.fresh.2.curReqs = s.curReqs := rfl
@[simp] theorem State.fresh_groups (s : State) : s.fresh.2.groups = s.groups := rfl
@[simp] theorem State.fresh_asu (s : State) : s.fresh.2.asu = s.asu := rfl
@[simp] theorem State.fresh_barDl (s : State) : s.fresh.2.barDl = s.barDl := rfl
@[simp] theorem State.fresh_faults (s : State) : s.fresh.2.faults = s.faults := rfl
@[simp] theorem State.fresh_childFails (s : State) : s.fresh.2.childFails = s.childFails := rfl
@[simp] theorem State.fresh_syscalls (s : State) : s.fresh.2.syscalls = s.syscalls := rfl
@[simp] theorem State.fresh_irqs (s : State) : s.fresh.2.irqs = s.irqs := rfl
@[simp] theorem State.fresh_edges (s : State) : s.fresh.2.edges = s.edges := rfl
@[simp] theorem State.fresh_descs (s : State) : s.fresh.2.descs = s.descs := rfl
@[simp] theorem State.fresh_num (s : State) : s.fresh.1 = s.nextId := rfl
@[simp] theorem State.fresh_nextId (s : State) : s.fresh.2.nextId = s.nextId + 1 := rfl
@[simp] theorem State.draw_free (s : State) : s.draw.free = s.free + 1 := rfl

end Sys2Proof.Machine
end

