-- ==== Sys2Proof/Tests/Slice0.lean ====
section
/-! SUPPORT. Small tests: words decode to what they stand for, ill-formed terms are refused, single steps give the values of
the spec's own examples or of hand calculation, and every hypothesis of a statement is met by a state. -/

namespace Sys2Proof.Tests

open Sys2Proof.Machine Sys2Proof.Claims

set_option Elab.async false

/-- An extended instruction's fields from GUARD, MOD, D, A, B, C and word2 (R34), with NEG and every last-read mark 0 and no literal. -/
def word (guard : BitVec 7) (mod : BitVec 9) (d a b c : BitVec 8) (imm : Word) : Ext :=
  { guard := guard, neg := false, alr := false, blr := false, clr := false, mod := mod, d := d, a := a, b := b, c := c, imm := imm,
    lit := none }

/-- Words decode to the instructions they stand for, whole. -/
def decodes (l : List (List Word × Instr)) : Bool := l.all fun p => (decodeWords p.1).toOption == some (p.2, p.1.length)

/-- Words written out from the layouts of R29, R33. -/
theorem test_base_integer_words_decode : decodes [
    ([0x01060408], .iaddBase { d := 3, a := 1, alr := false, b := 2, blr := false, bk := false }),
    ([0x02080A0E], .isubBase { d := 4, a := 2, alr := true, b := 3, blr := true, bk := false }),
    ([0x030A0C11], .imulBase { d := 5, a := 3, alr := false, b := 4, blr := false, bk := true }),
    ([0x040C1214], .imulhBase { d := 6, a := 4, alr := true, b := 5, blr := false, bk := false }),
    ([0x050E141A], .iminBase { d := 7, a := 5, alr := false, b := 6, blr := true, bk := false }),
    ([0x06101A1D], .imaxBase { d := 8, a := 6, alr := true, b := 7, blr := false, bk := true }),
    ([0x07121C20], .andBase { d := 9, a := 7, alr := false, b := 8, blr := false, bk := false }),
    ([0x08142226], .orBase { d := 10, a := 8, alr := true, b := 9, blr := true, bk := false }),
    ([0x09162429], .xorBase { d := 11, a := 9, alr := false, b := 10, blr := false, bk := true }),
    ([0x0A182A2C], .andnBase { d := 12, a := 10, alr := true, b := 11, blr := false, bk := false }),
    ([0x0B1A2C32], .shlBase { d := 13, a := 11, alr := false, b := 12, blr := true, bk := false }),
    ([0x0C1C3235], .shrBase { d := 14, a := 12, alr := true, b := 13, blr := false, bk := true }),
    ([0x0D1E3438], .sarBase { d := 15, a := 13, alr := false, b := 14, blr := false, bk := false }),
    ([0x0E203A3E], .rolBase { d := 16, a := 14, alr := true, b := 15, blr := true, bk := false }),
    ([0x0F223C41], .lea1Base { d := 17, a := 15, alr := false, b := 16, blr := false, bk := true }),
    ([0x10244244], .lea2Base { d := 18, a := 16, alr := true, b := 17, blr := false, bk := false }),
    ([0x1126444A], .lea3Base { d := 19, a := 17, alr := false, b := 18, blr := true, bk := false })] = true := by decide +kernel

/-- Words written out from the layouts of R31, R33. -/
theorem test_base_integer_literal_words_decode : decodes [
    ([0x41FF03FD, 0x80000000], .iaddBaseLit { d := 127, a := 64, alr := true, lit := 0x80000000 }),
    ([0x42FD05FD, 0x81010101], .isubBaseLit { d := 126, a := 65, alr := false, lit := 0x81010101 }),
    ([0x43FB0BFD, 0x82020202], .imulBaseLit { d := 125, a := 66, alr := true, lit := 0x82020202 }),
    ([0x44F90DFD, 0x83030303], .imulhBaseLit { d := 124, a := 67, alr := false, lit := 0x83030303 }),
    ([0x45F713FD, 0x84040404], .iminBaseLit { d := 123, a := 68, alr := true, lit := 0x84040404 }),
    ([0x46F515FD, 0x85050505], .imaxBaseLit { d := 122, a := 69, alr := false, lit := 0x85050505 }),
    ([0x47F31BFD, 0x86060606], .andBaseLit { d := 121, a := 70, alr := true, lit := 0x86060606 }),
    ([0x48F11DFD, 0x87070707], .orBaseLit { d := 120, a := 71, alr := false, lit := 0x87070707 }),
    ([0x49EF23FD, 0x88080808], .xorBaseLit { d := 119, a := 72, alr := true, lit := 0x88080808 }),
    ([0x4AED25FD, 0x89090909], .andnBaseLit { d := 118, a := 73, alr := false, lit := 0x89090909 }),
    ([0x4BEB2BFD, 0x8A0A0A0A], .shlBaseLit { d := 117, a := 74, alr := true, lit := 0x8A0A0A0A }),
    ([0x4CE92DFD, 0x8B0B0B0B], .shrBaseLit { d := 116, a := 75, alr := false, lit := 0x8B0B0B0B }),
    ([0x4DE733FD, 0x8C0C0C0C], .sarBaseLit { d := 115, a := 76, alr := true, lit := 0x8C0C0C0C }),
    ([0x4EE535FD, 0x8D0D0D0D], .rolBaseLit { d := 114, a := 77, alr := false, lit := 0x8D0D0D0D }),
    ([0x4FE33BFD, 0x8E0E0E0E], .lea1BaseLit { d := 113, a := 78, alr := true, lit := 0x8E0E0E0E }),
    ([0x50E13DFD, 0x8F0F0F0F], .lea2BaseLit { d := 112, a := 79, alr := false, lit := 0x8F0F0F0F }),
    ([0x51DF43FD, 0x90101010], .lea3BaseLit { d := 111, a := 80, alr := true, lit := 0x90101010 })] = true := by decide +kernel

/-- Words written out from the layouts of R29, R31, R33. -/
theorem test_base_float_words_decode : decodes [
    ([0x12C8C800], .faddBase { d := 100, a := 50, alr := false, b := 0, blr := false, bk := false }),
    ([0x520005FD, 0x3F800000], .faddBaseLit { d := 0, a := 1, alr := false, lit := 0x3F800000 }),
    ([0x13C6CC05], .fmulBase { d := 99, a := 51, alr := false, b := 1, blr := false, bk := true }),
    ([0x53020BFD, 0x3F800001], .fmulBaseLit { d := 1, a := 2, alr := true, lit := 0x3F800001 }),
    ([0x14C4D208], .ffmaDmBase { d := 98, a := 52, alr := true, b := 2, blr := false, bk := false }),
    ([0x54040DFD, 0x3F800002], .ffmaDmBaseLit { d := 2, a := 3, alr := false, lit := 0x3F800002 }),
    ([0x15C2D60D], .ffmaAccBase { d := 97, a := 53, alr := true, b := 3, blr := false, bk := true }),
    ([0x550613FD, 0x3F800003], .ffmaAccBaseLit { d := 3, a := 4, alr := true, lit := 0x3F800003 }),
    ([0x16C0D810], .fminBase { d := 96, a := 54, alr := false, b := 4, blr := false, bk := false }),
    ([0x560815FD, 0x3F800004], .fminBaseLit { d := 4, a := 5, alr := false, lit := 0x3F800004 }),
    ([0x17BEDC15], .fmaxBase { d := 95, a := 55, alr := false, b := 5, blr := false, bk := true }),
    ([0x570A1BFD, 0x3F800005], .fmaxBaseLit { d := 5, a := 6, alr := true, lit := 0x3F800005 }),
    ([0x18BCE218], .padd16Base { d := 94, a := 56, alr := true, b := 6, blr := false, bk := false }),
    ([0x580C1DFD, 0x3F800006], .padd16BaseLit { d := 6, a := 7, alr := false, lit := 0x3F800006 }),
    ([0x19BAE61D], .pmul16Base { d := 93, a := 57, alr := true, b := 7, blr := false, bk := true }),
    ([0x590E23FD, 0x3F800007], .pmul16BaseLit { d := 7, a := 8, alr := true, lit := 0x3F800007 }),
    ([0x1AB8E820], .pfma16AccBase { d := 92, a := 58, alr := false, b := 8, blr := false, bk := false }),
    ([0x5A1025FD, 0x3F800008], .pfma16AccBaseLit { d := 8, a := 9, alr := false, lit := 0x3F800008 })] = true := by decide +kernel

/-- Words written out from the layouts of R30 to R33. -/
theorem test_base_moves_memory_and_f20_words_decode : decodes [
    ([0x1B140168], .movBase { d := 10, b := 90, blr := false, bk := false }),
    ([0x5B0001FD, 0xFFFFFFFF], .movBaseLit { d := 0, lit := 0xFFFFFFFF }),
    ([0x1C16016E], .popcBase { d := 11, b := 91, blr := true, bk := false }),
    ([0x5C0201FD, 0xFFFFFFFE], .popcBaseLit { d := 1, lit := 0xFFFFFFFE }),
    ([0x1D180170], .clzBase { d := 12, b := 92, blr := false, bk := false }),
    ([0x5D0401FD, 0xFFFFFFFD], .clzBaseLit { d := 2, lit := 0xFFFFFFFD }),
    ([0x1E1A0176], .brevBase { d := 13, b := 93, blr := true, bk := false }),
    ([0x5E0601FD, 0xFFFFFFFC], .brevBaseLit { d := 3, lit := 0xFFFFFFFC }),
    ([0x1F1C0178], .notBase { d := 14, b := 94, blr := false, bk := false }),
    ([0x5F0801FD, 0xFFFFFFFB], .notBaseLit { d := 4, lit := 0xFFFFFFFB }),
    ([0x200A181E], .ldB32Base { d := 5, a := 6, alr := false, b := 7, blr := true, bk := false }),
    ([0x6050A5FD, 0xFFFFFFFC], .ldB32BaseLit { d := 40, a := 41, alr := false, lit := 0xFFFFFFFC }),
    ([0x210C1E20], .stB32Base { d := 6, a := 7, alr := true, b := 8, blr := false, bk := false }),
    ([0x6152A9FD, 0xFFFFFFFC], .stB32BaseLit { d := 41, a := 42, alr := false, lit := 0xFFFFFFFC }),
    ([0x220E2026], .ldqB32Base { d := 7, a := 8, alr := false, b := 9, blr := true, bk := false }),
    ([0x6254ADFD, 0xFFFFFFFC], .ldqB32BaseLit { d := 42, a := 43, alr := false, lit := 0xFFFFFFFC }),
    ([0x30FFFFFF], .faddI { d := 15, imm := 0xFFFFF }),
    ([0x31EEEEEE], .fmulI { d := 14, imm := 0xEEEEE }),
    ([0x32DDDDDD], .fminI { d := 13, imm := 0xDDDDD }),
    ([0x33CCCCCC], .fmaxI { d := 12, imm := 0xCCCCC }),
    ([0x34BBBBBB], .fmovI { d := 11, imm := 0xBBBBB })] = true := by decide +kernel

/-- Words written out from the layouts of R34, R44, R198 to R213. -/
theorem test_path_instructions_decode : decodes [
    ([0x8000B000, 0xFFFFFFFF, 0xFFFFFFFC], .bra { word 5 0 0xFF 0xFF 0xFF 0xFF 0xFFFFFFFC with neg := true }),
    ([0x801FE9FF, 0xFF83FFFF, 0x00000040], .brx { word 127 511 0xFF 0x83 0xFF 0xFF 0x40 with alr := true }),
    ([0x802FE000, 0x8AFFFFFF, 0x00000100], .call (word 127 0 0x8A 0xFF 0xFF 0xFF 0x100)),
    ([0x803FE800, 0xFF07FFFF, 0x00000000], .ret { word 127 0 0xFF 0x07 0xFF 0xFF 0x0 with alr := true }),
    ([0x804BE000, 0xFFFFFFFF, 0x00000000], .exit (word 95 0 0xFF 0xFF 0xFF 0xFF 0x0)),
    ([0x805FE000, 0xFFFFFFFF, 0x00000000], .join (word 127 0 0xFF 0xFF 0xFF 0xFF 0x0)),
    ([0x806FE000, 0xFFFFFFFF, 0x00000000], .yield (word 127 0 0xFF 0xFF 0xFF 0xFF 0x0)),
    ([0x807FE000, 0xFFFFFFFF, 0x00000FFF], .wait (word 127 0 0xFF 0xFF 0xFF 0xFF 0xFFF)),
    ([0x807FE001, 0xFFFFFFFF, 0x00100000], .wait (word 127 1 0xFF 0xFF 0xFF 0xFF 0x100000)),
    ([0x80801000, 0xFFFFFFFF, 0x00000000], .nop { word 0 0 0xFF 0xFF 0xFF 0xFF 0x0 with neg := true }),
    ([0x809FE000, 0xFFFFFFFF, 0x00000000], .mat (word 127 0 0xFF 0xFF 0xFF 0xFF 0x0)),
    ([0x80AFE001, 0xC05FFFFF, 0x00000000], .formq (word 127 1 0xC0 0x5F 0xFF 0xFF 0x0)),
    ([0x80AFE000, 0x80BFFFFF, 0x00000000], .formq (word 127 0 0x80 0xBF 0xFF 0xFF 0x0))] = true := by decide +kernel

/-- Words written out from the layouts of R34, R44, R163 to R180. -/
theorem test_move_instructions_decode : decodes [
    ([0xC40FE001, 0x04F1FFFF, 0x00000000, 0x9ABCDEF0, 0x12345678], .mov { word 127 1 0x04 0xF1 0xFF 0xFF 0x0 with lit := some 0x123456789ABCDEF0 }),
    ([0x841FE001, 0x82C0FFFF, 0x000003FF], .movk (word 127 1 0x82 0xC0 0xFF 0xFF 0x3FF)),
    ([0x842FE801, 0x0102F05F, 0x00000007], .sel { word 127 1 0x01 0x02 0xF0 0x5F 0x7 with alr := true }),
    ([0x843FE018, 0x05FFFFFF, 0x00000000], .rds (word 127 24 0x05 0xFF 0xFF 0xFF 0x0)),
    ([0x844FE014, 0xFFF0FFFF, 0x0000001F], .wrs (word 127 20 0xFF 0xF0 0xFF 0xFF 0x1F)),
    ([0x845FE00E, 0x7F007FFF, 0x00000000], .pcomb (word 127 14 0x7F 0x00 0x7F 0xFF 0x0)),
    ([0x846FE004, 0x10FFFFFF, 0x00000000], .pmov (word 127 4 0x10 0xFF 0xFF 0xFF 0x0)),
    ([0x846FE005, 0xFF11FFFF, 0x80000001], .pmov (word 127 5 0xFF 0x11 0xFF 0xFF 0x80000001)),
    ([0x847FE005, 0x305FFFFF, 0x00000000], .vote (word 127 5 0x30 0x5F 0xFF 0xFF 0x0)),
    ([0x847FE003, 0x827FFFFF, 0x00000000], .vote (word 127 3 0x82 0x7F 0xFF 0xFF 0x0)),
    ([0x848FE01A, 0x0102F0FF, 0x00000003], .sxch (word 127 26 0x01 0x02 0xF0 0xFF 0x3)),
    ([0x849FE00A, 0x8002FFFF, 0x00000000], .sred (word 127 10 0x80 0x02 0xFF 0xFF 0x0))] = true := by decide +kernel

/-- Words written out from the layouts of R34, R44, R247 to R260. -/
theorem test_integer_instructions_decode : decodes [
    ([0x880FE801, 0x0300F0FF, 0xDEADBEEF], .iadd { word 127 1 0x03 0x00 0xF0 0xFF 0xDEADBEEF with alr := true }),
    ([0x881BF401, 0xC0E07FFF, 0x000003FF], .isub { word 95 1 0xC0 0xE0 0x7F 0xFF 0x3FF with neg := true, blr := true }),
    ([0x88200400, 0x83C0BFFF, 0x00000000], .imul { word 0 0 0x83 0xC0 0xBF 0xFF 0x0 with blr := true }),
    ([0x883FF001, 0x0381C0FF, 0x00000000], .imulh { word 127 1 0x03 0x81 0xC0 0xFF 0x0 with neg := true }),
    ([0x885BE801, 0xC000F0FF, 0xDEADBEEF], .imin { word 95 1 0xC0 0x00 0xF0 0xFF 0xDEADBEEF with alr := true }),
    ([0x88601400, 0x83E07FFF, 0x000003FF], .imax { word 0 0 0x83 0xE0 0x7F 0xFF 0x3FF with neg := true, blr := true }),
    ([0x889FE400, 0x03C0BFFF, 0x00000000], .and { word 127 0 0x03 0xC0 0xBF 0xFF 0x0 with blr := true }),
    ([0x88ABF000, 0xC081C0FF, 0x00000000], .or { word 95 0 0xC0 0x81 0xC0 0xFF 0x0 with neg := true }),
    ([0x88B00800, 0x8300F0FF, 0xDEADBEEF], .xor { word 0 0 0x83 0x00 0xF0 0xFF 0xDEADBEEF with alr := true }),
    ([0x88DFF400, 0x03E07FFF, 0x000003FF], .andn { word 127 0 0x03 0xE0 0x7F 0xFF 0x3FF with neg := true, blr := true }),
    ([0x88EBE400, 0xC0C0BFFF, 0x00000000], .shl { word 95 0 0xC0 0xC0 0xBF 0xFF 0x0 with blr := true }),
    ([0x88F01000, 0x8381C0FF, 0x00000000], .shr { word 0 0 0x83 0x81 0xC0 0xFF 0x0 with neg := true }),
    ([0x890FE800, 0x0300F0FF, 0xDEADBEEF], .sar { word 127 0 0x03 0x00 0xF0 0xFF 0xDEADBEEF with alr := true }),
    ([0x891BF400, 0xC0E07FFF, 0x000003FF], .rol { word 95 0 0xC0 0xE0 0x7F 0xFF 0x3FF with neg := true, blr := true }),
    ([0x89500401, 0x83C0BFFF, 0x00000000], .bfe { word 0 1 0x83 0xC0 0xBF 0xFF 0x0 with blr := true }),
    ([0x898FF01F, 0x0381C0FF, 0x00000000], .lea { word 127 31 0x03 0x81 0xC0 0xFF 0x0 with neg := true }),
    ([0x887FE001, 0x007FFFFF, 0x00000000], .iabs (word 127 1 0x00 0x7F 0xFF 0xFF 0x0)),
    ([0xC88FE001, 0x01F1FFFF, 0x00000000, 0xFFFF0001, 0x00000000], .ineg { word 127 1 0x01 0xF1 0xFF 0xFF 0x0 with lit := some 0xFFFF0001 }),
    ([0x88CFE000, 0x027FFFFF, 0x00000000], .not (word 127 0 0x02 0x7F 0xFF 0xFF 0x0)),
    ([0xC92FE000, 0x03F1FFFF, 0x00000000, 0xFFFF0003, 0x00000000], .popc { word 127 0 0x03 0xF1 0xFF 0xFF 0x0 with lit := some 0xFFFF0003 }),
    ([0x893FE000, 0x047FFFFF, 0x00000000], .clz (word 127 0 0x04 0x7F 0xFF 0xFF 0x0)),
    ([0xC94FE000, 0x05F1FFFF, 0x00000000, 0xFFFF0005, 0x00000000], .brev { word 127 0 0x05 0xF1 0xFF 0xFF 0x0 with lit := some 0xFFFF0005 }),
    ([0x884FE200, 0x090102BF, 0x00000000], .imad { word 127 0 0x09 0x01 0x02 0xBF 0x0 with clr := true }),
    ([0x896FEA00, 0x090203BF, 0x00000000], .bfi { word 127 0 0x09 0x02 0x03 0xBF 0x0 with alr := true, clr := true }),
    ([0x897FE200, 0x090304BF, 0x00000000], .bperm { word 127 0 0x09 0x03 0x04 0xBF 0x0 with clr := true }),
    ([0x89AFEA03, 0x090405BF, 0x00000000], .idp4 { word 127 3 0x09 0x04 0x05 0xBF 0x0 with alr := true, clr := true }),
    ([0x899FE00D, 0x7F02F0FF, 0x00000005], .icmp (word 127 13 0x7F 0x02 0xF0 0xFF 0x5)),
    ([0x89BFE001, 0x0284F0FF, 0xFFFFFFFF], .iadd64 (word 127 1 0x02 0x84 0xF0 0xFF 0xFFFFFFFF)),
    ([0x89CFE001, 0x800103E0, 0x000003FE], .imad64 (word 127 1 0x80 0x01 0x03 0xE0 0x3FE))] = true := by decide +kernel

/-- Words written out from the layouts of R34, R44, R261 to R283. -/
theorem test_float_instructions_decode : decodes [
    ([0x8C00707F, 0x010203FF, 0x00000000], .fadd { word 3 127 0x01 0x02 0x03 0xFF 0x0 with neg := true }),
    ([0x8C1FE07C, 0x0102F0FF, 0x3F800000], .fmul (word 127 124 0x01 0x02 0xF0 0xFF 0x3F800000)),
    ([0x8C2FEFFF, 0x01020304, 0x00000000], .ffma { word 127 511 0x01 0x02 0x03 0x04 0x0 with alr := true, blr := true, clr := true }),
    ([0x8C3FE07C, 0x010203FF, 0x00000000], .fmin (word 127 124 0x01 0x02 0x03 0xFF 0x0)),
    ([0x8C4FE004, 0x010203FF, 0x00000000], .fmax (word 127 4 0x01 0x02 0x03 0xFF 0x0)),
    ([0x8C5FE1FD, 0x5F0203FF, 0x00000000], .fcmp (word 127 509 0x5F 0x02 0x03 0xFF 0x0)),
    ([0x8C6FE01F, 0x0102FFFF, 0x00000000], .frnd (word 127 31 0x01 0x02 0xFF 0xFF 0x0)),
    ([0x8C7FE003, 0x0102FFFF, 0x00000000], .frcp (word 127 3 0x01 0x02 0xFF 0xFF 0x0)),
    ([0x8C8FE01C, 0x0102FFFF, 0x00000000], .frsq (word 127 28 0x01 0x02 0xFF 0xFF 0x0)),
    ([0x8C9FE002, 0x0102FFFF, 0x00000000], .fsqrt (word 127 2 0x01 0x02 0xFF 0xFF 0x0)),
    ([0x8CAFE014, 0x0102FFFF, 0x00000000], .fex2 (word 127 20 0x01 0x02 0xFF 0xFF 0x0)),
    ([0x8CBFE008, 0x0102FFFF, 0x00000000], .flg2 (word 127 8 0x01 0x02 0xFF 0xFF 0x0)),
    ([0x8CCFE010, 0x0102FFFF, 0x00000000], .fsin (word 127 16 0x01 0x02 0xFF 0xFF 0x0)),
    ([0x8CDFE000, 0x0102FFFF, 0x00000000], .fcos (word 127 0 0x01 0x02 0xFF 0xFF 0x0)),
    ([0x900FE07F, 0x010203FF, 0x00000000], .padd16 (word 127 127 0x01 0x02 0x03 0xFF 0x0)),
    ([0x901FE001, 0x010203FF, 0x00000000], .pmul16 (word 127 1 0x01 0x02 0x03 0xFF 0x0)),
    ([0x902FE0FF, 0x01020304, 0x00000000], .pfma16 (word 127 255 0x01 0x02 0x03 0x04 0x0)),
    ([0x903FE06C, 0x010203FF, 0x00000000], .pmin16 (word 127 108 0x01 0x02 0x03 0xFF 0x0)),
    ([0x904FE044, 0x010203FF, 0x00000000], .pmax16 (word 127 68 0x01 0x02 0x03 0xFF 0x0)),
    ([0x940FE01F, 0x0202FFFF, 0x00000000], .ftoi (word 127 31 0x02 0x02 0xFF 0xFF 0x0)),
    ([0x941FE017, 0x0102FFFF, 0x00000000], .itof (word 127 23 0x01 0x02 0xFF 0xFF 0x0)),
    ([0x942FE11B, 0x0102FFFF, 0x00000000], .ftof (word 127 283 0x01 0x02 0xFF 0xFF 0x0)),
    ([0x943FE039, 0x01020304, 0x00000000], .fpk8 (word 127 57 0x01 0x02 0x03 0x04 0x0)),
    ([0x944FE00F, 0x01020304, 0x00000000], .fpk4 (word 127 15 0x01 0x02 0x03 0x04 0x0)),
    ([0x945FE00D, 0x0102FFFF, 0x00000000], .funpk (word 127 13 0x01 0x02 0xFF 0xFF 0x0))] = true := by decide +kernel

/-- Words written out from the layouts of R34, R44, R315, R324 to R340, R361. -/
theorem test_memory_instructions_decode : decodes [
    ([0x980FE068, 0x0482C0FF, 0x8CFFFFF8], .ld (word 127 104 0x04 0x82 0xC0 0xFF 0x8CFFFFF8)),
    ([0xD81FE020, 0xFF0102F1, 0x02000004, 0x00000009, 0x00000000], .st { word 127 32 0xFF 0x01 0x02 0xF1 0x2000004 with lit := some 0x9 }),
    ([0x982FE032, 0x848081FF, 0x00000000], .ldq (word 127 50 0x84 0x80 0x81 0xFF 0x0)),
    ([0x983FE008, 0xFF01C0FF, 0x00FFFFFF], .prf (word 127 8 0xFF 0x01 0xC0 0xFF 0xFFFFFF)),
    ([0x984FE003, 0xFFFFFFFF, 0x00000000], .cctl (word 127 3 0xFF 0xFF 0xFF 0xFF 0x0)),
    ([0x984FE00C, 0xFF02FFFF, 0x00000080], .cctl (word 127 12 0xFF 0x02 0xFF 0xFF 0x80)),
    ([0x985FE067, 0xC0020608, 0xB8000010], .atom (word 127 103 0xC0 0x02 0x06 0x08 0xB8000010)),
    ([0xD86FE012, 0xFF01F1FF, 0xD0000000, 0x00000005, 0x00000000], .red { word 127 18 0xFF 0x01 0xF1 0xFF 0xD0000000 with lit := some 0x5 }),
    ([0x987FE000, 0x7C008408, 0x28000000], .cas128 (word 127 0 0x7C 0x00 0x84 0x08 0x28000000)),
    ([0x988FE01E, 0xFFFFFFFF, 0x00000000], .fence (word 127 30 0xFF 0xFF 0xFF 0xFF 0x0))] = true := by decide +kernel

/-- Words written out from the layouts of R34, R44, R133 to R145, R309 to R312. -/
theorem test_shelf_and_tile_instructions_decode : decodes [
    ([0x9C0FE000, 0x80B8FFFF, 0x00000000], .cpy (word 127 0 0x80 0xB8 0xFF 0xFF 0x0)),
    ([0x9C1FE000, 0x01B4FFFF, 0x00000000], .cpy2 (word 127 0 0x01 0xB4 0xFF 0xFF 0x0)),
    ([0x9C2FE000, 0xC0B0FFFF, 0x00000000], .cpy3 (word 127 0 0xC0 0xB0 0xFF 0xFF 0x0)),
    ([0x9C3FE400, 0x818005FF, 0x00000000], .cpyg { word 127 0 0x81 0x80 0x05 0xFF 0x0 with blr := true }),
    ([0x9C4FE000, 0xFFF0FFFF, 0x0000000F], .publ (word 127 0 0xFF 0xF0 0xFF 0xFF 0xF)),
    ([0x9C5FE000, 0x0283FFFF, 0x00000000], .ctok (word 127 0 0x02 0x83 0xFF 0xFF 0x0)),
    ([0x9C6FE000, 0xFFF0FFFF, 0x0000004D], .ccan (word 127 0 0xFF 0xF0 0xFF 0xFF 0x4D)),
    ([0x9C7FE1FD, 0xFFC0FFFF, 0x00001000], .grel (word 127 509 0xFF 0xC0 0xFF 0xFF 0x1000)),
    ([0x9C8FE003, 0x8280FFFF, 0x00002000], .gstat (word 127 3 0x82 0x80 0xFF 0xFF 0x2000)),
    ([0xA00FE000, 0xFFB0F0FF, 0x00000011], .tpost (word 127 0 0xFF 0xB0 0xF0 0xFF 0x11)),
    ([0xA01FE001, 0xFFFFFFFF, 0x00000000], .chb (word 127 1 0xFF 0xFF 0xFF 0xFF 0x0)),
    ([0xA02FE003, 0xFF84FFFF, 0x00000000], .che (word 127 3 0xFF 0x84 0xFF 0xFF 0x0)),
    ([0xA02FE000, 0xFFFFFFFF, 0x00000000], .che (word 127 0 0xFF 0xFF 0xFF 0xFF 0x0))] = true := by decide +kernel

/-- Words written out from the layouts of R34, R44, R378 to R384, R402, R423, R425. -/
theorem test_group_and_system_instructions_decode : decodes [
    ([0xA40FE000, 0x00FFFFFF, 0x00000000], .gnew (word 127 0 0x00 0xFF 0xFF 0xFF 0x0)),
    ([0xA41FE800, 0xFF01FFFF, 0x00000000], .gjoin { word 127 0 0xFF 0x01 0xFF 0xFF 0x0 with alr := true }),
    ([0xA42FE000, 0xFF81FFFF, 0x00000000], .gleave (word 127 0 0xFF 0x81 0xFF 0xFF 0x0)),
    ([0xA43FE000, 0xFF02FFFF, 0x00000000], .gfree (word 127 0 0xFF 0x02 0xFF 0xFF 0x0)),
    ([0xA44FE000, 0x7FC0FFFF, 0x00000000], .bar (word 127 0 0x7F 0xC0 0xFF 0xFF 0x0)),
    ([0xA45FE001, 0xFF0203FF, 0xC0000040], .barinit (word 127 1 0xFF 0x02 0x03 0xFF 0xC0000040)),
    ([0xA46FE000, 0xC001FFFF, 0x60000000], .barr (word 127 0 0xC0 0x01 0xFF 0xFF 0x60000000)),
    ([0xA47FE000, 0x050102FF, 0x80FFFFC0], .barw (word 127 0 0x05 0x01 0x02 0xFF 0x80FFFFC0)),
    ([0xE48FE000, 0xFF01F1FF, 0xA0000010, 0x00000001, 0x00000000], .sigs { word 127 0 0xFF 0x01 0xF1 0xFF 0xA0000010 with lit := some 0x1 }),
    ([0xA49FE001, 0x5F8402FF, 0x60000000], .sigw (word 127 1 0x5F 0x84 0x02 0xFF 0x60000000)),
    ([0xA80FE003, 0x0382FFFF, 0x00000080], .launch (word 127 3 0x03 0x82 0xFF 0xFF 0x80)),
    ([0xA81FE001, 0xFF82FFFF, 0x0000FFFF], .trap (word 127 1 0xFF 0x82 0xFF 0xFF 0xFFFF)),
    ([0xA82FE000, 0xFFFFFFFF, 0x00001234], .brk (word 127 0 0xFF 0xFF 0xFF 0xFF 0x1234))] = true := by decide +kernel
/-- The words of a clause header, a pair and a short branch (R41, R45, the encoding table's examples). -/
theorem test_header_pair_and_branch_decode : decodes [
    ([0x3F002238], .clause { wait := 2, setA := 2, setB := 3, rgn := true, yld := false }),
    ([0x3F000FF4], .clause { wait := 0, setA := 15, setB := 15, rgn := false, yld := true }),
    ([0xBFF02000, 0x0104080C, 0x130E2024], .pair
      { guard := 1, neg := false, span := .two .iadd { d := 2, a := 2, alr := false, b := 3, blr := false, bk := false },
        strand := .two .fmul { d := 7, a := 8, alr := false, b := 9, blr := false, bk := false } }),
    ([0x630001FD, 0xFFFFFFF0], .braBase 0xFFFFFFF0)] = true := by decide +kernel

/-- Bytes lie lowest first (R3): the decoder takes them four to a word. -/
theorem test_bytes_decode : (decode [0x08, 0x06, 0x06, 0x01]).toOption
    = some (.iaddBase { d := 3, a := 1, alr := true, b := 2, blr := false, bk := false }, 1) := by decide +kernel

/-- The host's word interface reads the same instruction. -/
theorem test_table_word_decodes : decodeTableWord 96 0x00000384_0A0BE0FF_8C007000
    = some (.fadd { word 3 0 0x0A 0x0B 0xE0 0xFF 900 with neg := true }) := by decide +kernel

/-- `iadd` of x2 to x3, unguarded. -/
def good : Ext := word 127 0 1 2 3 0xFF 0

/-- The terms that follow differ from a well-formed one in one field. -/
theorem test_wf_accepts : (Instr.iadd good).wf = true := by decide +kernel

/-- A base word with a last-read mark on a k word (R29). -/
theorem test_wf_refuses_marked_k : (Instr.iaddBase { d := 1, a := 2, alr := false, b := 3, blr := true, bk := true }).wf = false
    ∧ (Instr.movBase { d := 1, b := 3, blr := true, bk := true }).wf = false := by decide +kernel

/-- A header whose flags are 12 to 14, or one flag twice (R45). -/
theorem test_wf_refuses_headers : (Instr.clause { wait := 0, setA := 12, setB := 15, rgn := false, yld := false }).wf = false
    ∧ (Instr.clause { wait := 0, setA := 15, setB := 14, rgn := false, yld := false }).wf = false
    ∧ (Instr.clause { wait := 0, setA := 5, setB := 5, rgn := false, yld := false }).wf = false := by decide +kernel

/-- Displacements are multiples of 4 (R33, R199). -/
theorem test_wf_refuses_displacements : (Instr.braBase 2).wf = false ∧ (Instr.bra (word 0 0 0xFF 0xFF 0xFF 0xFF 1)).wf = false
    := by decide +kernel

/-- Guards name p0 to p95 or PT (R34). -/
theorem test_wf_refuses_guards : (Instr.iadd { good with guard := 96 }).wf = false ∧ (Instr.iadd { good with guard := 126 }).wf = false
    ∧ (Instr.join (word 3 0 0xFF 0xFF 0xFF 0xFF 0)).wf = false
    ∧ (Instr.mat { word 127 0 0xFF 0xFF 0xFF 0xFF 0 with neg := true }).wf = false := by decide +kernel

/-- Reserved MOD bits and values (R34). -/
theorem test_wf_refuses_mods : (Instr.iadd { good with mod := 2 }).wf = false ∧ (Instr.fcmp (word 127 14 1 2 3 0xFF 0)).wf = false
    ∧ (Instr.ld (word 127 0x38 1 2 0xC0 0xFF 0)).wf = false := by decide +kernel

/-- Operand codes of R35: reserved codes, a missing and a surplus operand, codes that cannot be written, predicates. -/
theorem test_wf_refuses_codes : (Instr.iadd { good with a := 0xC1 }).wf = false ∧ (Instr.iadd { good with a := 0xFF }).wf = false
    ∧ (Instr.iadd { good with c := 0 }).wf = false ∧ (Instr.iadd { good with d := 0xE0 }).wf = false
    ∧ (Instr.iadd { good with d := 0xFF }).wf = false ∧ (Instr.icmp (word 127 0 96 2 3 0xFF 0)).wf = false := by decide +kernel

/-- 64-bit operands stand in even registers, 128-bit ones in multiples of 4, descriptors in multiples of 4 up to their top (R38,
R133, R317). -/
theorem test_wf_refuses_unaligned : (Instr.iadd64 (word 127 0 1 2 4 0xFF 0)).wf = false
    ∧ (Instr.cas128 (word 127 0 2 0 4 8 0)).wf = false ∧ (Instr.cpy (word 127 0 0x80 0x82 0xFF 0xFF 0)).wf = false
    ∧ (Instr.cpy3 (word 127 0 0x80 0xB4 0xFF 0xFF 0)).wf = false ∧ (Instr.iadd64 (word 127 0 2 4 0xE0 0xFF 1023)).wf = false
    := by decide +kernel

/-- Last-read marks stand on registers only (R35). -/
theorem test_wf_refuses_marks : (Instr.iadd { good with a := 0xC0, alr := true }).wf = false
    ∧ (Instr.iadd { good with clr := true }).wf = false ∧ (Instr.pcomb { word 127 0 1 2 3 0xFF 0 with alr := true }).wf = false
    ∧ (Instr.gstat { word 127 1 0x80 0x81 0xFF 0xFF 0 with alr := true }).wf = false := by decide +kernel

/-- Word2 serves one purpose and is 0 with none (R36); an entry's own field leaves no room for a k word. -/
theorem test_wf_refuses_word2 : (Instr.iadd { good with imm := 1 }).wf = false ∧ (Instr.iadd { good with b := 0xE0, imm := 1024 }).wf = false
    ∧ (Instr.iadd { good with a := 0xF0, b := 0xE0, imm := 1 }).wf = false ∧ (Instr.wait (word 127 0 0xFF 0xFF 0xFF 0xFF 0x1000)).wf = false
    ∧ (Instr.ld (word 127 0x20 1 2 0xC0 0xFF 0x1000000)).wf = false := by decide +kernel

/-- The literal stands exactly when an operand reads it, and a 32-bit one has its high half 0 (R37). -/
theorem test_wf_refuses_literals : (Instr.iadd { good with lit := some 1 }).wf = false ∧ (Instr.iadd { good with a := 0xF1 }).wf = false
    ∧ (Instr.iadd { good with a := 0xF1, lit := some 0x100000000 }).wf = false := by decide +kernel

/-- Slots of a pair (R42): q64 to q127, and a memory word in the span slot. -/
theorem test_wf_refuses_pairs :
    let w : BaseOps := { d := 2, a := 2, alr := false, b := 3, blr := false, bk := false }
    (Instr.pair { guard := 127, neg := false, span := .two .iadd { w with d := 64 }, strand := .two .iadd w }).wf = false
    ∧ (Instr.pair { guard := 127, neg := false, span := .mem .ld w, strand := .two .iadd w }).wf = false
    ∧ (Instr.pair { guard := 100, neg := false, span := .two .iadd w, strand := .two .iadd w }).wf = false
    ∧ (Instr.pair { guard := 127, neg := false, span := .two .iadd w, strand := .two .iadd { w with blr := true, bk := true } }).wf = false
    := by decide +kernel

/-- Words that no instruction has (R28, R33, R41, R44). -/
theorem test_illegal_words_are_refused : (([[0], [0x24000000], [0x35000000], [0x3E000000], [0x3F000FF1], [0x70000000, 0], [0x7F0001FD, 0],
    [0x820FE000, 0xFFFFFFFF, 0], [0x800FE000, 0xFFFFFFFF, 2], [0xBFF0E001, 0x01000000, 0x01000000], [0xFFF0E000, 0, 0, 0, 0],
    [0x630001FD, 1], [0x1B000400], [0x630201FD, 0]] : List (List Word)).all fun w => (decodeWords w).toOption.isNone) = true
    := by decide +kernel

/-- A word cut short is refused (R27). -/
theorem test_short_words_are_refused : (decodeWords [0x880FE000, 0x010203FF]).toOption = none ∧ (decodeWords []).toOption = none
    := by decide +kernel
/-! ### States to test on, and the hypotheses of an issue as checks -/

/-- A launch of slice 0 with n items in a row, in one context of a kind, at the first word of its code, where the words given lie. -/
def place (kind : CtxKind) (n : Nat) (w : Nat) : State :=
  let s := State.reset.withFetchWord 160 w
  { s with
    launches := s.launches.map fun l => { l with rcd := { l.rcd with nx := n, cohX := n, cohY := 1, cohZ := 1 } },
    ctxs := s.ctxs.map fun x => { x with
      kind := kind, items := (List.range n).flatMap fun c => x.items.map fun t => { t with c := c } } }

/-- The contexts changed. -/
def withCtx (s : State) (f : Ctx → Ctx) : State := { s with ctxs := s.ctxs.map f }

/-- Item registers holding one value for all items. -/
def withX (s : State) (xs : List (Nat × Word)) : State :=
  withCtx s fun x => { x with x := xs.map fun v => { num := v.1, form := .u v.2, live := x.cs } }

/-- Uniform registers. -/
def withQ (s : State) (qs : List (Nat × Word)) : State :=
  withCtx s fun x => { x with q := qs.map fun v => { num := v.1, val := v.2, live := x.cs } }

/-- Predicates of one value for all items. -/
def withP (s : State) (ps : List (Nat × Bool)) : State :=
  withCtx s fun x => { x with p := ps.map fun v => { num := v.1, form := .u v.2 } }

/-- One item that runs alone. -/
def alone : State := place .strand 1 0x3F000FF0

/-- The conditions of `Performs`, checked. -/
def check (s : State) (m : Meta) (i : Issue) : Bool :=
  decide (s.cur = some i.ctx.id) && decide (s.ctx? i.ctx.id = some i.ctx) && decide (s.launch? i.ctx.launch = some i.launch)
    && decide (s.groupPc i.ctx = some i.pc) && decide (i.grp = i.ctx.items.filter fun t => t.pc == i.pc && !s.waits i.ctx t)
    && decide (i.place.count < 16) && decide (m.long = true → i.place.long < 2)
    && decide (i.guarded m.guard m.neg m.whole = some i.aff) && decide (i.aff ≠ []) && decide (i.atEntry = true → i.ctx.staged = 0)
    && decide (s.flagFull i m = false) && decide (m.usesK = true → s.kReady i.ctx = true)
    && decide (s.outstanding i.ctx (i.grp.map Item.c) (m.reads ++ m.writes) = false)

theorem check_performs {s : State} {m : Meta} {i : Issue} (h : check s m i = true) : Performs s m i := by
  simp only [check, Bool.and_eq_true, decide_eq_true_eq] at h
  obtain ⟨⟨⟨⟨⟨⟨⟨⟨⟨⟨⟨⟨h1, h2⟩, h3⟩, h4⟩, h5⟩, h6⟩, h7⟩, h8⟩, h9⟩, h10⟩, h11⟩, h12⟩, h13⟩ := h
  exact ⟨h1, h2, h3, h4, h5, h6, h7, h8, h9, h10, h11, h12, h13⟩

/-- The issue at hand with the items that a guard affects. -/
def issues (s : State) (m : Meta) : Option Issue :=
  match s.issue? with
  | some i => (i.guarded m.guard m.neg m.whole).map fun aff => { i with aff := aff }
  | none => none

/-- The group performs the instruction in the state, and its issue has a property. -/
def meets (s : State) (m : Meta) (p : Issue → Bool) : Bool :=
  match issues s m with
  | some i => check s m i && p i
  | none => false

theorem meets_some {s : State} {m : Meta} {p : Issue → Bool} (h : meets s m p = true) : ∃ i, Performs s m i ∧ p i = true := by
  unfold meets at h
  split at h
  · rename_i i _
    rw [Bool.and_eq_true] at h
    exact ⟨i, check_performs h.1, h.2⟩
  · cases h

/-- `Calm`, checked. -/
def calm (i : Issue) (k : Calc) : Bool :=
  if i.ctx.fctl = 0 then true
  else if k.once then (match i.first with
    | some t => k.fl t &&& i.ctx.fctl == 0
    | none => true)
  else i.aff.all fun t => k.fl t &&& i.ctx.fctl == 0

theorem calm_iff {i : Issue} {k : Calc} (h : calm i k = true) : Calm i k := by
  unfold calm at h
  unfold Calm
  split at h
  · rename_i h0
    simp [h0]
  split at h <;> rename_i h0
  · rw [if_pos h0]
    intro t ht
    rw [ht] at h
    simpa using h
  · rw [if_neg h0]
    simpa using h

/-- What `Row.Completes` asks of a state and an issue. -/
def RowMeets (r : Row) (s : State) (i : Issue) : Prop :=
  Performs s r.info i ∧ Calm i (r.comp s i) ∧ (i.ctx.kind = .span → ∀ o ∈ (r.comp s i).outs, o.isM i = false)
    ∧ s.fits (i.written r.info (r.comp s i).outs) = true

/-- The same, checked. -/
def rowCheck (r : Row) (s : State) : Bool :=
  meets s r.info fun i => calm i (r.comp s i) && decide (i.ctx.kind = .span → ∀ o ∈ (r.comp s i).outs, o.isM i = false)
    && s.fits (i.written r.info (r.comp s i).outs)

theorem row_meets {r : Row} {s : State} (h : rowCheck r s = true) : ∃ i, RowMeets r s i := by
  obtain ⟨i, hp, h⟩ := meets_some h
  simp only [Bool.and_eq_true, decide_eq_true_eq] at h
  exact ⟨i, hp, calm_iff h.1.1, h.1.2, h.2⟩

/-- A step of an instruction ends in a state with a property. -/
def gives (j : Instr) (s : State) (p : State → Bool) : Bool :=
  match exec j s with
  | .next u => p u
  | _ => false

/-- What item c of the first context reads in an item register, and the context in a uniform one. -/
def xVal (s : State) (n c : Nat) : Word := (s.ctxs.head?.map fun x => x.xAt oneItem n c).getD 0
def qVal (s : State) (n : Nat) : Word := (s.ctxs.head?.map fun x => x.qAt n 0).getD 0
/-! ### Every hypothesis is met: instructions that compute registers -/

/-- x2 = 7, x3 = 5 in a strand of one item, and in a span of four. -/
def two32 : State := withX alone [(2, 7), (3, 5)]
def span32 : State := withX (place .span 4 0x3F000FF0) [(2, 7), (3, 5)]
/-- A base word on x2 and x3 to x1, its literal form, and the forms with one source. -/
def baseW : BaseOps := { d := 1, a := 2, alr := false, b := 3, blr := false, bk := false }
def baseL : BaseLit := { d := 1, a := 2, alr := true, lit := 5 }
def base1W : Base1 := { d := 1, b := 3, blr := true, bk := false }
def base1L : Base1Lit := { d := 1, lit := 5 }

theorem test_meets_integer_rows : ∃ r ∈ intExt good, ∃ i, RowMeets r two32 i :=
  ⟨_, .head _, row_meets (by decide +kernel)⟩

theorem test_meets_every_integer_row : (intExt good).all (rowCheck · two32) = true
    ∧ (intBase baseW baseL base1W base1L).all (rowCheck · two32) = true ∧ (intExt good).head?.any (rowCheck · span32) = true := by
  decide +kernel

/-- Float operands: 1.5 and 2. -/
def floats : State := withX alone [(1, 0x40000000), (2, 0x3FC00000), (3, 0x40000000)]

theorem test_meets_every_float_row : (fpExt (word 127 0 1 2 3 3 0)).all (rowCheck · floats) = true
    ∧ (fpBaseRows baseW baseL { d := 1, imm := 0x3FC00 }).all (rowCheck · floats) = true := by
  decide +kernel

theorem test_meets_every_move_row : (wideRows (word 127 0 2 2 4 4 0)).all (rowCheck · two32) = true
    ∧ (wideRows (word 127 1 2 2 4 4 0)).all (rowCheck · two32) = true
    ∧ (movBaseRows base1W base1L).all (rowCheck · two32) = true ∧ rowCheck (rdsRow (word 127 0 1 0xFF 0xFF 0xFF 0)) two32 = true := by
  decide +kernel

/-- `rds` of the lane, by a strand to x1 and by a span to q1. -/
def rdsLane (d : BitVec 8) : Ext := word 127 0x0E d 0xFF 0xFF 0xFF 0

theorem test_meets_lane_reads : (∃ i, Performs two32 (rdsRow (rdsLane 1)).info i ∧ (i.ctx.kind != .span
      && two32.fits (i.written (rdsRow (rdsLane 1)).info ((rdsRow (rdsLane 1)).comp two32 i).outs)) = true)
    ∧ ∃ i, Performs span32 (rdsRow (rdsLane 0x81)).info i ∧ (i.ctx.kind == .span
      && ((rdsRow (rdsLane 0x81)).comp span32 i).outs.all (fun o => !o.isM i)
      && span32.fits (i.written (rdsRow (rdsLane 0x81)).info ((rdsRow (rdsLane 0x81)).comp span32 i).outs)) = true := by
  refine ⟨meets_some ?_, meets_some ?_⟩ <;> decide +kernel

/-- A status write; an atomic that has raised flags has still to answer. -/
def statusW : Ext := word 127 0x13 0xFF 0x81 0xFF 0xFF 0
def flagsOut : State :=
  { withQ alone [(1, 3)] with
    ops := [{ id := 4, issue := 4, core := 0, launch := 4294967297, cohort := 0, items := [0], flag := none, dst := [.x 4], kind := .load [(0x100, 4)] 4 false none false,
              va := 0, pc := 0, back := some [0], fl := 1, parkedAt := none, cross := [], nofill := [], ev := false }] }

theorem test_meets_status_write : (∃ i, Performs (withQ alone [(1, 3)]) (statusW.info 0 1 0 0) i ∧
      (i.first.isSome && !(withQ alone [(1, 3)]).flagsDue i.ctx) = true)
    ∧ ∃ i, Performs flagsOut (statusW.info 0 1 0 0) i ∧ (i.first.isSome && flagsOut.flagsDue i.ctx) = true :=
  ⟨meets_some (by decide +kernel), meets_some (by decide +kernel)⟩

/-- A strand of three items whose x2 differs. -/
def three32 : State :=
  withCtx (place .strand 3 0x3F000FF0) fun x => { x with
    x := [{ num := 2, form := .m [(0, 10), (1, 20), (2, 30)], live := [0, 1, 2] }, { num := 3, form := .u 1, live := [0, 1, 2] }] }

/-- An operand is a U register. -/
def isU : XForm → Bool
  | .u _ => true
  | _ => false

theorem test_meets_exchange_of_one_value : ∃ i, Performs two32 (good.info 1 1 1 0) i ∧
    (decide (two32.src32 i.ctx i.launch.rcd (good.src good.a) = .u 7)
      && two32.fits (i.written (good.info 1 1 1 0) [{ dst := dstOf good.d, form := some (.u 7), val := fun _ => 7 }])) = true :=
  meets_some (by decide +kernel)

theorem test_meets_exchange : ∃ i, Performs three32 (good.info 1 1 1 0) i ∧
    (i.ctx.kind != .span && !isU (three32.src32 i.ctx i.launch.rcd (good.src good.a))
      && three32.fits (i.written (good.info 1 1 1 0) [{ dst := dstOf good.d, val := sxchValue three32 i good }])) = true :=
  meets_some (by decide +kernel)

theorem test_meets_reduction : ∃ i, Performs three32 (good.info 1 1 0 0) i ∧
    (i.ctx.kind != .span && calm i ((sredRow good).comp three32 i)
      && three32.fits (i.written (good.info 1 1 0 0) ((sredRow good).comp three32 i).outs)) = true :=
  meets_some (by decide +kernel)

/-- `vote.ballot` of p2 to x4 and x5. -/
def voted : Ext := word 127 3 4 2 0xFF 0xFF 0

theorem test_meets_ballot : voted.modBits 0 2 = 3 ∧ ∃ i, Performs three32 (voted.info 2 0 0 0) i ∧
    (i.ctx.kind != .span && three32.fits (i.written (voted.info 2 0 0 0) (outs64 i voted.d true fun _ => ballot i voted))) = true :=
  ⟨by decide, meets_some (by decide +kernel)⟩

/-- What a predicate result asks: the context it becomes exists and fits. -/
def fitsP (s : State) (i : Issue) (m : Meta) (outs : List OutP) : Bool :=
  match i.writtenP m outs with
  | some z => s.fits z
  | none => false

theorem test_meets_predicate_rows : (∃ i, Performs three32 (good.info 0 1 1 0) i ∧ fitsP three32 i (good.info 0 1 1 0) [icmpOut good three32 i] = true)
    ∧ (∃ i, Performs three32 (good.info 0 0 0 0) i ∧ fitsP three32 i (good.info 0 0 0 0) [pcombOut good i] = true)
    ∧ (∃ i, Performs three32 ((word 127 1 0xFF 2 0xFF 0xFF 5).info 0 1 0 0) i
      ∧ fitsP three32 i ((word 127 1 0xFF 2 0xFF 0xFF 5).info 0 1 0 0) (pmovOuts (word 127 1 0xFF 2 0xFF 0xFF 5) three32 i) = true)
    ∧ (∃ i, Performs three32 (good.info 0 0 0 0) i ∧ (i.ctx.kind != .span
      && fitsP three32 i (good.info 0 0 0 0) [{ dst := dstPred good.d, form := some (.u (voteOf good i)), val := fun _ => voteOf good i }]) = true)
    ∧ ∃ i, Performs three32 (good.info 0 1 1 0) i ∧ (i.ctx.kind != .span
      && i.aff.all (fun t => (fcmpHolds 0 false (readLo three32 i (good.src good.a) t).toNat (readLo three32 i (good.src good.b) t).toNat).2 &&& i.ctx.fctl == 0)
      && fitsP three32 i (good.info 0 1 1 0) [{ dst := dstPred good.d, val := fun t =>
        (fcmpHolds 0 false (readLo three32 i (good.src good.a) t).toNat (readLo three32 i (good.src good.b) t).toNat).1 }]) = true :=
  ⟨meets_some (by decide +kernel), meets_some (by decide +kernel), meets_some (by decide +kernel), meets_some (by decide +kernel),
    meets_some (by decide +kernel)⟩

/-- A span: the results of `vote` need a uniform predicate. -/
theorem test_meets_vote_of_a_span : ∃ i, Performs span32 (good.info 0 0 0 0) i ∧ (i.ctx.kind == .span && decide (i.ctx.pForm 2 = .u false)) = true :=
  meets_some (by decide +kernel)

/-- A pair: q2 = q2 + q3 in the span slot, x7 = x8 + x9 in the strand slot. -/
def paired : PairWord :=
  { guard := 127, neg := false, span := .two .iadd { d := 2, a := 2, alr := false, b := 3, blr := false, bk := false },
    strand := .two .iadd { d := 7, a := 8, alr := false, b := 9, blr := false, bk := false } }
def pairState : State := withQ (withX alone [(8, 1), (9, 2)]) [(2, 3), (3, 4)]

theorem test_meets_pair : ∃ i, Performs pairState (pairInfo paired) i ∧
    (let cs := (pairState.slotCalc i true paired.span).toList ++ (pairState.slotCalc i false paired.strand).toList
     i.aff.all (fun t => (slotValue pairState i true paired.span t).isSome && (slotValue pairState i false paired.strand t).isSome)
      && cs.all (calm i) && i.ctx.kind != .span && pairState.fits (i.written (pairInfo paired) (cs.flatMap Calc.outs))) = true :=
  meets_some (by decide +kernel)

/-! ### Every issue -/

/-- A span whose x2 and x3 vary along X: their product is M. -/
def affine : State :=
  withCtx (place .span 4 0x3F000FF0) fun x => { x with
    x := [{ num := 2, form := .a 0 1 0 0, live := x.cs }, { num := 3, form := .a 0 1 0 0, live := x.cs }] }

theorem test_meets_needs_strands : ∃ r ∈ intExt good, ∃ i, Performs affine r.info i ∧
    (calm i (r.comp affine i) && i.ctx.kind == .span && (r.comp affine i).outs.any (fun o => o.isM i)) = true :=
  ⟨_, .tail _ (.tail _ (.head _)), meets_some (by decide +kernel)⟩

/-- The cohort is promised some storage and another launch all the rest. -/
def promised (m1 s1 m2 s2 : Nat) (s : State) : State :=
  let give (m e : Nat) (k : Cohort) : Cohort := { k with shares := k.shares.map fun h => { h with maxM := m, maxS := e } }
  { s with cohorts := s.cohorts.map (give m1 s1) ++ s.cohorts.map fun k => { give m2 s2 k with launch := 7 } }

/-- A strand of two items that was promised one register: one is M, and no second fits. -/
def tight : State :=
  promised 1 0 2047 0
    (withCtx (place .strand 2 0x3F000FF0) fun x => { x with x := [{ num := 2, form := .m [(0, 1), (1, 2)], live := [0, 1] }] })

/-- Three strands that were promised two entries: the other two hold one each, so a third needs one of them to be spilled. -/
def lacking : State :=
  promised 0 1 0 1023 { alone with ctxs := alone.ctxs.flatMap fun x =>
    x :: ([2, 3].map fun n => { x with id := n, items := [], x := [{ num := 9, form := .u 1, live := [9], ent := (n, 0) }] }), nextId := 4 }

theorem test_meets_overfull : (∃ r ∈ intExt good, ∃ i, Performs tight r.info i ∧
      (calm i (r.comp tight i) && i.ctx.kind != .span && !tight.fits (i.written r.info (r.comp tight i).outs)
        && !tight.fitsBut (tight.setCtx (i.written r.info (r.comp tight i).outs)) i.ctx.core) = true)
    ∧ ∃ r ∈ intExt good, ∃ i, Performs lacking r.info i ∧
      (calm i (r.comp lacking i) && i.ctx.kind != .span && !lacking.fits (i.written r.info (r.comp lacking i).outs)
        && lacking.fitsBut (lacking.setCtx (i.written r.info (r.comp lacking i).outs)) i.ctx.core) = true :=
  ⟨⟨_, .head _, meets_some (by decide +kernel)⟩, _, .head _, meets_some (by decide +kernel)⟩

/-- Signalling NaNs with every exception enabled. -/
def trapping (e : Ext) (s : State) : State :=
  withCtx (withQ (withX s [(2, 0x7F800001), (3, 0)]) [(1, 0x7F800001)]) fun x => { x with fctl := if e.d = 1 then 0x1F else 0x1F }

theorem test_meets_traps : (∃ r ∈ fpExt good, ∃ i, Performs (trapping good alone) r.info i ∧
      (!(r.comp (trapping good alone) i).once && i.aff.any fun t => (r.comp (trapping good alone) i).fl t &&& i.ctx.fctl != 0) = true)
    ∧ ∃ r ∈ fpExt { good with d := 0x84, a := 0x81 }, ∃ i, Performs (trapping good alone) r.info i ∧
      ((r.comp (trapping good alone) i).once && i.aff.head?.any fun t => (r.comp (trapping good alone) i).fl t &&& i.ctx.fctl != 0) = true :=
  ⟨⟨_, .head _, meets_some (by decide +kernel)⟩, _, .head _, meets_some (by decide +kernel)⟩

/-- The issue of a state. -/
def issued (s : State) (p : Issue → Bool) : Bool :=
  match s.issue? with
  | some i => p i
  | none => false

theorem issued_some {s : State} {p : Issue → Bool} (h : issued s p = true) : ∃ i, s.issue? = some i ∧ p i = true := by
  unfold issued at h
  split at h
  · rename_i i hi
    exact ⟨i, hi, h⟩
  · cases h

/-- A guard that affects no item; a clause with its sixteen instructions; a register outstanding. -/
theorem test_meets_no_item_affected : (Instr.iadd { good with guard := 5 }).asExt = some (0x080, { good with guard := 5 })
    ∧ ∃ i, two32.issue? = some i ∧ (decide (i.place.count < 16) && decide (i.place.long < 2) && decide (i.guarded 5 false false = some [])
      && i.ctx.staged == 0) = true :=
  ⟨rfl, issued_some (by decide +kernel)⟩

def sixteen : State := withCtx two32 fun x => { x with items := x.items.map fun t => { t with place := { t.place with count := 16 } } }

theorem test_meets_too_long : (encode (.iadd good)).isSome = true ∧ ∃ i, sixteen.issue? = some i ∧ decide (16 ≤ i.place.count) = true :=
  ⟨by decide +kernel, issued_some (by decide +kernel)⟩

/-- A load of global memory is outstanding to x3. -/
def loading : State :=
  { two32 with
    ops := [{
      id := 99, issue := 99, core := 0, launch := 4294967297, cohort := 0, items := [0], flag := none, dst := [.x 3],
      kind := .load [(0, 4)] 4 false none false, va := 0x20000, pc := 0x10000, back := none, fl := 0, parkedAt := none, cross := [], nofill := [], ev := false }] }

theorem test_meets_outstanding : ∃ r ∈ intExt good, ∃ i, loading.issue? = some i ∧ (decide (i.place.count < 16)
    && decide (i.guarded good.guard good.neg false = some i.aff) && decide (i.aff ≠ []) && i.ctx.staged == 0
    && loading.outstanding i.ctx (i.grp.map Item.c) (r.info.reads ++ r.info.writes)) = true :=
  ⟨_, .head _, issued_some (by decide +kernel)⟩
/-! ### Every hypothesis is met: steps, memory, paths and contexts -/

theorem test_meets_step : alone.inputs = [] ∧ alone.cur = some 1 ∧ (∃ i, (alone.ready 1).issue? = some i ∧
    (i.place.count != 17 && decide (codeIndex i.launch i.pc = some 0)
      && decide ((alone.ready 1).fetchAt i.ctx.core i.launch i.pc.toNat 4 ((alone.ready 1).lentTo (some i.ctx.id) none)
        = .ok ([0x3F000FF0] : List Word)[0])
      && decide (0 + 1 ≤ i.launch.words)) = true)
    ∧ ∃ x ∈ alone.ctxs, alone.ctx? 1 = some x ∧ x.spill = .home :=
  ⟨by decide +kernel, by decide +kernel, issued_some (by decide +kernel), _, .head _, by decide +kernel⟩

theorem test_meets_step_forms : ({ State.reset with inputs := [.moduleReset] } : State).inputs = .moduleReset :: []
    ∧ State.reset.moves = [] ∧ State.reset.cur = none ∧ (({ State.reset with cur := some 5 } : State).ready 5).issue? = none := by
  decide +kernel

theorem test_meets_orderly : ({ State.reset with inputs := [.moduleReset, .portHDown] } : State).orderly = true := by decide +kernel

theorem test_meets_usage_counts : (∀ v ∈ State.reset.slices, v.usage < 2 ^ 64) ∧ ∃ t, step State.reset = .next t :=
  ⟨by decide +kernel, _, rfl⟩

theorem test_meets_memory : Memory.wf [(3, 5), (2 ^ 39, 1)] = true ∧ Memory.wf [] = true := by decide +kernel

theorem test_meets_items_of_a_context : ∃ x ∈ alone.ctxs, 0 ∈ x.cs :=
  ⟨_, .head _, by decide +kernel⟩

theorem test_meets_leading_bit : (1 : Word).getLsbD 0 = true ∧ ∀ j, 0 < j → (1 : Word).getLsbD j = false :=
  ⟨rfl, fun j h => by simpa using Nat.pos_iff_ne_zero.mp h⟩

/-- The map byte of the first code words says that word 0 is a target (R52, R55). -/
def mapped : State := { alone with mem := alone.mem.write 0x1000 1 }
/-- The map lies on a page that no TLB holds. -/
def unmapped : State := { alone with launches := alone.launches.map fun l => { l with map := 0x50000 } }
/-- An instruction without operands. -/
def bare : Ext := word 127 0 0xFF 0xFF 0xFF 0xFF 0

theorem test_meets_branch : (∃ i, Performs mapped (bare.info 0 0 0 0) i ∧ (mapped.targetOf i i.pc == .ok) = true)
    ∧ (∃ i, Performs alone (bare.info 0 0 0 0) i ∧ (alone.targetOf i i.pc == .wrong) = true)
    ∧ ∃ i, Performs unmapped (bare.info 0 0 0 0) i ∧ (match unmapped.targetOf i i.pc with
      | .wait _ => true
      | _ => false) = true :=
  ⟨meets_some (by decide +kernel), meets_some (by decide +kernel), meets_some (by decide +kernel)⟩

/-- An indexed transfer on x2. -/
def indexed : Ext := word 127 0 0xFF 2 0xFF 0xFF 0

theorem test_meets_indexed_branch : (∃ i, Performs two32 (indexed.info 0 1 0 0) i ∧ i.aff.all (fun t => brxGoes indexed two32 i t == .next) = true)
    ∧ (∃ i, Performs alone (indexed.info 0 1 0 0) i ∧ (i.ctx.kind != .span && i.aff.all (fun t => brxGoes indexed alone i t == .wrong)) = true)
    ∧ (∃ i, Performs mapped (indexed.info 0 1 0 0) i ∧ i.aff.all (fun t => retGoes indexed mapped i t == .to 0x10000) = true)
    ∧ ∃ i, Performs two32 (indexed.info 0 1 0 0) i ∧ (i.ctx.kind != .span && i.aff.all fun t => retGoes indexed two32 i t == .wrong) = true :=
  ⟨meets_some (by decide +kernel), meets_some (by decide +kernel), meets_some (by decide +kernel), meets_some (by decide +kernel)⟩

theorem test_meets_call : ∃ i, Performs mapped ((word 127 0 4 0xFF 0xFF 0xFF 0).info 1 0 0 0) i ∧
    (mapped.targetOf i i.pc == .ok && i.ctx.kind != .span
      && mapped.fits (i.written ((word 127 0 4 0xFF 0xFF 0xFF 0).info 1 0 0 0) [{ dst := .x 4, form := some (.u 3), val := fun _ => 3 }])) = true :=
  meets_some (by decide +kernel)

/-- A header that waits for flag 1 and enters a region. -/
def header : ClauseWord := { wait := 2, setA := 2, setB := 3, rgn := true, yld := false }
/-- The load of `loading` under flag 1, and under none. -/
def flagged : State := { loading with ops := loading.ops.map fun o => { o with flag := some 1 } }

theorem test_meets_headers : (∃ i, flagged.issue? = some i ∧ flagged.maskBusy i.ctx header.wait = true)
    ∧ (∃ i, loading.issue? = some i ∧ (!loading.maskBusy i.ctx header.wait && header.rgn && loading.reading i.ctx (i.grp.map Item.c)) = true)
    ∧ ∃ i, alone.issue? = some i ∧ (!alone.maskBusy i.ctx header.wait && !alone.reading i.ctx (i.grp.map Item.c)
      && decide (alone.deliver i header.wait = none) && i.ctx.staged == 0) = true :=
  ⟨issued_some (by decide +kernel), issued_some (by decide +kernel), issued_some (by decide +kernel)⟩

/-- A context with two staged copies. -/
def stagedTwo : State := withCtx alone fun x => { x with staged := 2 }

theorem test_meets_staged_copies : ∃ x ∈ stagedTwo.ctxs, stagedTwo.ctx? x.id = some x ∧ x.staged ≠ 0 :=
  ⟨_, .head _, by decide +kernel⟩

/-- Two items at different places. -/
def apart : State := withCtx (place .strand 2 0x3F000FF0) fun x => { x with items := x.items.map fun t => if t.c = 1 then { t with pc := 0x10004 } else t }

theorem test_meets_waiting : (∃ i, Performs alone (bare.info 0 0 0 0) i ∧ (i.ctx.kind != .span && !alone.maskBusy i.ctx 0 && decide (alone.deliver i 0 = none)) = true)
    ∧ (∃ i, Performs apart (bare.info 0 0 0 0) i ∧ (i.grp.length != i.ctx.items.length) = true)
    ∧ (∃ i, Performs span32 (bare.info 0 0 0 0) i ∧ (i.ctx.kind == .span) = true)
    ∧ ∃ i, Performs flagged ((word 127 0 0xFF 0xFF 0xFF 0xFF 2).info 0 0 0 0) i ∧ flagged.maskBusy i.ctx 2 = true :=
  ⟨meets_some (by decide +kernel), meets_some (by decide +kernel), meets_some (by decide +kernel), meets_some (by decide +kernel)⟩

/-- Two strands of a cohort of two items, the second waiting at a join, in a launch whose joins wait. -/
def halves : State :=
  let s := place .strand 2 0x3F000FF0
  { s with
    launches := s.launches.map fun l => { l with rcd := { l.rcd with joinWait := 9 } },
    ctxs := s.ctxs.flatMap fun x =>
      [{ x with items := x.items.filter fun t => t.c == 0 },
       { x with id := 2, place := none, items := (x.items.filter fun t => t.c == 1).map fun t => { t with wait := .join 100 1 2 } }], nextId := 3 }
/-- The same with the second strand elsewhere. -/
def strangers : State := { halves with ctxs := halves.ctxs.map fun x => if x.id = 2 then { x with items := x.items.map fun t => { t with wait := .none } } else x }

theorem test_meets_joins : (∃ i, Performs alone (bare.info 0 0 0 0) i ∧
      (i.grp.length == i.ctx.items.length && decide (alone.mate i.launch.rcd i.ctx i.pc = none) && alone.holdsAll i.ctx) = true)
    ∧ ∃ i, Performs strangers (bare.info 0 0 0 0) i ∧ (i.grp.length == i.ctx.items.length && decide (strangers.mate i.launch.rcd i.ctx i.pc = none)
      && !strangers.holdsAll i.ctx && i.launch.rcd.joinWait != 0) = true :=
  ⟨meets_some (by decide +kernel), meets_some (by decide +kernel)⟩

theorem test_meets_merge : ∃ low ∈ halves.ctxs, ∃ other ∈ halves.ctxs, ∃ l ∈ halves.launches, low.x = [] ∧ low.q = [] ∧ low.p = [] ∧ other.x = [] ∧ other.q = []
    ∧ other.p = [] ∧ (halves.joinable l.rcd low other = true ∧ (halves.mergeKind l.rcd low other).isSome = true ∧ ∀ c ∈ low.cs, c ∉ other.cs) :=
  ⟨_, .head _, _, .tail _ (.head _), _, .head _, by decide +kernel⟩

theorem owns_of_empty (x : Ctx) (hx : x.x = []) (hq : x.q = []) (hp : x.p = []) : Owns x :=
  ⟨by simp [hx], by simp [hx], by simp [hq], by simp [hp]⟩

/-- A task of the context has failed. -/
def failedTask : State :=
  { alone with taskFails := [{ core := 0, launch := 4294967297, cohort := 0, acc := 0, flag := none, item := 0, cause := 9 }] }

theorem test_meets_exit : (∃ i, Performs alone (bare.info 0 0 0 0) i ∧ decide (alone.exitFail i.ctx = none) = true)
    ∧ (∃ i, Performs failedTask (bare.info 0 0 0 0) i ∧ (failedTask.exitFail i.ctx).isSome = true)
    ∧ (∃ x ∈ apart.ctxs, apart.ctx? x.id = some x ∧ ∃ c ∈ x.cs, c ∉ [0]) ∧ ∃ x ∈ apart.ctxs, apart.ctx? x.id = some x ∧ ∀ c ∈ x.cs, c ∈ [0, 1] :=
  ⟨meets_some (by decide +kernel), meets_some (by decide +kernel), ⟨_, .head _, by decide +kernel⟩, _, .head _, by decide +kernel⟩

/-- A span of four items at a target, whose p0 says X < 2; its threshold, and a branch that p0 guards. -/
def below2 : EPred := { base := 0, sx := 1, sy := 0, sz := 0, thr := 2, cmp := 2, uns := true, swap := false, neg := false }
def splitting : State :=
  let s := withCtx (place .span 4 0x3F000FF0) fun x => { x with p := [{ num := 0, form := .e below2 }] }
  { s with mem := s.mem.write 0x1000 1 }
def guarded : Ext := word 0 0 0xFF 0xFF 0xFF 0xFF 0

theorem test_meets_split : ∃ i, splitting.issue? = some i ∧
    (decide (i.place.count < 16) && i.ctx.kind == .span && decide (i.ctx.pForm guarded.guard.toNat = .e below2) && i.ctx.staged == 0
      && decide (∀ c ∈ i.ctx.cs, guardOf i below2 guarded.neg c = if coordOf i below2 c < 2 then true else !true)
      && decide (∃ c ∈ i.ctx.cs, coordOf i below2 c < 2) && decide (∃ c ∈ i.ctx.cs, ¬ coordOf i below2 c < 2)
      && i.grp.length == i.ctx.items.length && decide (i.ctx.split < 4) && decide (0 < splitting.freeSpans i.ctx.core)
      && decide (splitting.queueSpans i.ctx.core i.launch.slice i.launch.rcd.queue ≤ splitting.spanLimit i.launch.slice i.launch.rcd.queue)
      && splitting.targetOf i (i.pc + guarded.imm.signExtend 64) == .ok
      && decide (∀ x ∈ splitting.ctxs, x.id < splitting.nextId)) = true :=
  issued_some (by decide +kernel)

theorem test_meets_materialise : ∃ x ∈ splitting.ctxs, x.id < splitting.nextId ∧ ∀ y ∈ splitting.ctxs, y.id < splitting.nextId :=
  ⟨_, .head _, by decide +kernel⟩
/-! ### Every hypothesis is met: memory -/

/-- x2 names a word of the page that the code stands on; x3 is the index 0 of a base word. -/
def pointing : State := withX alone [(2, 0x10100), (3, 0)]
/-- A 32-bit load of global memory to x4, and a store of x3. -/
def load32 : Ext := word 127 0x20 4 2 0xC0 0xFF 0
def store32 : Ext := word 127 0x20 0xFF 2 0xC0 3 0
/-- A load of the constant bank, and a load and a store of shelf A. -/
def loadK : Ext := word 127 0x25 4 0xC0 0xC0 0xFF 0
def loadA : Ext := word 127 0x23 4 0xC0 0xC0 0xFF 0
def storeA : Ext := word 127 0x23 0xFF 0xC0 0xC0 3 0

/-- The cohort holds granule 5 of shelf A, which is resident. -/
def shelved : State :=
  { pointing with
    launches := pointing.launches.map fun l => { l with rcd := { l.rcd with shelfA := 1 } },
    cohorts := pointing.cohorts.map fun k => { k with shares := k.shares.map fun h => { h with granA := [5] } },
    grans := [{ core := 0, space := 2, num := 5, state := .resident, count := 0, holds := 0, rel := false }] }

/-- The pieces that a check finds. -/
def found (s : State) (i : Issue) (f : MemForm) (a : Access) (n : Nat) (aligned : Nat) (drops : Bool) (bad : Piece → Bool) (t : Item) : List Piece :=
  match s.checkAccess i f.space (s.ea i f t) n t a aligned drops bad with
  | .ok ps => ps
  | _ => []

/-- The accesses of items are found whole. -/
def reached (s : State) (i : Issue) (f : MemForm) (a : Access) (n : Nat) (aligned : Nat) (drops : Bool) (bad : Piece → Bool) (ts : List Item) : Bool :=
  (ts.all fun t => s.checkAccess i f.space (s.ea i f t) n t a aligned drops bad == .ok (found s i f a n aligned drops bad t))
    && !s.crowded i.launch.slice (ts.flatMap fun t => (found s i f a n aligned drops bad t).map fun p => (p.key, p.len))

theorem reached_reaches {s : State} {i : Issue} {f : MemForm} {a : Access} {n aligned : Nat} {drops : Bool} {bad : Piece → Bool} {ts : List Item}
    (h : reached s i f a n aligned drops bad ts = true) : Reaches s i f a aligned drops bad n ts (found s i f a n aligned drops bad) := by
  unfold reached at h
  simp only [Bool.and_eq_true, List.all_eq_true, Bool.not_eq_true'] at h
  exact ⟨fun t ht => by simpa using h.1 t ht, h.2⟩

theorem test_meets_constant_load : ∃ r ∈ loads loadK baseW baseL, ∃ i, Performs alone r.info i ∧ (r.form.space == 5 && i.ctx.kind != .span
    && (whose i r.uni).all (fun t => alone.ea i r.form t % widthBytes r.form.w == 0)
    && alone.fits (i.written r.info (loadOuts i r.d r.form.w r.uni fun t => alone.kBytes i.ctx (alone.ea i r.form t) (widthBytes r.form.w)))) = true :=
  ⟨_, .head _, meets_some (by decide +kernel)⟩

theorem test_meets_shelf_load : ∃ r ∈ loads loadA baseW baseL, ∃ i, Performs shelved r.info i ∧ (r.form.space == 3 && i.ctx.kind != .span && !shelved.acquiring i.ctx (i.grp.map Item.c)
    && (whose i r.uni).all (fun t => match shelved.checkShelf i r.form.space (shelved.ea i r.form t) (widthBytes r.form.w) false with
      | .ok a => (shelved.granAt a).state != .filling
      | .error _ => false)
    && shelved.fits (i.written r.info (loadOuts i r.d r.form.w r.uni fun _ => shelved.shelfRead { core := 0, space := 2, off := 5 * 4096 } 4))) = true :=
  ⟨_, .head _, meets_some (by decide +kernel)⟩

theorem test_meets_memory_loads : (loads load32 baseW baseL).all (fun r => meets pointing r.info fun i =>
    decide (r.form.space < 2) && i.ctx.kind != .span && !pointing.acquiring i.ctx (i.grp.map Item.c)
      && reached pointing i r.form .load (widthBytes r.form.w) 1 false (fun _ => false) (whose i r.uni)
      && pointing.fitsFrom (pointing.addLoads i r.form r.d r.uni ((whose i r.uni).map (checkedAt pointing i r.form
          (found pointing i r.form .load (widthBytes r.form.w) 1 false fun _ => false)))) i.ctx.core) = true := by
  decide +kernel

/-- The page has memory type 1, so a store leaves at once. -/
def typed (mt : Nat) (s : State) : State := { s with tlb := s.tlb.map fun e => { e with leaf := { e.leaf with mt := mt } } }

/-- `roomInL1`, checked. -/
def roomy (s : State) (core : Nat) (lines : List Nat) : Bool :=
  decide (∀ n ∈ lines, (s.l1.filter fun l => l.core == core && l1Set l.line == l1Set n).length
      + (lines.filter fun k => l1Set k == l1Set n && (s.l1Line? core k).isNone).length ≤ 8)
    && decide ((s.l1.filter fun l => l.core == core && !l.dirty.isEmpty).length
      + (lines.filter fun k => (s.l1Line? core k).all fun l => l.dirty.isEmpty).length ≤ 512)

theorem roomy_room {s : State} {core : Nat} {lines : List Nat} (h : roomy s core lines = true) : roomInL1 s core lines := by
  simpa [roomy, roomInL1] using h

/-- What a store asks, but for the type of the memory. -/
def storable (s : State) (r : StoreRow) (i : Issue) (normal : Bool) : Bool :=
  let ps := found s i r.form .store (widthBytes r.form.w) 1 true fun _ => false
  (!normal || (roomy s i.ctx.core (linesOf (i.aff.flatMap fun t => storeBytes (ps t) (storeData s i r.data r.form.w t)))
      && s.l1CanRoom i.ctx.core (linesAt i.aff ps))) && s.l2.all (fun v => !linePeer v.line || !v.dirty) &&
  decide (r.form.space < 2) && !s.acquiring i.ctx (i.grp.map Item.c) && !s.reading i.ctx (i.grp.map Item.c)
    && reached s i r.form .store (widthBytes r.form.w) 1 true (fun _ => false) i.aff
    && i.aff.all (fun t => (ps t).all fun p => (p.mt == 0) == normal) && r.form.hint != 1
    && i.aff.all (fun t => !(ps t).any Piece.device || !s.busyItem i.ctx t.c)
    && !s.atomicPending i.ctx (i.grp.map Item.c) (linesAt i.aff ps) && s.mayLeave i.ctx.core (linesAt i.aff ps) && r.form.ord != 2

theorem test_meets_stores : (stores store32 baseW baseL).all (fun r => meets pointing r.info fun i => storable pointing r i true) = true
    ∧ (stores store32 baseW baseL).all (fun r => meets (typed 1 pointing) r.info fun i => storable (typed 1 pointing) r i false) = true := by
  decide +kernel

theorem test_meets_shelf_store : ∃ r ∈ stores storeA baseW baseL, ∃ i, Performs shelved r.info i ∧ (decide (2 ≤ r.form.space) && shelved.shelf.wf && r.form.ord != 2
    && !shelved.acquiring i.ctx (i.grp.map Item.c) && !shelved.reading i.ctx (i.grp.map Item.c)
    && i.aff.all (fun t => match shelved.checkShelf i r.form.space (shelved.ea i r.form t) (widthBytes r.form.w) true with
      | .ok a => (shelved.granAt a).state != .filling && (shelved.granAt a).holds == 0
      | .error _ => false)) = true :=
  ⟨_, .head _, meets_some (by decide +kernel)⟩

/-- A line of the core's L1 is dirty. -/
def dirtied : State :=
  { alone with l1 := [{ core := 0, line := 2, bytes := [(0, 7)], dirty := [0], filled := 0, order := 1, used := 0, issuer := [] }], nextId := 9 }

theorem test_meets_release : (∃ i, dirtied.issue? = some i ∧ (i.ctx.rel.isNone && !dirtied.released i.ctx 4 dirtied.nextId) = true)
    ∧ ∃ i, (withCtx dirtied fun x => { x with rel := some { mark := 3, pc := 0x10000, lines := [] } }).issue? = some i
      ∧ decide (i.ctx.rel = some { mark := 3, pc := i.pc, lines := [] }) = true :=
  ⟨issued_some (by decide +kernel), issued_some (by decide +kernel)⟩

theorem test_meets_fence : ∃ i, Performs alone (uncut ((word 127 0x1C 0xFF 0xFF 0xFF 0xFF 0).info 0 0 0 0)) i ∧
    (i.ctx.rel.isNone && alone.released i.ctx 4 alone.nextId && !alone.reading i.ctx i.ctx.cs) = true :=
  meets_some (by decide +kernel)

/-- The page of x2 lies in field 3, and the crossings to it are gated. -/
def gated : State :=
  { pointing with tlb := pointing.tlb.map fun e => { e with leaf := { e.leaf with spa := e.leaf.spa + 12 * 4096 } },
                  slices := pointing.slices.map fun v => { v with lead := 0 } }

/-- A prefetch of x2, which may be asked for and which waits, and the cache controls that name a line, name none, and name all. -/
theorem test_meets_prefetch_and_cache_controls :
    let prf := word 127 0 0xFF 2 0xC0 0xFF 0
    let full (s : State) (i : Issue) (t : Item) : Bool := (s.prefetchWalks i (prf.memForm 0)).checkAccess i (prf.memForm 0).space
      ((s.prefetchWalks i (prf.memForm 0)).ea i (prf.memForm 0) t) 1 t .load 1 false (fun _ => false) == .full
    (meets pointing (uncut (prf.info 0 1 1 0)) fun i => i.aff.all fun t => !full pointing i t) = true
    ∧ (meets gated (uncut (prf.info 0 1 1 0)) fun i => i.aff.any (full gated i)) = true
    ∧ ([0, 1, 2, 3, 4].all fun op =>
      let e := word 127 (.ofNat 9 op) 0xFF (if op = 2 ∨ op = 3 then 0xFF else 2) 0xFF 0xFF 0
      meets pointing (uncut (e.info 0 (if e.a == 0xFF then 0 else 1) 0 0)) fun i => i.ctx.rel.isNone
        && !pointing.writePending i.ctx.core (linesOf ((i.aff.filterMap fun t => pointing.whereIs i (pointing.ea i (e.atomForm false) t)).map fun k => (k, 0)))
        && pointing.l1.isEmpty) = true := by
  decide +kernel

/-- A reduction, an atomic without a result and a `cas128` without one at x2. -/
def red32 : Ext := word 127 0 0xC0 2 3 0xFF 0
/-- What an atomic asks, but for the room of its results. -/
def atomic (s : State) (r : AtomRow) (i : Issue) : Bool :=
  let ps := found s i r.form .atomic r.size r.size (!r.result) r.bad
  (!r.result || i.ctx.kind != .span) && !s.acquiring i.ctx (i.grp.map Item.c) && !s.reading i.ctx (i.grp.map Item.c)
    && reached s i r.form .atomic r.size r.size (!r.result) r.bad i.aff && i.aff.all (fun t => ps t != []) && s.l1.isEmpty && s.asu.isEmpty
    && i.aff.length == 1 && i.aff.all (fun t => !(ps t).any Piece.device || !s.busyItem i.ctx t.c)
    && s.mayLeave i.ctx.core (linesAt i.aff ps) && r.form.ord == 0

theorem test_meets_atomics : (atomics red32).all (fun r => meets pointing r.info (atomic pointing r)) = true := by decide +kernel

theorem blockRegs_idle (ctxs : List Ctx) (ops : List Op) (j : Nat) (h : ∀ o ∈ ops, o.dst = []) :
    blockRegs ctxs ops j = blockRegs ctxs [] j := by
  have h0 : ∀ (f : RegRef → Option Nat) (p : Op → Bool), (ops.filter p).flatMap (fun o => o.dst.filterMap f) = [] := by
    intro f p
    rw [List.flatMap_eq_nil_iff]
    intro o ho
    rw [h o (List.mem_filter.mp ho).1]
    rfl
  unfold blockRegs
  simp only [h0, List.filter_nil, List.flatMap_nil]

theorem entries_idle (x : Ctx) (ops : List Op) (h : ∀ o ∈ ops, o.dst = []) : x.entries ops = x.entries [] := by
  have h0 : (ops.filter fun o => o.serves x && !o.dst.isEmpty) = [] := by
    rw [List.filter_eq_nil_iff]
    intro o ho
    simp [h o ho]
  unfold Ctx.entries
  simp only [h0, List.filter_nil]
  rfl

theorem coming_idle (ops : List Op) (ctxs : List Ctx) (h : ∀ o ∈ ops, o.dst = []) : (ops.flatMap fun o => o.coming ctxs) = [] := by
  rw [List.flatMap_eq_nil_iff]
  intro o ho
  simp [Op.coming, h o ho]

/-- Operations without registers take no room. -/
theorem fits_idle (s : State) (new : List Op) (core : Nat) (h : ∀ o ∈ s.ops ++ new, o.dst = []) :
    s.fitsFrom { s with ops := s.ops ++ new } core = true := by
  have g : ∀ (k : Cohort) ops, (∀ o ∈ ops, o.dst = []) → ∀ o ∈ k.opsIn core ops, o.dst = [] := fun k ops ho o hm => ho o (List.mem_filter.mp hm).1
  have h' : ∀ o ∈ s.ops, o.dst = [] := fun o ho => h o (List.mem_append_left _ ho)
  have h1 : ∀ (k : Cohort) mine j, blockRegs mine (k.opsIn core (s.ops ++ new)) j = blockRegs mine (k.opsIn core s.ops) j := fun k mine j =>
    (blockRegs_idle _ _ _ (g k _ h)).trans (blockRegs_idle _ _ _ (g k _ h')).symm
  have h3 : ∀ x : Ctx, x.entries (s.ops ++ new) = x.entries s.ops := fun x => (entries_idle x _ h).trans (entries_idle x _ h').symm
  have h4 : ∀ (k : Cohort) (x : Ctx), x.entries (k.opsIn core (s.ops ++ new)) = x.entries (k.opsIn core s.ops) := fun k x =>
    (entries_idle x _ (g k _ h)).trans (entries_idle x _ (g k _ h')).symm
  have h5 : ∀ (k : Cohort) mine, ((k.opsIn core (s.ops ++ new)).flatMap fun o => o.coming mine) = (k.opsIn core s.ops).flatMap fun o => o.coming mine :=
    fun k mine => (coming_idle _ _ (g k _ h)).trans (coming_idle _ _ (g k _ h')).symm
  have hm : ({ s with ops := s.ops ++ new } : State).overM core s.ctxs = s.overM core s.ctxs := by
    simp only [State.overM, State.sumShares, h1]
  have hs : ({ s with ops := s.ops ++ new } : State).overS core s.ctxs = s.overS core s.ctxs := by
    simp only [State.overS, State.sumShares, Share.taken, Share.excess, h4, h5]
  have hx : ({ s with ops := s.ops ++ new } : State).moreS core s.ctxs = s.moreS core s.ctxs := by
    simp only [State.moreS, State.sumShares, Share.excess, h3]
  unfold State.fitsFrom State.fitsBut
  simp [hm, hs, hx]

theorem test_meets_atomic_room : ∀ new : List Op, new.length ≤ 2 → (∀ o ∈ new, asked 0xC0 1 o) →
    pointing.fitsFrom { pointing with ops := pointing.ops ++ new } 0 = true := by
  intro new _ h
  refine fits_idle _ _ _ fun o ho => ?_
  rw [show pointing.ops = [] from rfl, List.nil_append] at ho
  rcases (h o ho).1 with h1 | h1 <;> rw [h1]
  rfl

/-- The shelf granule is empty, and its bytes are poisoned. -/
def emptied : State := { shelved with grans := [] }
def poisonedShelf : State := { shelved with shelfPoison := [(({ core := 0, space := 2, off := 5 * 4096 } : ShelfAt).key / 32, [])] }

theorem test_meets_failed_shelf_accesses :
    (∃ i, alone.issue? = some i ∧ decide (alone.shelfAt i.ctx i.launch.rcd 2 0 4 = none) = true)
    ∧ (∃ i, emptied.issue? = some i ∧ (match emptied.shelfAt i.ctx i.launch.rcd 2 0 4 with
      | some a => (emptied.granAt a).state == .empty
      | none => false) = true)
    ∧ ∃ i, poisonedShelf.issue? = some i ∧ (match poisonedShelf.shelfAt i.ctx i.launch.rcd 2 0 4 with
      | some a => (poisonedShelf.granAt a).state == .resident && poisonedShelf.shelfBad a 4
      | none => false) = true :=
  ⟨issued_some (by decide +kernel), issued_some (by decide +kernel), issued_some (by decide +kernel)⟩

/-- The page lies beyond the memory of its slice. -/
def forbidden : State := { pointing with tlb := pointing.tlb.map fun e => { e with leaf := { e.leaf with spa := 2 ^ 37 } } }

theorem test_meets_failed_accesses : ((loads load32 baseW baseL).take 1).all (fun r => meets forbidden r.info fun i => !r.uni && i.ctx.kind != .span
      && decide (r.form.space < 2) && !forbidden.acquiring i.ctx (i.grp.map Item.c)
      && i.aff.any fun t => (forbidden.checkAccess i r.form.space (forbidden.ea i r.form t) (widthBytes r.form.w) t .load 1 false fun _ => false).cause.isSome) = true
    ∧ (stores store32 baseW baseL).all (fun r => meets forbidden r.info fun i => i.ctx.kind != .span && decide (r.form.space < 2)
      && !forbidden.acquiring i.ctx (i.grp.map Item.c) && !forbidden.reading i.ctx (i.grp.map Item.c)
      && i.aff.any fun t => (forbidden.checkAccess i r.form.space (forbidden.ea i r.form t) (widthBytes r.form.w) t .store 1 true fun _ => false).cause.isSome) = true
    ∧ ((0 : Nat) = 0 ∧ 2 ^ 48 ≤ 2 ^ 48) ∧ ¬((0 : Nat) = 0 ∧ 2 ^ 48 ≤ 2 ^ 48 - 1) ∧ (2 ^ 48 - 1) % 4 ≠ 0 := by
  decide +kernel
/-! ### Every hypothesis is met: data on its way -/

/-- The package with slices 0 to 3 present. -/
def up : State :=
  { State.reset with valid := true, part := { fields := 1, clusters := [0x1FFFFF, 0, 0, 0], stackMask := 0xF } }

/-- A dirty line of core 0 beside a clean one. -/
def cached : State :=
  { up with
    nextId := 9,
    l1 := [{ core := 0, line := 2, bytes := [(0, 7)], dirty := [0], filled := 0, order := 1, used := 0, issuer := [] },
           { core := 0, line := 3, bytes := [(0, 8)], dirty := [], filled := 0, order := 2, used := 0, issuer := [] }] }

theorem test_meets_write_back : (∃ v ∈ cached.l1, cached.l1Line? 0 2 = some v ∧ cached.mayWriteBack v = true ∧ v.bytes ≠ [])
    ∧ ∃ v ∈ cached.l1, cached.l1Line? 0 3 = some v ∧ v.core = 0 ∧ v.line = 3 ∧ v.dirty = [] :=
  ⟨⟨_, .head _, by decide +kernel⟩, _, .tail _ (.head _), by decide +kernel⟩

/-- A write at its home, one whose invalidations were sent, and the acknowledgement owed for the first. -/
def written : State :=
  { up with
    nextId := 9,
    homeWrites := [{ id := 5, slice := 0, line := 2, pid := 0, cells := [(256, 7)], ack := some 4, sent := false, device := false, ev := false, peer := false },
                   { id := 6, slice := 0, line := 3, pid := 0, cells := [(384, 7)], ack := none, sent := true, device := false, ev := false, peer := false }],
    dir := [{ slice := 0, line := 3, holders := [(1, 1)], coarse := none, host := false, used := 0 }],
    ops := [{ id := 4, issue := 4, core := 0, launch := 1, cohort := 0, items := [0], flag := none, dst := [], kind := .ack (.field 0), va := 0, pc := 0,
              back := some [], fl := 0, parkedAt := none, cross := [], nofill := [], ev := false }] }
/-- The first write's line has a holder. -/
def heldLine : State := { written with dir := [{ slice := 0, line := 2, holders := [(1, 1)], coarse := none, host := false, used := 0 }] }

theorem test_meets_home_write : (∃ w ∈ written.homeWrites, written.homeWrites.find? (fun v => v.id == w.id && !v.sent) = some w ∧ written.firstAtHome w = true
      ∧ lineLocal w.line = true ∧ written.mem.wf = true ∧ (written.dirEntry w.line).isNone)
    ∧ (∃ w ∈ heldLine.homeWrites, heldLine.homeWrites.find? (fun v => v.id == w.id && !v.sent) = some w ∧ heldLine.firstAtHome w = true
      ∧ (heldLine.dirEntry w.line).isSome)
    ∧ (∃ w ∈ written.homeWrites, written.homeWrites.find? (fun v => v.id == w.id && v.sent && lineLocal v.line) = some w
      ∧ written.holdersParked w.line = false)
    ∧ (written.l2.all fun v => !linePeer v.line || !v.dirty) = true ∧ linePeer (lineOf (2 ^ 50)) = true :=
  ⟨⟨_, .head _, by decide +kernel⟩, ⟨_, .head _, by decide +kernel⟩, ⟨_, .tail _ (.head _), by decide +kernel⟩, by decide +kernel⟩

/-- The same acknowledgement, owed by a peer. -/
def owedByPeer : State := { written with ops := written.ops.map fun o => { o with kind := .ack .peer } }

theorem test_meets_acknowledgement : (∃ o ∈ written.ops, written.ops.find? (fun p => p.id == o.id) = some o ∧ o.kind = .ack (.field 0) ∧ o.back.isSome)
    ∧ ∃ o ∈ owedByPeer.ops, owedByPeer.ops.find? (fun p => p.id == o.id) = some o ∧ o.kind = .ack .peer :=
  ⟨⟨_, .head _, by decide +kernel⟩, _, .head _, by decide +kernel⟩

/-- The first write from field 1 that field 0 is to see. -/
def crossing : State :=
  { up with xwrites := [{ id := 5, pid := 0, src := 1, dst := 0, seq := 1, stamp := [0, 1, 0, 0], cells := [(256, 7)], ack := none, device := false, ev := false }] }

theorem test_meets_cross_field_write : ∃ w ∈ crossing.xwrites, crossing.xwrites.find? (fun v => v.id == w.id) = some w
    ∧ crossing.mayApply w.src w.dst w.seq w.stamp = true ∧ w.cells = (256, 7) :: [] ∧ crossing.dirEntry (lineOf 256) = none
    ∧ (∀ v ∈ crossing.homeWrites, v.line ≠ lineOf 256) ∧ crossing.mem.wf = true :=
  ⟨_, .head _, by decide +kernel⟩

/-- Field 1 has written and told field 0 nothing. -/
def beaconing : State :=
  { up with
    clock := 20, part := { fields := 3, clusters := [0x1FFFFF, 0x1FFFFF, 0, 0], stackMask := 0xFF },
    fields := State.reset.fields.set 1 { FieldSt.reset with vc := [0, 3, 0, 0] } }

theorem test_meets_beacon : beaconing.beaconDue 1 0 = true ∧ 0 < beaconing.fields.length ∧ 1 < (beaconing.fields.getD 0 FieldSt.reset).seen.length := by
  decide +kernel

/-- A load that may land in x4 of the one item, and an atomic whose result has come back. -/
def arriving (kind : OpKind) (back : Option (List Byte)) : State :=
  { alone with
    ops := [{ id := 99, issue := 99, core := 0, launch := 4294967297, cohort := 0, items := [0], flag := none, dst := [.x 4], kind := kind, va := 0x10100,
              pc := 0x10000, back := back, fl := 0, parkedAt := some 3, cross := [], nofill := [], ev := false }] }
def landing : State := arriving (.load [(0x100, 4)] 4 false none false) none
def answered : State := arriving (.atomic 0x100 4 none false) (some [1, 2, 3, 4])

theorem test_meets_load_landing : ∃ o ∈ landing.ops, landing.ops.find? (fun p => p.id == o.id) = some o ∧ o.kind = .load [(0x100, 4)] 4 false none false
    ∧ (landing.launch? o.launch).isSome = true ∧ landing.mayLand o = true ∧ landing.loadBad o = false ∧ o.cross = []
    ∧ landing.ecc = [] ∧ landing.l2err = [] ∧ (∀ p ∈ ([(0x100, 4)] : List (Nat × Nat)), ∀ j < p.2, Phys.isPeer (p.1 + j) = false)
    ∧ (∀ x ∈ landing.ctxs, landing.ctx? x.id = some x ∧ (o.serves x = true → x.kind ≠ .span)) ∧ o.dst.Nodup ∧ o.parkedAt = some 3 :=
  ⟨_, .head _, by decide +kernel⟩

theorem test_meets_atomic_landing : ∃ o ∈ answered.ops, answered.ops.find? (fun p => p.id == o.id) = some o ∧ o.kind = .atomic 0x100 4 none false
    ∧ Phys.isPeer 0x100 = false ∧ o.back = some [1, 2, 3, 4] ∧ (answered.launch? o.launch).isSome = true
    ∧ (∀ x ∈ answered.ctxs, answered.ctx? x.id = some x ∧ (o.serves x = true → x.kind ≠ .span)) ∧ o.dst.Nodup
    ∧ ∀ x ∈ answered.ctxs, o.serves x = true → x.fctl &&& o.fl = 0 :=
  ⟨_, .head _, by decide +kernel⟩

/-- A load of a peer's memory. -/
def remote : State := arriving (.load [(2 ^ 50, 4)] 4 false none false) none

theorem test_meets_remote_load : ∃ o ∈ remote.ops, remote.ops.find? (fun p => p.id == o.id) = some o ∧ o.remote = true :=
  ⟨_, .head _, by decide +kernel⟩

/-- A request at the head of its unit's queue. -/
def request : AsuReq :=
  { id := 7, issue := 6, cluster := 0, core := 0, ctx := 1, launch := 4294967297, cohort := 0, items := [0], key := 0x100, va := 0x10100,
    kind := .atomic 0 false false false [(0, 5, 0)], ops := [99], pc := 0x10000, waiting := false, seq := 0, stamp := [], device := false }
def asking : State := { answered with asu := [request] }

theorem test_meets_asu_request : asking.asu.find? (fun q => q.id == request.id) = some request ∧ asking.asuReady request = true
    ∧ request.key + request.size ≤ 2 ^ 40 ∧ asking.dirEntry (lineOf request.key) = none ∧ request.stamp = []
    ∧ asking.poisoned request.key request.size = false ∧ asking.ecc = [] ∧ asking.l2err = []
    ∧ asking.path (sliceOf request.core) request.key 0 = .up ∧ asking.mem.wf = true ∧ request.ops.Nodup := by
  decide +kernel

/-! ### Every hypothesis is met: groups, barriers and signals -/

/-- A launch with a record of its own in slot 1, whose handle stands in x2. -/
def record : GroupRec :=
  { core := 0, slot := 1, gen := 1, launch := 4294967297, members := [], phase := { arrived := [], since := none, broken := false, cause := 0, last := (0, 0) } }
def grouped : State := { withX alone [(2, record.handle), (3, 2)] with groups := [record], grpGens := [((0, 1), 1)] }
def member : State := { grouped with groups := [{ record with members := [{ launch := 4294967297, cohort := 0, c := 0 }] }] }
/-- An instruction on x2 with a result in x4, and without. -/
def onX2 : Ext := word 127 0 0xFF 2 0xFF 0xFF 0
def toX4 : Ext := word 127 0 4 0xFF 0xFF 0xFF 0

/-- Every slot of the core is taken. -/
def crowded : State := { alone with groups := (List.range 512).map fun n => { record with slot := n } }

theorem test_meets_new_group : (∃ i, Performs alone (uncut { toX4.info 1 0 0 0 with once := true }) i ∧ ((alone.freeSlot i.ctx.core).isSome && i.ctx.kind != .span
      && alone.fits (i.written { toX4.info 1 0 0 0 with once := true } [same 4 1])) = true)
    ∧ ∃ i, Performs crowded { toX4.info 1 0 0 0 with once := true } i ∧ ((crowded.freeSlot i.ctx.core).isNone && i.ctx.kind != .span
      && crowded.fits (i.written { toX4.info 1 0 0 0 with once := true } [same 4 (-1)])) = true :=
  ⟨meets_some (by decide +kernel), meets_some (by decide +kernel)⟩

theorem test_meets_membership : (∃ i, Performs grouped (uncut (onX2.info 0 1 0 0)) i ∧ (i.ctx.kind != .span
      && i.aff.all fun t => decide (grouped.group? i.ctx (handleAt grouped i onX2 t) = some record) && decide (t.groups.length < 8)) = true)
    ∧ (∃ i, Performs grouped (uncut { onX2.info 0 1 0 0 with once := true }) i ∧ (i.ctx.kind != .span
      && i.first.any fun t => decide (grouped.group? i.ctx (handleAt grouped i onX2 t) = some record)) = true)
    ∧ ∃ x ∈ grouped.ctxs, grouped.ctx? x.id = some x ∧ grouped.record? 0 1 = some record ∧ record.phase.arrived = [] ∧ x.key 0 ∉ record.members :=
  ⟨meets_some (by decide +kernel), meets_some (by decide +kernel), _, .head _, by decide +kernel⟩

theorem test_meets_barrier : (∃ i, Performs member (uncut { onX2.info 0 1 0 0 with once := true }) i ∧ (i.ctx.kind != .span && i.ctx.rel.isNone
      && i.aff.all (fun t => decide (member.barGroup i.ctx t.c (handleAt member i onX2 t) = some (.record 0 1)))
      && member.released i.ctx 1 member.nextId) = true)
    ∧ member.phase? (.record 0 1) = some record.phase ∧ record.phase.broken = false
    ∧ (∃ v ∈ ({ member with groups := [{ record with members := [{ launch := 4294967297, cohort := 0, c := 0 }, { launch := 4294967297, cohort := 0, c := 1 }] }] } :
        State).membersOf (.record 0 1), v ∉ [({ launch := 4294967297, cohort := 0, c := 0 } : ItemKey)])
    ∧ ∀ v ∈ member.membersOf (.record 0 1), v ∈ [({ launch := 4294967297, cohort := 0, c := 0 } : ItemKey)] :=
  ⟨meets_some (by decide +kernel), by decide +kernel⟩

theorem test_meets_wake : ∃ x ∈ alone.ctxs, alone.ctx? x.id = some x ∧ (alone.launch? x.launch).isSome = true ∧ x.kind ≠ .span ∧ x.items ≠ []
    ∧ (∀ z ∈ alone.ctxs, alone.ctx? z.id = some z ∧ (z.id ≠ x.id → z.launch = x.launch → z.cohort = x.cohort → ∀ c ∈ z.cs, c ∉ x.cs)) :=
  ⟨_, .head _, by decide +kernel⟩

/-- A barrier operation on the object at x4 at scope 4, with x3 = 2. -/
def onObject : Ext := word 127 0 0xC0 4 3 0xFF 0x80000000
def objected : State := withX alone [(3, 2), (4, 0x10140)]

theorem test_meets_objects : (objects onObject).all (fun r => meets objected r.info fun i =>
    let f : MemForm := { onObject.atomForm (onObject.modBit 0) with ord := if r.rel then 2 else 0 }
    let ps := found objected i f .atomic r.size r.size false Piece.notObject
    decide i.ctx.cs.Nodup && i.ctx.kind != .span && !objected.acquiring i.ctx (i.grp.map Item.c) && !objected.reading i.ctx (i.grp.map Item.c)
      && reached objected i f .atomic r.size r.size false Piece.notObject i.aff
      && i.aff.all (fun t => ps t != [] && (ps t).all fun p => !objected.poisoned p.key p.len)
      && i.aff.all (fun t => readLo objected i (onObject.src onObject.b) t == 2) && objected.l1.isEmpty && objected.asu.isEmpty && i.aff.length == 1
      && objected.mayLeave i.ctx.core (linesAt i.aff ps) && i.ctx.rel.isNone && objected.released i.ctx onObject.scope objected.nextId) = true := by
  decide +kernel

/-- A counted barrier of bound 3 with one arrival. -/
def counted : State := { up with mem := (up.mem.write 0x140 3).write 0x144 1 }

theorem test_meets_counted_barrier : counted.objNat 0 0x140 0 4 = 3 ∧ counted.objNat 0 0x140 4 4 = 1 ∧ counted.objNat 0 0x140 12 1 = 0
    ∧ counted.objNat 0 0x140 14 2 = 0 ∧ counted.mem.wf = true ∧ counted.waitersAt 0x140 = [] ∧ 1 + 1 < 3 ∧ 1 + 2 = 3 ∧ 3 < 1 + 3 := by
  decide +kernel
/-! ### Every hypothesis is met: copies, shelves, tile tasks, children, traps -/

/-- The descriptor of a copy that zeroes 64 bytes of shelf A (R117, R118), in q0 to q7; x2 is 0 and q8 up are 0. -/
def zeroFill : List Word := [0, 0, 0, 0, 0x10000080, 64, 0, 0]
def copying : State := withQ (withX shelved [(2, 0), (3, 0)]) ((List.range 16).map fun j => (j, zeroFill.getD j 0))
/-- A copy instruction on q0 with its number to x4. -/
def copyQ0 : Ext := word 127 0 4 0x80 0xFF 0xFF 0

theorem test_meets_copy : ∃ r ∈ copyForms copyQ0, ∃ i, Performs copying (copyInfo copyQ0 r.2) i ∧
    (r.2 == 0 && zeroFill.length == copyWords r.2 && (List.range 8).all (fun j => i.ctx.qForm (copyQ0.a.toNat - 128 + j) == .u (zeroFill.getD j 0))
      && decide (copying.checkCopy i.ctx i.launch zeroFill (readDesc r.2 zeroFill []) = none) && copying.copies.isEmpty && i.ctx.kind != .span
      && copying.fits (i.written (copyInfo copyQ0 r.2) [same 4 1])) = true :=
  ⟨_, .head _, meets_some (by decide +kernel)⟩

/-- q0 is 0. -/
def onQ0 : Ext := word 127 1 4 0x80 0xFF 0xFF 0

theorem test_meets_copy_status_and_cancel : (∃ i, Performs copying { onQ0.info 1 1 0 0 with whole := true } i ∧
      (decide (copying.src32 i.ctx i.launch.rcd (onQ0.src onQ0.a) = .u 0) && i.ctx.kind != .span
        && copying.fits (i.written { onQ0.info 1 1 0 0 with whole := true } [same 4 0xFFFF])) = true)
    ∧ ∃ i, Performs copying { onQ0.info 0 1 0 0 with whole := true } i ∧ decide (copying.src32 i.ctx i.launch.rcd (onQ0.src onQ0.a) = .u 0) = true :=
  ⟨meets_some (by decide +kernel), meets_some (by decide +kernel)⟩

/-- `grel` of the first granule of shelf A: out of the shelf's extent, free to release, and held. -/
def relA : Ext := word 127 2 0xFF 0x80 0xFF 0xFF 0
def heldGran : State := { copying with grans := copying.grans.map fun g => { g with holds := 1 } }
def offShelf : State := withQ copying [(0, 0x40)]

theorem test_meets_release_of_granules : (∃ i, Performs offShelf { relA.info 0 1 0 0 with whole := true } i ∧
      decide (offShelf.src32 i.ctx i.launch.rcd (relA.src relA.a) = .u 0x40) = true)
    ∧ (∃ i, Performs copying { relA.info 0 1 0 0 with whole := true } i ∧ (decide (copying.src32 i.ctx i.launch.rcd (relA.src relA.a) = .u 0)
      && (copying.shelfOf i.ctx.core i.ctx.launch i.ctx.cohort i.launch.rcd 2 0 4096).isSome && i.ctx.rel.isNone
      && (copying.gransOf i.ctx.core i.ctx.launch i.ctx.cohort i.launch.rcd 2 0 4096).all fun g =>
        !(granOf copying g).rel && ((granOf copying g).state == .empty || ((granOf copying g).state == .resident && (granOf copying g).holds == 0))) = true)
    ∧ ∃ i, Performs heldGran { relA.info 0 1 0 0 with whole := true } i ∧
      ((heldGran.gransOf i.ctx.core i.ctx.launch i.ctx.cohort i.launch.rcd 2 0 4096).head?.any fun g =>
        !(granOf heldGran g).rel && (granOf heldGran g).state == .resident && (granOf heldGran g).holds != 0) = true :=
  ⟨meets_some (by decide +kernel), meets_some (by decide +kernel), meets_some (by decide +kernel)⟩

theorem test_meets_granule_status : ∃ i, Performs copying { onQ0.info 1 1 0 0 with whole := true } i ∧
    (decide (copying.src32 i.ctx i.launch.rcd (onQ0.src onQ0.a) = .u 0) && (shelfCore i.ctx.core 0).isSome && i.ctx.kind != .span
      && copying.fits (i.written { onQ0.info 1 1 0 0 with whole := true } [same 4 2])) = true :=
  meets_some (by decide +kernel)

/-- Publish window 0 of ASID 0 is enabled. -/
def publishing : State := copying.setVreg 0 0x804 0x80000000

theorem test_meets_publish : ∃ i, Performs publishing { onQ0.info 0 1 0 0 with once := true, whole := true } i ∧
    (decide (publishing.src32 i.ctx i.launch.rcd (onQ0.src onQ0.a) = .u 0)
      && (publishing.vreg (publishing.leader i.launch.slice) 0x804).toNat.testBit 31
      && fieldOfWord (publishing.vreg (publishing.leader i.launch.slice) 0x804) 16 8 == i.launch.asid) = true :=
  meets_some (by decide +kernel)

/-- The words of a ZERO record of accumulator 0 (R289), in q0 to q15, with FMT 0 in x2. -/
def zeroTask : List Word := 1 :: List.replicate 15 0
def posting : State := withQ (withX alone [(2, 0)]) ((List.range 16).map fun j => (j, zeroTask.getD j 0))
def postQ0 : Ext := word 127 0 0xFF 0x80 2 0xFF 0
/-- The record's unused word 1 is not 0; two items whose FMT differs. -/
def badTask : State := withQ posting ((List.range 16).map fun j => (j, if j = 1 then 5 else zeroTask.getD j 0))
def mixedTask : State :=
  withCtx (withQ (place .strand 2 0x3F000FF0) ((List.range 16).map fun j => (j, zeroTask.getD j 0))) fun x => { x with
    x := [{ num := 2, form := .m [(0, 0), (1, 1)], live := [0, 1] }] }

theorem test_meets_post : (∃ i, Performs posting { postQ0.info 0 16 1 0 with long := true, once := true, whole := true } i ∧
      ((List.range 16).all (fun j => i.ctx.qForm (postQ0.a.toNat - 128 + j) == .u (zeroTask.getD j 0))
        && i.aff.all (fun t => readLo posting i (postQ0.src postQ0.b) t == 0) && decide (posting.checkTask i.ctx i.launch.rcd zeroTask 0 = none)
        && !posting.deskFull i.ctx.core) = true)
    ∧ (∃ i, Performs badTask { postQ0.info 0 16 1 0 with long := true, once := true, whole := true } i ∧
      decide (badTask.checkTask i.ctx i.launch.rcd (zeroTask.set 1 5) 0 = some 5) = true)
    ∧ ∃ i, Performs mixedTask { postQ0.info 0 16 1 0 with long := true, once := true, whole := true } i ∧
      (i.aff.any fun t => i.aff.any fun v => readLo mixedTask i (postQ0.src postQ0.b) t != readLo mixedTask i (postQ0.src postQ0.b) v) = true :=
  ⟨meets_some (by decide +kernel), meets_some (by decide +kernel), meets_some (by decide +kernel)⟩

/-- A chain is open on accumulator 0; a report address in q0 and q1. -/
def chained : State := { posting with slots := [{ core := 0, launch := 4294967297, cohort := 0, acc := 0, bank := none, chain := some 5 }] }
def reportQ0 : Ext := word 127 2 0xFF 0x80 0xFF 0xFF 0

theorem test_meets_chains : (∃ i, Performs posting { bare.info 0 0 0 0 with once := true, whole := true } i ∧ (!posting.deskFull i.ctx.core
      && decide (posting.slotFail i.ctx 0 = none) && decide ((posting.slot i.ctx.core i.ctx.launch i.ctx.cohort 0).chain = none)) = true)
    ∧ ∃ i, Performs (withQ chained [(0, 0x100), (1, 0)]) { reportQ0.info 0 2 0 0 with once := true, whole := true } i ∧
      (let s := withQ chained [(0, 0x100), (1, 0)]
       decide (s.src32 i.ctx i.launch.rcd (reportQ0.src reportQ0.a) = .u 0x100) && decide (s.srcHi i.ctx i.launch.rcd (reportQ0.src reportQ0.a) false = .u 0)
        && i.aff.all (fun t => (readWide s i (reportQ0.src reportQ0.a) false t).toNat % 16 == 0) && decide (s.slotFail i.ctx 0 = none)
        && decide ((s.slot i.ctx.core i.ctx.launch i.ctx.cohort 0).chain = some 5) && !s.deskFull i.ctx.core) = true :=
  ⟨meets_some (by decide +kernel), meets_some (by decide +kernel)⟩

/-- x2 names a child's record on a page that the core may read. -/
def parenting : State := withX alone [(2, 0x10100)]
def childX2 : Ext := word 127 0 4 2 0xFF 0xFF 0

theorem test_meets_launch : ∃ i, Performs parenting { childX2.info 1 1 0 0 with long := true, once := true, whole := true } i ∧
    (i.first.any (fun t => parenting.ea i { childX2.atomForm false with space := 0 } t == 0x10100)
      && decide (parenting.translate i.ctx.core i.launch.slice i.launch.asid 0 .load (parenting.lentTo (some i.ctx.id) none) [(0x10100, 128)] = .ok [{ key := 0x100, len := 128, mt := 0 }])
      && parenting.path (sliceOf i.ctx.core) 0x100 128 == .up && !parenting.crowded i.launch.slice [(0x100, 128)]
      && !parenting.recordHeld i.ctx (i.aff.map Item.c) { key := 0x100, len := 128, mt := 0 }
      && !parenting.recordBad i.ctx.core { key := 0x100, len := 128, mt := 0 }
      && !parenting.poisoned 0x100 128 && !Phys.isPeer 0x100 && i.ctx.kind != .span
      && parenting.fits (i.written { childX2.info 1 1 0 0 with long := true, once := true, whole := true } [same 4 1])) = true :=
  meets_some (by decide +kernel)

/-- A trap whose argument stands in q0 and q1. -/
def trapQ0 : Ext := word 127 1 0xFF 0x80 0xFF 0xFF 7

theorem test_meets_trap : ∃ i, Performs copying { trapQ0.info 0 2 0 0 with long := true, once := true } i ∧ (i.ctx.kind != .span && i.ctx.rel.isNone
    && copying.released i.ctx 6 copying.nextId && isU (copying.src32 i.ctx i.launch.rcd (trapQ0.src trapQ0.a))
    && isU (copying.srcHi i.ctx i.launch.rcd (trapQ0.src trapQ0.a) false)) = true :=
  meets_some (by decide +kernel)

theorem test_meets_break : (∃ i, Performs alone { bare.info 0 0 0 0 with whole := true } i ∧ (alone.vreg i.launch.slice 0xE94).toNat.testBit 0 = false)
    ∧ ∃ i, Performs (alone.setVreg 0 0xE94 1) { bare.info 0 0 0 0 with whole := true } i ∧ ((alone.setVreg 0 0xE94 1).vreg i.launch.slice 0xE94).toNat.testBit 0 = true := by
  constructor
  · obtain ⟨i, h, hp⟩ := meets_some (s := alone) (m := { bare.info 0 0 0 0 with whole := true })
      (p := fun i => !(alone.vreg i.launch.slice 0xE94).toNat.testBit 0) (by decide +kernel)
    exact ⟨i, h, by simpa using hp⟩
  · exact meets_some (by decide +kernel)

/-! ### Every hypothesis is met: faults -/

theorem test_meets_fault : (∃ x ∈ alone.ctxs, alone.ctx? x.id = some x ∧ (alone.launch? x.launch).isSome = true ∧ x.kind ≠ .span ∧ 0 ∈ x.cs)
    ∧ alone.ctxs.length = 1 ∧ (∀ z ∈ alone.ctxs, z.id < alone.nextId) ∧ ([0] : List Nat).Nodup := by
  decide +kernel

/-- A record that the one item waits for, with sequence number 6, and one not yet written. -/
def faultRec : Fault15 :=
  { id := 40, slice := 0, seq := some 6, cause := 5, scope := 0, auto := false, launch := 4294967297, cohort := 0, core := 0, cfirst := 0, mask := 1, pc := 0,
    region := 0, detail := 0, ctx := 1, items := [0], next := false, needs := true }
def faulted : State :=
  { withCtx alone fun x => { x with items := x.items.map fun t => { t with wait := .fault 40 } } with
    faults := [faultRec, { faultRec with id := 41, seq := none }] }

theorem test_meets_fault_actions : faulted.pendingFault 0 6 = some faultRec
    ∧ (∀ x ∈ faulted.ctxs, faulted.ctx? x.id = some x ∧ x.held ≠ some faultRec.id ∧ x.cs.Nodup)
    ∧ (∃ l, faulted.launch? faultRec.launch = some l) ∧ (faulted.setVreg 0 0xE14 0x0FFFFFFF).pendingFault 0 6 = some faultRec
    ∧ (faulted.setVreg 0 0xE14 0x0FFFFFFF).area 0 0xE14 0xE18 = none :=
  ⟨by decide +kernel, by decide +kernel, ⟨_, rfl⟩, by decide +kernel⟩

/-- A record of a launch that is gone, with a dump area of one page. -/
def dumping : State := { up.setVreg 0 0xE18 1 with faults := [faultRec] }

theorem test_meets_dump : dumping.pendingFault 0 6 = some faultRec ∧ dumping.area 0 0xE14 0xE18 = some (0, 4096) ∧ dumping.mem.wf = true
    ∧ (dumping.folioBytes { Folio.blank 2 0 dumping.clock with faults := [faultRec] } 0 (dumping.faultingPc faultRec)).length ≤ 4096
    ∧ ∃ n, faulted.area 0 0xE14 0xE18 = some (0, n) ∧ n < 64 :=
  ⟨by decide +kernel, by decide +kernel, by decide +kernel, by decide +kernel, 0, by decide +kernel⟩

/-- `keysApart`, checked. -/
def apartB (s : State) : Bool := s.ctxs.all fun x => decide (s.ctx? x.id = some x ∧ x.id < s.nextId ∧ x.cs.Nodup
    ∧ ∀ y ∈ s.ctxs, y.id ≠ x.id → ∀ k ∈ x.keys, k ∉ y.keys)
  && x.items.all fun t => match t.wait with
    | .bar _ _ _ => false
    | _ => true

theorem apart_keys {s : State} (h : apartB s = true) : keysApart s := by
  intro x hx
  have hx := List.all_eq_true.mp h x hx
  simp only [Bool.and_eq_true, decide_eq_true_eq] at hx
  refine ⟨hx.1.1, hx.1.2.1, hx.1.2.2.1, hx.1.2.2.2, fun t ht g n pd hw => ?_⟩
  have := List.all_eq_true.mp hx.2 t ht
  simp [hw] at this

theorem test_meets_keys_apart : keysApart faulted ∧ keysApart alone ∧ keysApart apart :=
  ⟨apart_keys (by decide +kernel), apart_keys (by decide +kernel), apart_keys (by decide +kernel)⟩

theorem test_meets_fault_record : ∃ f ∈ faulted.faults, faulted.faults.find? (fun g => g.id == f.id && g.seq.isNone) = some f ∧ faulted.faultRoom f.slice = true
    ∧ faulted.mem.wf = true ∧ faulted.holdersOf f.slice (fieldOfWord (faulted.vreg f.slice 0xE00) 0 28 * 4096
        + 64 * fieldOfWord (faulted.vreg f.slice 0xE04) 0 7) 64 = none
    ∧ (∀ j < 64, Phys.isLocal (faulted.localPhys f.slice (fieldOfWord (faulted.vreg f.slice 0xE00) 0 28 * 4096
        + 64 * fieldOfWord (faulted.vreg f.slice 0xE04) 0 7 + j)) = true)
    ∧ f.slice < faulted.slices.length :=
  ⟨_, .tail _ (.head _), by decide +kernel⟩

/-- A system call with sequence number 3, and one not yet written. -/
def call : Syscall :=
  { id := 50, slice := 0, seq := some 3, code := 1, launch := 4294967297, cohort := 0, core := 0, cfirst := 0, mask := 1, region := 0, pc := 0, arg := 0, items := [0], ctx := 1 }
def calling : State :=
  { withCtx alone fun x => { x with items := x.items.map fun t => { t with wait := .syscall 50 } } with
    syscalls := [call, { call with id := 51, seq := none }] }

theorem test_meets_system_calls : calling.syscalls.find? (fun d => d.slice == 0 && d.seq == some 3) = some call
    ∧ (∀ x ∈ calling.ctxs, calling.ctx? x.id = some x ∧ x.cs.Nodup)
    ∧ (∃ x ∈ calling.ctxs, (calling.launch? x.launch).isSome ∧ ∃ t ∈ x.items, t.wait = .syscall call.id)
    ∧ (∃ c ∈ calling.syscalls, calling.syscalls.find? (fun d => d.id == c.id && d.seq.isNone) = some c ∧ calling.callRoom c.slice = true) ∧ calling.hostUp = true
    ∧ (calling.vreg 0 0xE54).getLsbD 1 = false :=
  ⟨by decide +kernel, by decide +kernel, ⟨_, .head _, by decide +kernel⟩, by decide +kernel⟩
/-! ### Single steps with the results that the spec's examples give -/

/-- One step of the instruction that stands in some words, from a state, ends in a state with a property. -/
def runs (ws : List Nat) (s : State) (p : State → Bool) : Bool :=
  match decode (ws.flatMap (leBytes 4)) with
  | .ok (j, _) => gives j s p
  | .error _ => false

/-- The flags that the first context has raised. -/
def raised (s : State) : BitVec 5 := (s.ctxs.head?.map Ctx.fflags).getD 0

/-- An example: its words, the x registers before, the register to look at, its value afterwards and the flags raised. -/
structure Sample where
  words : List Nat
  before : List (Nat × Word)
  reg : Nat
  value : Word
  flags : BitVec 5

def Sample.holds (e : Sample) : Bool := runs e.words (withX alone e.before) fun u => xVal u e.reg 0 == e.value && raised u == e.flags

/-- The examples of the moves and of the vector arithmetic (06, 09). -/
theorem test_examples_integer : ([
    { words := [0x5B0601FD, 0x1234], before := [], reg := 3, value := 0x1234, flags := 0 },
    { words := [0x841FE000, 0x0602FFFF, 0x10], before := [(2, 1010)], reg := 6, value := 0, flags := 0 },
    { words := [0x880FE001, 0x010203FF, 0], before := [(2, 0x7FFFFFF0), (3, 0x20)], reg := 1, value := 0x7FFFFFFF, flags := 0 },
    { words := [0x1D080014], before := [(5, 0x8000)], reg := 4, value := 16, flags := 0 },
    { words := [0x897FE000, 0x010203F0, 0x04050607], before := [(2, 0x44332211), (3, 0x88776655)], reg := 1, value := 0x55667788, flags := 0 },
    { words := [0x897FE000, 0x010203F0, 0x17], before := [(2, 0x44332211), (3, 0x88776655)], reg := 1, value := 0x111111FF, flags := 0 },
    { words := [0x89CFE001, 0x0A02030A, 0], before := [(2, 0xFFFFFFFF), (3, 5), (10, 0), (11, 1)], reg := 10, value := 0xFFFFFFFB, flags := 0 },
    { words := [0x89CFE001, 0x0A02030A, 0], before := [(2, 0xFFFFFFFF), (3, 5), (10, 0), (11, 1)], reg := 11, value := 0, flags := 0 }
    ] : List Sample).all Sample.holds = true := by decide +kernel

theorem test_examples_float : ([
    { words := [0x8C2FE000, 0x04050506, 0], before := [(5, 0x3F800001), (6, 0xBF800002)], reg := 4, value := 0x28800000, flags := 0 },
    { words := [0x33900000], before := [(9, 0x80000001)], reg := 9, value := 0, flags := 0 },
    { words := [0x8CAFE000, 0x0304FFFF, 0], before := [(4, 0x40400000)], reg := 3, value := 0x41000000, flags := 0 },
    { words := [0x8CAFE000, 0x0304FFFF, 0], before := [(4, 0xC3160000)], reg := 3, value := 0, flags := flagUF ||| flagNX },
    { words := [0x18040C10], before := [(3, 0x3C003C00), (4, 0x7BFF0001)], reg := 2, value := 0x7BFF3C00, flags := flagNX },
    { words := [0x18040C10], before := [(3, 0x3C007BFF), (4, 0x7BFF7BFF)], reg := 2, value := 0x7BFF7C00, flags := flagOF ||| flagNX },
    { words := [0x940FE001, 0x0203FFFF, 0], before := [(3, 0xC0300000)], reg := 2, value := 0xFFFFFFFE, flags := flagNX },
    { words := [0x940FE001, 0x0203FFFF, 0], before := [(3, 0x4F32D05E)], reg := 2, value := 0x7FFFFFFF, flags := flagNV },
    { words := [0x942FE080, 0x0203FFFF, 0], before := [(3, 0x3F808000)], reg := 2, value := 0x3F80, flags := flagNX },
    { words := [0x943FE009, 0x05060708, 0], before := [(6, 0x3F980000), (7, 0x43FA0000), (8, 0xAABBCCDD)], reg := 5, value := 0x7E3ACCDD,
      flags := flagOF ||| flagNX },
    { words := [0x945FE00A, 0x0102FFFF, 0], before := [(2, 0x2000)], reg := 1, value := 0x3DCCCCCD, flags := flagNX }
    ] : List Sample).all Sample.holds = true := by decide +kernel

/-- A strand whose items hold different values in x8 and x10. -/
def several (vs : List (Nat × Word)) : State :=
  withCtx (place .strand vs.length 0x3F000FF0) fun x => { x with
    x := [{ num := 8, form := .m vs, live := vs.map Prod.fst }, { num := 10, form := .m vs, live := vs.map Prod.fst }] }

/-- The exchange and the reduction of 06's examples. -/
theorem test_examples_items : runs [0x848FE003, 0x0708F0FF, 1] (several [(0, 10), (1, 11), (2, 12), (3, 13)])
      (fun u => (List.range 4).map (xVal u 7) == [11, 10, 13, 12]) = true
    ∧ runs [0x849FE800, 0x090AFFFF, 0] (several [(0, 5), (1, 7), (2, 0xFFFFFFFE)]) (fun u => (List.range 3).all fun c => xVal u 9 c == 10) = true := by
  decide +kernel

/-- One step runs the base word of `clz` and moves the item past it (R29, R245). -/
theorem test_step_advances : (match step (withX (place .strand 1 0x1D080014) [(5, 0x8000)]) with
    | .next u => xVal u 4 0 == 16 && (u.ctxs.head?.bind fun x => x.items.head?).any fun t => t.pc == 0x10004
    | _ => false) = true := by decide +kernel

/-- A `trap` makes a system call (R424). -/
theorem test_trap_calls : gives (.trap trapQ0) copying (fun u => !u.syscalls.isEmpty) = true := by decide +kernel

/-- `brk` with breakpoints enabled records a fault Breakpoint (R426). -/
theorem test_break_faults : gives (.brk bare) (alone.setVreg 0 0xE94 1) (fun u => (u.faults.map Fault15.cause) == [0x10]) = true := by decide +kernel

/-- The host's read of a counter clears it (R5). -/
theorem test_counter_clears : gives (.l2bRecallRead 0) (up.setVreg 0 0x62C 9) (fun u => u.resp == some (.word 9) && u.vreg 0 0x62C == 0) = true := by
  decide +kernel

/-- A write to a sector of code keeps what it held while a launch is resident (R57). -/
theorem test_old_code_kept : (((alone.storeCells [(1, 9)]).oldCode.map fun e => (e.sector, e.bytes)) == [(0, alone.mem.readList 0 32)]) = true ∧ (up.storeCells [(1, 9)]).oldCode = [] := by
  decide +kernel
/-! ### Every hypothesis is met: registers, reset, bring-up -/

/-- Firmware has been pushed and only slices 0 to 3 are present, nothing resident. -/
theorem test_meets_register_writes : up.serves 0 = true ∧ vfMayWrite .cmd 0x604 = true ∧ vfMayWrite .curator 0x1104 = true
    ∧ ((up.setVreg 0 0x804 0x80000000).reg 1 0x804).getLsbD 31 = true ∧ (up.reg 1 0x804).getLsbD 31 = false
    ∧ vfMayWrite .cmd 0x800 = true ∧ (up.setVreg 0 0x804 0x80000000).serves 0 = true ∧ up.slices.length = 16
    ∧ (0x604 ≠ 0x400 ∧ 0x604 ≠ 0x420 ∧ 0x604 ≠ 0xE00 ∧ (0x604 < 0x480 ∨ 0x500 ≤ 0x604)) ∧ up.serves 9 = false ∧ State.reset.valid = false := by
  decide +kernel

theorem test_meets_queue_and_ring_registers : up.quiesced 0 = true ∧ alone.quiesced 0 = false ∧ alone.serves 0 = true
    ∧ (((1 : Word) &&& 0x0FFFFFFF).toNat * 4096 + ringBytes 0x400 ≤ up.localSize 0)
    ∧ ¬ (((0x0FFFFFFF : Word) &&& 0x0FFFFFFF).toNat * 4096 + ringBytes 0x400 ≤ up.localSize 0)
    ∧ ((0x0FFFFFFE : Word) &&& 0x0FFFFFFE).toNat * 4096 + ringBytes 0xE00 = 2 ^ 40 - 8192 + ringBytes 0xE00
    ∧ ((2 : Word) &&& 0x0FFFFFFE).toNat * 4096 + ringBytes 0xE00 ≤ up.localSize 0 := by
  decide +kernel

/-- Logical plane 2 is carried by group 5; it is parked in the second. -/
def planed : State := up.setReg 0 0x2118 0x20
def parking : State := { planed with edges := planed.edges.set 5 { EdgeSt.reset with parks := 4 } }

theorem test_meets_plane_maps : up.valid = true ∧ (up.planeGroups 2).isEmpty = true ∧ (planed.planeGroups 2).isEmpty = false
    ∧ planed.parkedClass 2 = false ∧ parking.parkedClass 2 = true := by
  decide +kernel

theorem test_meets_hash_control : (0x80000050 : Word).getLsbD 31 = true ∧ 79 < fieldOfWord 0x80000050 0 7
    ∧ ¬ ((0x8000004F : Word).getLsbD 31 = true ∧ 79 < fieldOfWord 0x8000004F 0 7) ∧ up.closed 0 = false := by
  decide +kernel

theorem test_meets_shadow_control : (0x80010000 : Word).getLsbD 31 = true ∧ fieldOfWord 0x80010000 0 16 = 0
    ∧ ((0x80000001 : Word).getLsbD 31 = true → fieldOfWord 0x80000001 0 16 ≠ 0) ∧ ((0 : Word).getLsbD 31 = true → fieldOfWord 0 0 16 ≠ 0) := by
  decide +kernel

/-- The default bind is due in slice 0; slice 0 is locked; a group register names slice 1. -/
def binding : State := up.setSlice 0 fun v => { v with bindDue := true }
def lockedUp : State := up.setSlice 0 fun v => { v with tdisp := 1 }

theorem test_meets_binds_groups_and_migration_control : (binding.leader 0 = 0 ∧ (binding.slice 0).bindDue = true ∧ up.slices.length = 16)
    ∧ (up.locked 0 = false ∧ lockedUp.locked 0 = true ∧ lockedUp.closed 0 = false ∧ fieldOfWord 0 0 4 = lockedUp.nextLead 0
      ∧ fieldOfWord 1 0 4 ≠ lockedUp.nextLead 0)
    ∧ fieldOfWord 0xC0000000 30 2 = 3 ∧ fieldOfWord 0x60000000 30 2 ≠ 3 ∧ (0x60000000 : Word).getLsbD 29 = true ∧ (up.migCtl 0).getLsbD 29 = false := by
  decide +kernel

theorem test_meets_counters : Counter 3 (.l2bRecallRead 3, 0x62C, -1) ∧ Counter 3 (.slcScrheadRead 3, 0xE28, 0xFF00) ∧ up.serves 3 = true
    ∧ up.present 4 = false ∧ up.present 3 = true := by
  constructor
  · exact .tail _ (.tail _ (.head _))
  constructor
  · exact .tail _ (.tail _ (.tail _ (.tail _ (.tail _ (.tail _ (.tail _ (.tail _ (.head _))))))))
  decide +kernel

/-- An image for a part of one field whose steps all pass. -/
def image : FirmwareImage :=
  { readable := true, signed := true, fields := 1, clusters := [0x1FFFFF, 0, 0, 0], stackMask := 0xF, results := [] }
/-- A part before any firmware whose Port H is up, and one whose image is said to be too long. -/
def cold : State := { State.reset with portH := true }
def tooLong : State := cold.setReg 0 0x28 0xFFFFFFFF

theorem test_meets_firmware : (cold.valid = false ∧ image.readable = true ∧ cold.hostUp = true ∧ (cold.reg 0 0x28).toNat ≤ 2 ^ 26 ∧ image.signed = true)
    ∧ (State.reset.valid = false ∧ { image with readable := false }.readable = false ∧ tooLong.valid = false ∧ 2 ^ 26 < (tooLong.reg 0 0x28).toNat)
    ∧ ((bringUp cold.bring image).err = 0 ∧ (bringUp cold.bring image).cut = false)
    ∧ ((bringUp cold.bring { image with results := [.failed] }).err ≠ 0 ∧ (bringUp cold.bring { image with results := [.passed, .cut] }).cut = true)
    ∧ (∀ r ∈ image.results, r = .passed) ∧ { image with results := [.failed] }.results.head? = some .failed := by
  decide +kernel

/-- Sector 5 of stack 0 holds a single error that a scrub corrects, sector 6 a double one. -/
def erring : State := { up with ecc := [(5, false), (6, true)] }

theorem test_meets_power : (up.part.fields.getLsbD 0 = true ∧ up.part.fields.getLsbD 1 = false ∧ 0 < up.fields.length)
    ∧ (800 ∈ [940, 800, 640] ∧ 900 ∉ [940, 800, 640] ∧ up.present (sliceOf 0) = true)
    ∧ erring.ecc.find? (fun d => d.1 == 0 * 2 ^ 31 + 5) = some (5, false) ∧ erring.ecc.find? (fun d => d.1 == 0 * 2 ^ 31 + 6) = some (6, true)
    ∧ ∀ e ∈ erring.ecc, e.1 ≠ 0 * 2 ^ 31 + 7 := by
  decide +kernel
/-! ### Every hypothesis is met: launches -/

/-- Bytes of little-endian numbers. -/
def cellsOf (ws : List (Nat × Nat × Nat)) : Memory := ws.foldl (fun m w => m.writeList w.1 (leBytes w.2.1 w.2.2)) []

/-- Slices 0 to 3 with an address space: tables at 0x1000 to 0x4000, page 1 at 0x10000 (R69 to R71), an entry that is writable
but not readable for page 2, and a kernel object's header (R52). -/
def tabled : State :=
  { up with mem := cellsOf [(0, 8, 0x1001), (0x1000, 8, 0x2003), (0x2000, 8, 0x3003), (0x3000, 8, 0x4003), (0x4008, 8, 0x1001D), (0x4010, 8, 9),
      (0x10000, 4, 0x4F4B4C5A), (0x10004, 2, 1), (0x10008, 4, 0x40), (0x1000C, 4, 1), (0x10010, 4, 0x80)] }

/-- The queue's binding takes core 0 of slice 0 (R393). -/
def bound : State := (tabled.setVreg 0 0xC00 0x80000001).setVreg 0 0xC04 0x00011C00

/-- A sealed record of one item for page 1's object in slot 0; one whose KOBJ is not there. -/
def sealedRec : Memory := cellsOf [(0, 8, 0x10000), (0x20, 4, 1), (0x24, 4, 1), (0x28, 4, 1), (0x2C, 2, 1), (0x2E, 2, 1), (0x30, 2, 1), (0x34, 2, 1),
  (0x36, 2, 1), (0x40, 1, 10), (0x7F, 1, 1)]
def sealed : State := ({ bound with window := sealedRec } : State).setSlice 0 fun v => { v with parseQ := [0] }
/-- The 128 bytes of the record. -/
def sealedRec128 : List Byte := (List.range 128).map sealedRec.read
def badSeal : State := { sealed with window := sealedRec.write 0x34 0 }

/-- The page of the kernel object is to be pulled (R453). -/
def headerAway (s : State) : State := s.setSlice 0 fun v => { v with pull := { all := false, except := [1] } }

/-- The checks of the record in slot 0. -/
def slotCheck (s : State) : RecordEnd :=
  (slotTaken s 0 0 []).checkRecord 0 0 (2 ^ 32 + s.nextId) (s.window.readList 0 128) false

theorem test_meets_held_header : (match slotCheck sealed with | .sound h _ => h.code == 0x10040 | _ => false) = true
    ∧ (match slotCheck (headerAway sealed) with | .unread _ => true | _ => false) = true
    ∧ (match slotCheck badSeal with | .refused n _ => n == 2 | _ => false) = true
    ∧ (headerAway sealed).mayParse 0 = true ∧ ((headerAway sealed).slice 0).parseQ = [0]
    ∧ (headerAway sealed).window.readList 0 128 = sealedRec128
    ∧ (reservedBad sealedRec128 || (LaunchRec.ofBytes sealedRec128).limitBad || (LaunchRec.ofBytes sealedRec128).vasBad) = false := by
  decide +kernel

theorem test_meets_records : (up.serves 0 = true ∧ up.closed 0 = false ∧ up.window.wf = true ∧ up.slices.length = 16)
    ∧ up.mayParse 0 = false ∧ (sealed.mayParse 0 = true ∧ (sealed.slice 0).parseQ = [0] ∧ sealed.slices.length = 16 ∧ sealed.window.wf = true) := by
  decide +kernel

/-- A launch of one item that is ready, one that waits for a token at 0x10100, and a fast-path child whose header is not read. -/
def ready : Launch := newLaunch 5 oneItem 0 0 0 none 3 { code := 0x10040, words := 1, map := 0x10080 } false 0
def waitingLaunch : Launch := { ready with rcd := { oneItem with after := 0x10100 }, dep := .waiting }
def late : Launch := { ready with rcd := { oneItem with kobj := 0x10000 }, late := true }
def withLaunch (l : Launch) : State := { bound with launches := [l], nextId := 9 }

theorem test_meets_dependences : (withLaunch waitingLaunch).launch? 5 = some waitingLaunch ∧ (withLaunch ready).launch? 5 = some ready
    ∧ waitingLaunch.dep = .waiting ∧ waitingLaunch.unread = false ∧ (withLaunch waitingLaunch).deviceWaits 0 5 [7] = false ∧ ready.dep ≠ .waiting ∧ (withLaunch waitingLaunch).reach 0 0 0x10104 2 .load = .ok 0x10104
    ∧ 0x10104 + 2 ≤ 2 ^ 40 ∧ (withLaunch waitingLaunch).poisoned 0x10104 2 = false := by
  decide +kernel

/-- What the read of the header of launch 5 comes to. -/
def lateHeader (s : State) (l : Launch) : HeaderEnd := s.kernelHeader l.slice l.asid l.num l.rcd.kobj l.rcd.entry

theorem test_meets_late_header : (withLaunch late).launch? 5 = some late ∧ late.late = true ∧ late.hdrFail = false
    ∧ (withLaunch late).deviceWaits 0 5 [4] = false
    ∧ (match lateHeader (withLaunch late) late with | .got (some h) t => h.code == 0x10040 && t.checkBind 0 late.rcd == 0 | _ => false) = true
    ∧ (match lateHeader (withLaunch late) { late with rcd := oneItem } with | .got none _ => true | _ => false) = true
    ∧ (match lateHeader (headerAway (withLaunch late)) late with | .wait _ => true | _ => false) = true := by
  decide +kernel

/-- A constant image under way from 0x10000. -/
def imageWay : State :=
  { withLaunch { ready with rcd := { oneItem with const := 0x10000 } } with consts := [{ core := 0, launch := 5, words := none, failed := none }] }

theorem test_meets_constants : ∃ k ∈ imageWay.consts, imageWay.consts.find? (fun i => i.core == 0 && i.launch == 5 && i.words.isNone) = some k
    ∧ k.failed = none ∧ imageWay.deviceWaits 0 5 [1] = false ∧ 0x10000 % 65536 + 4096 ≤ 65536 ∧ imageWay.reach 0 0 0x10000 4096 .load = .ok 0x10000
    ∧ imageWay.poisoned 0x10000 4096 = false :=
  ⟨_, .head _, by decide +kernel⟩

theorem test_meets_admission : up.mayAdmit 0 = true ∧ up.eligible 0 = [] ∧ (withLaunch ready).mayAdmit 0 = true ∧ (withLaunch ready).eligible 0 = [ready]
    ∧ ((withLaunch ready).admitOne ((withLaunch ready).knownOf 0) ready (fun _ => true)).isSome = true := by
  decide +kernel

/-- The launch asks more strand registers than are left on the one bound core. -/
def huge : Launch := { ready with rcd := { oneItem with nx := 64, cohX := 64, maxM := 5000 } }

theorem test_meets_admission_placed : (withLaunch huge).mayAdmit 0 = true ∧ (withLaunch huge).eligible 0 = [huge]
    ∧ (withLaunch huge).admitOne ((withLaunch huge).knownOf 0) huge (fun _ => true) = none
    ∧ ready.stopped = false ∧ ready.nextCohort < cohortTotal ready.rcd ∧ ready.parent = none ∧ ready.rcd.headroom = 0
    ∧ ((withLaunch ready).placeCohort ((withLaunch ready).knownOf 0) ready 0 (ready.rcd.blocks 0) (fun _ => true)).isSome = true := by
  decide +kernel

/-- Slices 0 and 1 in one group. -/
def merged : State := up.setSlice 1 fun v => { v with lead := 0 }

theorem test_meets_reports : up.leader 1 = 1 ∧ merged.leader 1 ≠ 1 := by
  decide +kernel

/-- The launch has nothing left to do; the second has a token at 0x10200. -/
def doneL : Launch := { ready with nextCohort := 1 }
def doneTok : Launch := { doneL with rcd := { oneItem with token := 0x10200 } }

theorem test_meets_completion : (withLaunch ready).launchDone ready = false ∧ (withLaunch doneL).launchDone doneL = true ∧ doneL.rcd.tokenOk = false
    ∧ (withLaunch doneTok).launchDone doneTok = true ∧ doneTok.rcd.tokenOk = true ∧ doneTok.rcd.queue ≤ 31 ∧ doneTok.noToken = false
    ∧ (withLaunch doneTok).deviceWaits 0 5 [0] = false ∧ (withLaunch doneTok).reach 0 0 0x10200 16 .store = .ok 0x10200
    ∧ (withLaunch doneTok).poisoned 0x10200 16 = false ∧ (withLaunch doneTok).dirEntry (lineOf 0x10200) = none ∧ homeField 0x10200 = 0 / 4
    ∧ 0x10200 % 16 = 0 ∧ (withLaunch doneTok).mem.wf = true := by
  decide +kernel

/-- The one item waits on flag 2 for its child 7, of which no cohort has been admitted. -/
def childOf : Launch := { ready with num := 7, parent := some 4294967297, device := true }
def awaiting : State :=
  { withCtx alone fun x => { x with items := x.items.map fun t => { t with wait := .flags 4 } } with
    launches := alone.launches ++ [childOf, { childOf with num := 8, nextCohort := 1 }],
    ops := [{ id := 4, issue := 4, core := 0, launch := 4294967297, cohort := 0, items := [0], flag := some 2, dst := [], kind := .child 7 true, va := 0, pc := 0,
              back := none, fl := 0, parkedAt := none, cross := [], nofill := [], ev := false }] }

theorem test_meets_child_watchdog : awaiting.launch? 7 = some childOf ∧ (childOf.parent.bind awaiting.launch?).isSome = true ∧ childOf.nextCohort = 0
    ∧ (argMin (fun v => v.2.since) (awaiting.childWaiters 7)).isSome = true ∧ (awaiting.launch? 8).any (fun l => l.nextCohort != 0) = true := by
  decide +kernel
/-! ### Every hypothesis is met: translation, accesses from outside -/

/-- Loads of item 0 of context 4294967296 wait on walks of page 1, of page 3, which no table holds, and a copy on page 2. -/
def loader : Waiter := { ctx := some 4294967296, copy := none, items := [0], whole := false, core := 0, launch := 5, cohort := 0, access := .load, va := 0x10000, pc := 0x10000 }
def walkOf (page : Nat) (w : Waiter) : Walk := { id := page, field := 0, slice := 0, asid := 0, page := page, waiters := [w], started := true, fresh := true }
def copier : Waiter := { loader with ctx := none, copy := some 6 }
def walking : State := { tabled with walks := [walkOf 1 loader, walkOf 3 loader, walkOf 2 copier], nextId := 9 }

/-- What a walk ends in, as a number and the leaf. -/
def leafOf (e : WalkEnd) : Option Leaf :=
  match e with
  | .leaf l => some l
  | _ => none

theorem test_meets_walk_leaf : ∃ k ∈ walking.walks, walking.walks.find? (fun j => j.id == k.id && j.started) = some k ∧ k.fresh = true
    ∧ (walking.walkIn k.field k.slice k.asid k.page).1 = .leaf { page := 1, pages := 1, spa := 0x10000, r := true, w := true, x := true, mt := 0, shw := false }
    ∧ ∀ j ∈ walking.coveredBy k (.leaf { page := 1, pages := 1, spa := 0x10000, r := true, w := true, x := true, mt := 0, shw := false }),
        ∀ w ∈ j.waiters, ({ page := 1, pages := 1, spa := 0x10000, r := true, w := true, x := true, mt := 0, shw := false } : Leaf).permits w.access = true :=
  ⟨_, .head _, by decide +kernel⟩

/-- The walk of page 1 started before an invalidation that takes its page: its result goes to its waiter alone (R81). -/
def stale : State := { walking with walks := [{ walkOf 1 loader with fresh := false }] }

theorem test_meets_walk_lent : ∃ k ∈ stale.walks, stale.walks.find? (fun j => j.id == k.id && j.started) = some k ∧ k.fresh = false
    ∧ (stale.walkIn k.field k.slice k.asid k.page).1 = .leaf { page := 1, pages := 1, spa := 0x10000, r := true, w := true, x := true, mt := 0, shw := false }
    ∧ ∀ j ∈ stale.coveredBy k (.leaf { page := 1, pages := 1, spa := 0x10000, r := true, w := true, x := true, mt := 0, shw := false }),
        ∀ w ∈ j.waiters, ({ page := 1, pages := 1, spa := 0x10000, r := true, w := true, x := true, mt := 0, shw := false } : Leaf).permits w.access = true :=
  ⟨_, .head _, by decide +kernel⟩

/-- Walks that may start, of two slices; the turn is slice 1's. -/
def unstarted : State :=
  { tabled with
    walks := [{ walkOf 1 loader with started := false }, { walkOf 3 loader with slice := 1, started := false }],
    fields := tabled.fields.set 0 { FieldSt.reset with turn := 1 } }

theorem test_meets_walk_start : (∃ k ∈ unstarted.walks, unstarted.walks.find? (fun j => j.id == k.id) = some k ∧ unstarted.nextWalk k.field = some k
      ∧ k.slice = 1 ∧ k.field < unstarted.fields.length)
    ∧ ∀ f, (tabled.nextWalk f).map Walk.id ≠ some 1 :=
  ⟨⟨_, .tail _ (.head _), by decide +kernel⟩, fun f => by simp [State.nextWalk, State.merged, show tabled.walks = [] from rfl, argMin]⟩

theorem test_meets_walk_absent_and_malformed : (walking.walkIn 0 0 0 3).1 = .absent ∧ (walking.walkIn 0 0 0 2).1 = .malformed
    ∧ walking.walks.find? (fun j => j.id == 3 && j.started) = some (walkOf 3 loader)
    ∧ walking.walks.find? (fun j => j.id == 2 && j.started) = some (walkOf 2 copier) ∧ copier.copy = some 6 := by
  decide +kernel

/-- A page fault to record, one that is recorded, for an item of the one context. -/
def pageFault : PFault :=
  { id := 70, slice := 0, asid := 0, page := 3, kind := 0, access := .load, launch := 4294967297, waiters := [{ loader with ctx := some 1 }], seq := none }
def recording : State :=
  { withCtx alone fun x => { x with items := x.items.map fun t => { t with wait := .pageFault 70 } } with pfaults := [pageFault], nextId := 99 }
def recorded : State :=
  { withCtx alone fun x => { x with items := x.items.map fun t => { t with wait := .pageFault 71 } } with
    pfaults := [{ pageFault with id := 71, seq := some 4, waiters := [{ loader with ctx := alone.cur, launch := 4294967297 }] }] }

theorem test_meets_page_fault_record : recording.unrecorded 0 = some pageFault ∧ recording.pfRoom 0 = true ∧ recording.mem.wf = true
    ∧ recording.leader 0 = 0 ∧ (recording.slice 0).pfSeq = 0 ∧ 0 < recording.slices.length
    ∧ (recording.holdersOf 0 (fieldOfWord (recording.vreg 0 0x420) 0 28 * 4096 + 16 * ((recording.vreg 0 0x424).toNat % 256)) 16).isNone = true
    ∧ ∀ j < 16, Phys.isLocal (recording.localPhys 0 (fieldOfWord (recording.vreg 0 0x420) 0 28 * 4096 + 16 * ((recording.vreg 0 0x424).toNat % 256) + j)) = true := by
  decide +kernel

theorem test_meets_replay : (∃ p ∈ recorded.pfaults, recorded.serves 0 = true ∧ recorded.pfaults.find? (fun q => q.slice == 0 && q.seq == some 4) = some p
      ∧ p.waiters ≠ [] ∧ (∀ w ∈ p.waiters, w.ctx.isSome = true ∧ w.copy = none ∧ w.whole = false)
      ∧ ∃ x ∈ recorded.ctxs, (recorded.launch? x.launch).isSome = true ∧ ∃ t ∈ x.items, t.wait = .pageFault p.id
        ∧ ∃ w ∈ p.waiters, w.launch = x.launch ∧ w.cohort = x.cohort ∧ t.c ∈ w.items)
    ∧ up.serves 9 = false ∧ up.pfaults = [] :=
  ⟨⟨_, .head _, by decide +kernel⟩, by decide +kernel⟩

/-- An invalidation waits for a walk that goes on; another waits for nothing. -/
def invalWaits : State := { walking.setVreg 0 0x414 1 with invals := [{ slice := 0, walks := [1], ops := [], asu := [], mark := 9 }] }
def invalOver : State := { tabled.setVreg 0 0x414 1 with invals := [{ slice := 0, walks := [1], ops := [], asu := [], mark := 9 }] }

theorem test_meets_invalidation : walking.serves 0 = true ∧ walking.serves 9 = false ∧ (walking.vreg 0 0x414).getLsbD 0 = false ∧ (invalWaits.vreg 0 0x414).getLsbD 0 = true
    ∧ walking.leader (walking.leader 0) = walking.leader 0
    ∧ invalWaits.invals.find? (fun w => w.slice == invalWaits.leader 0) = some { slice := 0, walks := [1], ops := [], asu := [], mark := 9 }
    ∧ invalWaits.invalDone { slice := 0, walks := [1], ops := [], asu := [], mark := 9 } = false
    ∧ invalOver.invals.find? (fun w => w.slice == invalOver.leader 0) = some { slice := 0, walks := [1], ops := [], asu := [], mark := 9 }
    ∧ invalOver.invalDone { slice := 0, walks := [1], ops := [], asu := [], mark := 9 } = true := by
  decide +kernel

/-- The package answers peers; the grant table at 0x20000 admits slice 2 of package 3 to read and write slice 0 (R465). -/
def peered : State := { ({ up with mem := cellsOf [(0x20000, 4, 0xC0000032), (0x30000, 1, 7)] } : State).setReg 0 0x2104 0x80000001 with
  regs := [((0, 0x2104), 0x80000001), ((1, 0x1104), 0x20)] }
def ask : PeerAccess := { home := 0, pkg := 3, slice := 2, off := 0x30000, len := 32, atomic := none }
/-- A write waits at the line asked for. -/
def lineWaits : State :=
  { peered with homeWrites := [{ id := 5, slice := 0, line := 0x600, pid := 0, cells := [(0x30000, 7)], ack := none, sent := false, device := false, ev := false, peer := false }] }

/-- The home admits a request, into a state with some property. -/
def admits (e : PeerEnd) (p : State → Bool) : Bool :=
  match e with
  | .admitted t => p t
  | _ => false
/-- The home answers a request. -/
def answers (e : PeerEnd) : Bool :=
  match e with
  | .answer t => t.resp == some .refused
  | _ => false
def silent (e : PeerEnd) : Bool :=
  match e with
  | .silent => true
  | _ => false

theorem test_meets_peer : silent (up.peerMay ask false) = true ∧ silent (up.peerMay ask true) = true ∧ answers (peered.peerMay { ask with slice := 4 } false) = true
    ∧ answers (peered.peerMay { ask with slice := 4 } true) = true
    ∧ admits (lineWaits.peerMay ask false) (fun t => (t.pullAt 0x30000 32).isNone && t.writeWaits (rangeLines 0x30000 32)) = true
    ∧ (∀ w, w = true ∨ w = false → admits (peered.peerMay ask w) (fun t => (t.pullAt 0x30000 32).isNone && !t.writeWaits (rangeLines 0x30000 32)
        && !t.poisoned 0x30000 32 && !t.poisoned 0x30000 4 && (t.trackAll (rangeLines 0x30000 32) fun d => d.addPeer 3 2).1
        && (rangeLines 0x30000 32).all (fun n => (t.dirEntry n).isNone) && t.ecc.isEmpty && t.l2err.isEmpty) = true) := by
  decide +kernel

/-- A dirty line of host memory, and host memory of its bytes. -/
def hostLine : L2Line :=
  { slice := 0, bank := 0, set := 0, way := 0, line := 2 ^ 45, enc := 0, owner := 0, dirty := true, used := 0, bytes := List.replicate 128 3 }
def holding : State := { up with l2 := [hostLine] }

theorem test_meets_snoop : Phys.isHost (2 ^ 45 * 128) = true ∧ up.l2Line? 0 (2 ^ 45) = none ∧ holding.l2Line? 0 (2 ^ 45) = some hostLine
    ∧ holding.hostOwner? (2 ^ 45) = some hostLine ∧ hostLine.bytes.length = 128 ∧ holding.host.wf = true
    ∧ hostLine.bad = [] ∧ errorsMendable holding := by
  unfold errorsMendable
  decide +kernel

/-- The expander of slice 0, group 2, has parked the host's accesses. -/
def rangeAway : State := { up with edges := up.edges.set 2 { EdgeSt.reset with state := 2, mode := 1, useNow := 1, sliceNow := 0, parks := 2 ^ 9 } }
/-- Slice 0 in the error state refuses the host's accesses to its range. -/
def inError : State := up.setSlice 0 fun v => { v with tdisp := 3 }

theorem test_meets_host_access : up.serves 0 = true ∧ 0x100 + 4 ≤ 65536 ∧ up.rangeOffset 0 0x20000 4 = none
    ∧ rangeAway.rangeParked 0 (2 ^ 52 + 0x80) = true ∧ up.rangeParked 0 (2 ^ 32 + 0x80) = false ∧ up.rangeParked 0 0x20000 = false ∧ up.rangeOffset 0 (2 ^ 32 + 0x80) 4 = some 0x80
    ∧ inError.rangeOffset 0 (2 ^ 32 + 0x80) 4 = some 0x80 ∧ inError.hostMay 0 = false ∧ up.hostMay 0 = true ∧ up.pullPage 0 0x80 4 = none
    ∧ up.writeWaits [1] = false ∧ up.gatedIn (up.hostField 0 (2 ^ 32 + 0x80)) [1] = false ∧ up.localPoisoned 0 0x80 4 = false ∧ (up.trackAll [1] fun d => { d with host := true }).1 = true
    ∧ up.closed 0 = false ∧ up.window.wf = true ∧ up.slices.length = 16 ∧ errorsMendable up := by
  unfold errorsMendable
  decide +kernel

/-- Port H is down; it is up beside another path to the host. -/
def portDown : State := { up with portH := false }
def twoPaths : State := { up with edges := up.edges.set 2 { EdgeSt.reset with state := 0, mode := 1 } }

theorem test_meets_port : up.portH = true ∧ portDown.portH = false ∧ (∀ e ∈ up.edges, e.hostPath = false) ∧ twoPaths.portH = true
    ∧ ∃ e ∈ twoPaths.edges, e.hostPath = true := by
  decide +kernel
/-! ### Every hypothesis is met: copies, publishes, grants and tasks that end -/

/-- The state that an instruction leads to. -/
def after (j : Instr) (s : State) : State :=
  match exec j s with
  | .next u => u
  | _ => s

/-- The copy that zeroes 64 bytes of shelf A has been accepted; its engine has been granted; it is to be cancelled. -/
def accepted : State := after (.cpy copyQ0) copying
def moving : State := { accepted with curReqs := accepted.curReqs.map fun q => { q with granted := true } }
def stopping : State := { moving with copies := moving.copies.map fun c => { c with force := some 2 } }

theorem test_meets_copy_waits : ∃ c ∈ accepted.copies, accepted.copies.find? (fun k => k.id == c.id) = some c ∧ (accepted.launch? c.launch).isSome = true
    ∧ accepted.copyReady c = false := by
  decide +kernel

theorem test_meets_copy_cancel : ∃ c ∈ stopping.copies, stopping.copies.find? (fun k => k.id == c.id) = some c ∧ stopping.copyReady c = true
    ∧ c.force = some 2 ∧ c.desc5.tok = 0 ∧ c.seq ≠ 0 ∧ c.resumed = false ∧ ∀ k ∈ stopping.copies, k.core = c.core → k.seq = c.seq → k.id = c.id := by
  decide +kernel

theorem test_meets_copy_end : (∃ c ∈ moving.copies, moving.copies.find? (fun k => k.id == c.id) = some c ∧ moving.copyReady c = true ∧ c.force = none
      ∧ c.pos = 0 ∧ c.moved = 0 ∧ c.desc5.chunks.length ≤ 128 ∧ c.desc5.tok = 0 ∧ c.seq ≠ 0 ∧ c.resumed = false
      ∧ (∀ k ∈ moving.copies, k.core = c.core → k.seq = c.seq → k.id = c.id) ∧ ∃ l ∈ moving.launches, moving.launch? c.launch = some l
      ∧ let rs := ((moving.readSources c c.desc5 .ok c.desc5.chunks).fillSources c c.desc5 .ok c.desc5.chunks).readyList c l.rcd c.desc5 .ok 0 c.desc5.chunks
        rs.2.isNone = true ∧ (∀ q ∈ rs.1, q.keys = []) ∧ rs.1.length = c.desc5.chunks.length) ∧ moving.shelf.wf = true := by
  decide +kernel

/-- Publishes of window 0: one that waits for a copy, one that may flip, one that has flipped and waits, one that is over. -/
def publOf (before : List Nat) (flipped : Bool) (ops : List Nat) : Publ :=
  { id := 60, slice := 0, win := 0, ctx := 1, items := [0], before := before, flipped := flipped, ops := ops }
def withPubl (p : Publ) : State := { moving with publs := [p], ops := written.ops }

theorem test_meets_publish_ends : (withPubl (publOf (moving.copies.map Copy.id) false [])).publ? 0 0 = some (publOf (moving.copies.map Copy.id) false [])
    ∧ (withPubl (publOf (moving.copies.map Copy.id) false [])).flipDue (publOf (moving.copies.map Copy.id) false []) = false
    ∧ (withPubl (publOf [] false [])).flipDue (publOf [] false []) = true ∧ (withPubl (publOf [] true [4])).publOver (publOf [] true [4]) = false
    ∧ (withPubl (publOf [] true [])).publOver (publOf [] true []) = true := by
  decide +kernel

/-- Accepted records: the ZERO that was posted, and others like it. -/
def postedZero : State := after (.tpost postQ0) posting
def zeroRec : TaskRec := postedZero.tasks.headD
  { id := 0, core := 0, slice := 0, launch := 0, cohort := 0, kind := 1, acc := 0, words := [], fmt := 0, flag := none, stamp := 0, chain := 0, solo := true,
    item := 0, state := .posted, started := 0, readySince := none, allowedSince := none, engine := none, poisoned := false }
/-- One record on the desk, granted or not, its slot bound to bank 0 or not. -/
def desk (t : TaskRec) (granted bind : Bool) : State :=
  { copying with
    nextId := 99, tasks := [t], curReqs := [{ core := 0, kind := 0, owner := t.id, prio := 0, since := 0, amps := 10, granted := granted }],
    slots := if bind then [{ core := 0, launch := t.launch, cohort := 0, acc := t.acc, bank := some (0, 0), chain := some t.chain }] else [] }
def current (granted : Bool) (amps : Nat) : CurReq := { core := 0, kind := 0, owner := zeroRec.id, prio := 0, since := 0, amps := amps, granted := granted }

theorem test_meets_grants : (desk zeroRec true false).nextGrant 0 = none ∧ (desk zeroRec false false).nextGrant 0 = some (current false 10) := by
  decide +kernel

theorem test_meets_task_start : postedZero.tasks ≠ [] ∧ (desk zeroRec false false).tasks.find? (fun v => v.id == zeroRec.id) = some zeroRec
    ∧ ((desk zeroRec false false).taskRcd zeroRec).isSome = true ∧ (desk zeroRec false false).startable zeroRec = some 0
    ∧ (desk zeroRec false false).granted 0 zeroRec.id = false ∧ (desk zeroRec true false).startable zeroRec = some 0
    ∧ (desk zeroRec true false).granted 0 zeroRec.id = true ∧ zeroRec.mcast = 0
    ∧ (desk { zeroRec with state := .running } true true).startable { zeroRec with state := .running } = none := by
  decide +kernel

/-- MMAs of no steps for a full set of the cores 0 and 1, since clock 3; of no set. -/
def mma (w : List Word) : TaskRec := { zeroRec with kind := 0, words := w, readySince := some 3, allowedSince := some 3 }
def noSteps : List Word := List.replicate 16 0
def setOfTwo : List Word := 0x3000 :: List.replicate 15 0
/-- One step from shelf A, of which the first row is poisoned, or not resident. -/
def oneStep : List Word := [0x100000, 0, 0, 0x80000000, 0, 0x80000000, 0, 0, 0, 0, 0, 0, 0, 0, 0, 0]
def poisonedDesk : State := { desk { mma oneStep with state := .running } true true with shelfPoison := [(131712, [])] }
def unready : State := { desk (mma oneStep) true false with grans := [] }

theorem test_meets_multicast_timeout : (mma setOfTwo).readySince = some 3 ∧ (mma setOfTwo).mcast ≠ 0 ∧ (desk (mma setOfTwo) true false).granted 0 zeroRec.id = true
    ∧ 3 + (desk (mma setOfTwo) true false).fieldClocks (fieldOf (mma setOfTwo).core) 1024 = 1027
    ∧ ({ desk (mma setOfTwo) true false with clock := 1027 } : State).startable (mma setOfTwo) = some 0
    ∧ (desk (mma setOfTwo) true false).startable (mma setOfTwo) = some 0 ∧ (desk (mma setOfTwo) true false).clock ≤ 1027
    ∧ ({ desk (mma setOfTwo) true false with clock := 1027 } : State).fullSet (mma setOfTwo) = none := by
  decide +kernel

/-- The record of the one launch. -/
def deskRcd : LaunchRec := (copying.launches.head?.map Launch.rcd).getD oneItem

/-- Nine steps. -/
def nineSteps : List Word := 0x900000 :: oneStep.tail
/-- An MMA that runs its steps, granted or not. -/
def running (w : List Word) : TaskRec := { mma w with state := .running }

theorem test_meets_operand_reads : (desk (running noSteps) true true).taskRcd (running noSteps) = some deskRcd
    ∧ ((desk (running noSteps) true true).taskSlot (running noSteps)).bank = some (0, 0)
    ∧ (desk (running noSteps) true true).granted 0 zeroRec.id = true ∧ (desk (running noSteps) false true).granted 0 zeroRec.id = false
    ∧ ((running noSteps).run (desk (running noSteps) true true).free).any ((desk (running noSteps) true true).stepPoison (running noSteps) deskRcd) = false
    ∧ ((desk (running noSteps) true true).bank (0, 0)).poison = false ∧ (running noSteps).left = []
    ∧ (poisonedDesk.taskSlot (running oneStep)).bank = some (0, 0) ∧ poisonedDesk.granted 0 zeroRec.id = true
    ∧ (desk (running nineSteps) true true).taskRcd (running nineSteps) = some deskRcd ∧ (running nineSteps).left.length = 9 := by
  decide +kernel

/-- The one step is in every run, whatever order a run takes. -/
theorem test_meets_poisoned_reads : ((running oneStep).run poisonedDesk.free).any (poisonedDesk.stepPoison (running oneStep) deskRcd) = true := by
  have h : (running oneStep).run poisonedDesk.free = [0] := by
    have hl : (running oneStep).left = [0] := by decide +kernel
    simp [TaskRec.run, hl, stepOrder, Nat.mod_one]
  rw [h]
  decide +kernel

theorem stepOrder_mem {k : Nat} : ∀ (n f : Nat) (l : List Nat), k ∈ stepOrder f l n → k ∈ l
  | 0, _, _, h => by simp [stepOrder] at h
  | n + 1, f, [], h => by simp [stepOrder] at h
  | n + 1, f, x :: xs, h => by
    rcases List.mem_cons.1 h with rfl | h
    · have hb : Config.kOrder f % (xs.length + 1) < (x :: xs).length := Nat.mod_lt _ (Nat.succ_pos _)
      rw [(List.getElem_eq_getD (h := hb) x).symm]
      exact List.getElem_mem ..
    · exact (List.mem_filter.1 (stepOrder_mem n _ _ h)).1

/-- No step of the nine reads a mark, so no run of them does. -/
theorem test_meets_long_reads : ((running nineSteps).run (desk (running nineSteps) true true).free).any
    ((desk (running nineSteps) true true).stepPoison (running nineSteps) deskRcd) = false := by
  refine List.any_eq_false.2 fun k hk => ?_
  have hm : k ∈ (running nineSteps).left := stepOrder_mem _ _ _ (List.mem_of_mem_take hk)
  have hall : ∀ j ∈ (running nineSteps).left, ¬ (desk (running nineSteps) true true).stepPoison (running nineSteps) deskRcd j = true := by
    decide +kernel
  exact hall k hm

/-- The MMA has read its operands; a DRAIN of bank 0 runs; a chain begins. -/
def readsOver : TaskRec := { mma noSteps with state := .readsDone }
def draining : TaskRec := { zeroRec with kind := 2, state := .running }
def beginning : TaskRec := { zeroRec with kind := 8, state := .posted }

theorem test_meets_task_ends : (desk readsOver true true).tasks.find? (fun v => v.id == readsOver.id) = some readsOver
    ∧ ((desk draining true true).taskSlot draining).bank = some (0, 0) ∧ (desk draining true true).drainFree draining = true
    ∧ (desk beginning true true).taskAllowed beginning = true ∧ { draining with words := [0x22] }.rel = true := by
  decide +kernel

theorem test_meets_task_readiness : (mma noSteps).allowedSince = some 3 ∧ (desk (mma noSteps) true false).taskReady (mma noSteps) = true
    ∧ unready.taskReady (mma oneStep) = false ∧ unready.taskRcd (mma oneStep) = some deskRcd := by
  decide +kernel

/-- A closed chain without records. -/
def ended : Chain :=
  { id := 5, core := 0, launch := 5, cohort := 0, acc := 0, closed := true, tasks := 2, sats := 3, nans := 1, status := 1, report := none, noReport := false,
    tokSince := none }
def committing : State := { up with chains := [ended] }

theorem test_meets_chain_end : committing.tasks.find? (fun t => t.id == 5) = none ∧ committing.chains.find? (fun d => d.id == 5) = some ended
    ∧ committing.chainDue ended = true := by
  decide +kernel
/-- FIPS 180-4's own example, the digest of "abc", as far as its first bytes. -/
theorem test_sha512_of_abc : (sha512 [0x61, 0x62, 0x63]).take 8 = [0xDD, 0xAF, 0x35, 0xA1, 0x93, 0x61, 0x7A, 0xBA] := by decide +kernel

/-! ### Every hypothesis is met: deadlines, pre-emption, slices, attestation, migration -/

theorem test_meets_remainder_waits : ∃ x ∈ alone.ctxs, alone.ctx? x.id = some x ∧ x.pending = none :=
  ⟨_, .head _, by decide +kernel⟩

/-- Two strand items; the second is cut, waits on the clock, at a join, on a signal, or stands at another pc. -/
def second (f : Item → Item) : State :=
  withCtx (place .strand 2 0x3F000FF0) fun x => { x with items := x.items.map fun t => if t.c = 1 then f t else t }
def parkedItem : State := second fun t => { t with parked := true }
def clocked : State := second fun t => { t with wait := .clock 40 }
def behind : State := second fun t => { t with pc := 0x10004, since := 7 }
def signalled : State :=
  { second fun t => { t with wait := .sigw 6 90 } with
    asu := [{ id := 6, issue := 6, cluster := 0, core := 0, ctx := 1, launch := 4294967297, cohort := 0, items := [1], key := 0x100, va := 0x10100,
              kind := .sigw [(1, 5)] 3 2, ops := [], pc := 0x10000, waiting := true, seq := 0, stamp := [], device := false }] }
def joining : State := withCtx (second id) fun x => { x with items := x.items.map fun t => { t with wait := .join 50 2 0 } }

/-- The context has a pending remainder since clock 2. -/
def remainder : State := withCtx (second id) fun x => { x with pending := some 2 }

theorem test_meets_remainder : ∃ x ∈ remainder.ctxs, remainder.ctx? x.id = some x ∧ (remainder.launch? x.launch).isSome = true ∧ x.pending = some 2
    ∧ remainder.placeFor x = true ∧ x.items.length = 2 ∧ x.unfaulted ≠ [] :=
  ⟨_, .head _, by decide +kernel⟩

/-- A span of the core has a pending remainder, which goes first. -/
def behindRemainder : State :=
  { parkedItem with ctxs := parkedItem.ctxs ++ parkedItem.ctxs.map fun x => { x with id := 7, kind := .span, pending := some 2 } }

theorem test_meets_solo : (∃ x ∈ parkedItem.ctxs, parkedItem.ctx? x.id = some x ∧ (parkedItem.launch? x.launch).isSome = true
      ∧ (∃ t ∈ x.items, t.c = 1 ∧ t.parked = true) ∧ parkedItem.openStrand x = true ∧ x.kind = .strand ∧ 1 ∈ x.cs
      ∧ ∀ y ∈ parkedItem.ctxs, y.id < parkedItem.nextId)
    ∧ ∃ x ∈ behindRemainder.ctxs, behindRemainder.ctx? x.id = some x ∧ (∃ t ∈ x.items, t.c = 1 ∧ t.parked = true)
      ∧ behindRemainder.openStrand x = false :=
  ⟨⟨_, .head _, by decide +kernel⟩, _, .head _, by decide +kernel⟩

theorem test_meets_starvation : ∃ x ∈ behind.ctxs, behind.ctx? x.id = some x ∧ ∃ l ∈ behind.launches, behind.launch? x.launch = some l
    ∧ ∃ i ∈ x.items, argMin Item.count (behind.starved x) = some i
      ∧ let t : State := { behind with clock := max behind.clock (i.count + behind.fieldClocks (fieldOf x.core) (2 ^ l.rcd.barLog)) }
        (argMin (fun j : Item => j.pc.toNat) (x.items.filter fun j => !t.waits x j)).isSome = true :=
  ⟨_, .head _, by decide +kernel⟩

theorem test_meets_clock_and_join : (∃ x ∈ clocked.ctxs, clocked.ctx? x.id = some x ∧ (∃ t ∈ x.items, t.wait = .clock 40)
      ∧ ∀ t ∈ x.items, (match t.wait with | .clock k => decide (40 ≤ k) | _ => true) = true)
    ∧ ∃ x ∈ joining.ctxs, joining.ctx? x.id = some x ∧ x.joinTill = some 50 := by
  decide +kernel

theorem test_meets_signal : ∃ x ∈ signalled.ctxs, signalled.ctx? x.id = some x ∧ (∃ t ∈ x.items, x.items.find? (fun i => i.c == 1) = some t
      ∧ t.wait = .sigw 6 90) ∧ ∃ r ∈ signalled.asu, signalled.asu.find? (fun q => q.id == 6) = some r ∧ r.kind.waits = some (3, 2) ∧ r.fromPeer = false :=
  ⟨_, .head _, by decide +kernel⟩

/-- An item of the group in slot 1 has waited at its barrier since clock 4. -/
def waitingGroup : State := { member with groups := member.groups.map fun g => { g with phase := { g.phase with since := some 4 } } }
def deadline : BarDeadline := { key := 0x100, till := 30, slice := 0, dev := List.replicate 48 0 }
def barrierDue : State := { up with barDl := [deadline] }

theorem test_meets_groups_and_barriers : waitingGroup.phaseDeadline (.record 0 9) = none ∧ (waitingGroup.phaseDeadline (.record 0 1)).isSome = true
    ∧ (barrierDue.voidDeadline 0x100).barDl.find? (fun b => b.key == 0x100) = some deadline ∧ 0x100 % 64 = 0 ∧ barrierDue.mem.wf = true
    ∧ barrierDue.dirEntry (lineOf 0x100) = none ∧ barrierDue.mem.read (0x100 + 12) ≠ 1 ∧ 0x100 + 64 ≤ 2 ^ 40 := by
  decide +kernel

/-- Slice 0 in a state of pre-emption. -/
def inPre (s : State) (n : Nat) : State := s.setSlice 0 fun v => { v with pre := n }
/-- With a folio area of 4 MiB at 0x100000. -/
def areaed (s : State) : State := (s.setVreg 0 0xE8C 0x100).setVreg 0 0xE90 0x400
def checking : State := (areaed (inPre up 2)).setSlice 0 fun v => { v with ckState := 1 }
/-- The package's cohorts are on slice 0. -/
def resident : State := inPre alone 1
/-- A load of the slice's context is out. -/
def loading2 : State :=
  { inPre alone 2 with
    ops := [{ id := 4, issue := 4, core := 0, launch := 4294967297, cohort := 0, items := [0], flag := none, dst := [.x 4],
              kind := .load [(0x100, 4)] 4 false none false, va := 0, pc := 0, back := none, fl := 0, parkedAt := none, cross := [], nofill := [], ev := false }] }

theorem test_meets_preemption : merged.leader 1 ≠ 1 ∧ up.leader 0 = 0 ∧ up.slices.length = 16 ∧ (up.slice 0).pre = 0 ∧ up.closed 0 = false
    ∧ ((inPre up 1).slice 0).pre = 1 ∧ (∀ k ∈ (inPre up 1).cohorts, ∀ l ∈ (inPre up 1).launches, l.num = k.launch → (inPre up 1).leader l.slice ≠ 0)
    ∧ (inPre up 1).role 0 ≠ 1 ∧ (∃ k ∈ resident.cohorts, ∃ l ∈ resident.launches, l.num = k.launch ∧ resident.leader l.slice = 0)
    ∧ (resident.slice 0).pre = 1 ∧ (loading2.slice 0).pre = 2 ∧ loading2.saveDue 0 = false ∧ (loading2.slice 0).ckState ≠ 2 := by
  decide +kernel

theorem test_meets_save : ((inPre up 2).slice 0).pre = 2 ∧ (areaed (inPre up 2)).saveDue 0 = true ∧ ((areaed (inPre up 2)).slice 0).ckState ≠ 1
    ∧ (let e := (areaed (inPre up 2)).stopEngines 0
       (e.putFolio 0 1).isSome = true)
    ∧ (inPre up 2).saveDue 0 = true ∧ (((inPre up 2).stopEngines 0).putFolio 0 1).isNone = true := by
  decide +kernel

theorem test_meets_save_of_checkpoint : (checking.slice 0).pre = 2 ∧ checking.saveDue 0 = true ∧ (checking.slice 0).ckState = 1
    ∧ (let e := checking.stopEngines 0
       (e.putFolio 0 4).isSome = true) := by
  decide +kernel

/-- With a folio area of one page at 0x100000. -/
def areaed1 (s : State) : State := (s.setVreg 0 0xE8C 0x100).setVreg 0 0xE90 1
/-- The header and the one section of a folio that holds nothing (R431). -/
def blankFolio : Memory :=
  cellsOf [(0, 4, 0x4F494C46), (4, 2, 1), (6, 2, 1), (8, 1, 1), (0xC, 4, 0x80), (0x40, 2, 2), (0x42, 2, 1)]
/-- A slice that has saved that folio, which stands in its area. -/
def saved : State :=
  ({ areaed1 (inPre up 4) with mem := blankFolio.map fun c => (c.1 + 0x100000, c.2) } : State).setSlice 0 fun v =>
    { v with folio := some (Folio.blank 1 0 0), image := (List.range 0x80).map blankFolio.read }

theorem test_meets_resume : ((inPre up 4).slice 0).pre = 4 ∧ ((inPre up 4).slice 0).ckState = 0 ∧ (inPre up 4).closed 0 = false
    ∧ fieldOfWord ((inPre up 4).vreg 0 0xE90) 0 20 = 0
    ∧ fieldOfWord ((areaed1 (inPre up 4)).vreg 0 0xE90) 0 20 ≠ 0
    ∧ (match (areaed1 (inPre up 4)).folioArea 0 with | some bs => folioError bs 30 != 0 | none => false) = true
    ∧ (saved.slice 0).pre = 4 ∧ saved.closed 0 = false ∧ fieldOfWord (saved.vreg 0 0xE90) 0 20 ≠ 0
    ∧ (match saved.folioArea 0 with
        | some bs => folioError bs (30 * (saved.members 0).length) == 0
            && decide ((saved.setSlice 0 fun v => { v with preErr := 0 }).folioIn 0 bs = some (Folio.blank 1 0 0))
            && (saved.setSlice 0 fun v => { v with preErr := 0 }).folioFits 0 (Folio.blank 1 0 0)
        | none => false) = true := by
  decide +kernel

/-- Slice 1 is to join slice 0; slice 1 is to follow slice 3, which leads itself. -/
def joiningSlices : State := up.setReg 0 0x4040 0
def badGroups : State := ((up.setReg 0 0x4040 0).setReg 0 0x4080 0)

theorem test_meets_group_apply : up.valid = true ∧ (up.reg 0 0x3F00).getLsbD 30 = false ∧ badGroups.applyError ≠ 0 ∧ joiningSlices.applyError = 0
    ∧ joiningSlices.slices.length = 16 ∧ (List.range 16).filter joiningSlices.groupChanges = [0, 1] := by
  decide +kernel

/-- Slice 0 is being cleared: with a launch still there, and with nothing left. -/
def cleared : State := up.setSlice 0 fun v => { v with clearing := true, clean := false }
def busyClear : State := { cleared with launches := [ready] }

theorem test_meets_clearing : up.present 0 = true ∧ up.closed 0 = false ∧ up.role (up.leader 0) = 0 ∧ up.present 9 = false ∧ (up.slice 0).clearing = false
    ∧ cleared.leader 0 = 0 ∧ (cleared.slice 0).clearing = true ∧ cleared.slices.length = 16 ∧ cleared.clearDrained 0 = true
    ∧ busyClear.clearDrained 0 = false ∧ (busyClear.slice 0).clearing = true := by
  decide +kernel

/-- A session is open on slice 0, in some interface state; index 7 has been asked for. -/
def session (tdisp : Nat) (clean clearing : Bool) : State :=
  let s := up.setSlice 0 fun v => { v with tdisp := tdisp, clean := clean, clearing := clearing, spdm := { v.spdm with stage := 3, sessions := [1] } }
  s.setSlice 0 fun v => { v with meas7 := some (s.index7 0) }

theorem test_meets_interface : up.serves 0 = true ∧ (up.slice 0).spdm.sessions = [] ∧ up.serves 9 = false
    ∧ (session 0 true false).serves 0 = true ∧ ((session 0 true false).slice 0).spdm.sessions ≠ [] ∧ (session 0 true false).slices.length = 16
    ∧ ((session 0 true false).slice 0).tdisp = 0 ∧ ((session 0 true false).slice 0).clean = true
    ∧ ((session 0 true false).slice 0).meas7 = some ((session 0 true false).index7 0) ∧ ((session 0 false false).slice 0).clean = false
    ∧ ((session 1 true false).slice 0).tdisp = 1 ∧ ((session 1 true false).slice 0).clearing = false ∧ ((session 1 false false).slice 0).clean = false := by
  decide +kernel

theorem test_meets_attestation : up.present 0 = true ∧ up.present 9 = false ∧ (up.slice 0).spdm.stage < 1 ∧ 3 ≤ ((session 0 true false).slice 0).spdm.stage
    ∧ (session 0 true false).slices.length = 16 := by
  decide +kernel

/-- Slice 0 is the source of a migration and slice 1 of the same package its destination; the tenant consents. -/
def migrating : State :=
  { up with regs := [((0, 0x2104), 0x80000005), ((0, 0x4010), 0x40101400), ((0, 0x4050), 0x80001400), ((1, 0x1004), 1), ((2, 0x1004), 1)] }
def cut : State := { migrating with portH := false }
def destBusy : State := migrating.setSlice 1 fun v => { v with clearing := true, clean := false }

theorem test_meets_migration : MayBegin migrating 0 0 ∧ MayBegin migrating 0 3 ∧ MayBegin cut 0 0 ∧ cut.hostUp = false ∧ migrating.hostUp = true
    ∧ Distant migrating 0 1 ∧ migrating.role 0 = 1 ∧ migrating.role 1 = 2 ∧ migrating.migPeer 0 = some 1 ∧ migrating.migAccepts 0 1 = true ∧ migrating.mem.wf = true
    ∧ destBusy.migPeer 0 = some 1 ∧ destBusy.migAccepts 0 1 = false ∧ MayBegin destBusy 0 0 ∧ MayBegin migrating 1 0 ∧ migrating.role 1 ≠ 1 := by
  unfold MayBegin Distant
  decide +kernel

def areaed' (s : State) : State := (s.setVreg 1 0xE8C 0x100).setVreg 1 0xE90 1

theorem test_meets_migration_commands : up.serves 9 = false ∧ up.allows 0 = false ∧ (up.slice 0).migOp = 0 ∧ ((inPre migrating 4).slice 0).pre = 4
    ∧ (inPre migrating 4).migPeer 0 = some 1 ∧ (inPre migrating 4).migAccepts 0 1 = true ∧ migrating.closed 1 = false
    ∧ (migrating.slice 0).pre ≠ 4 ∧ (migrating.slice 0).pre ≠ 5 ∧ migrating.allows 1 = true
    ∧ ({ migrating with regs := migrating.regs.tail } : State).migPeer 0 = none ∧ ({ migrating with regs := migrating.regs.tail } : State).role 0 = 1
    ∧ ((migrating.setSlice 0 fun v => { v with migOp := 2 }).slice 0).migOp ≠ 0 ∧ (migrating.setSlice 0 fun v => { v with migOp := 2 }).migArrived 0 = true
    ∧ (areaed' migrating).area 1 0xE8C 0xE90 = some (0x100000, 0x1000) := by
  decide +kernel

/-- A SEND under way that has pages 3 and 4 still to send, of the first of which one sector has gone. -/
def sendingOn : State := migrating.setSlice 0 fun v => { v with migOp := 2, sendLeft := { all := false, except := [3, 4] }, sendPart := [7] }
/-- A FINAL whose folio has still to go: at a destination with an area for it, and at one without; slice 0 has saved a folio of little. -/
def finalOn (area : Word) : State :=
  { (migrating.setSlice 0 fun v => { v with migOp := 3, folio := some (Folio.blank 1 0 0) }) with
    regs := ((2, 0xE90), area) :: ((2, 0xE8C), 0x100) :: migrating.regs }

theorem test_meets_migration_goes_on : (sendingOn.slice 0).migOp = 2 ∧ sendingOn.migPeer 0 = some 1 ∧ Distant sendingOn 0 1
    ∧ (sendingOn.slice 0).sendLeft.first (sendingOn.pageCount 0) = some 3 ∧ 7 ∈ (sendingOn.slice 0).sendPart ∧ 0 < 2048
    ∧ 0 ∉ (sendingOn.slice 0).sendPart ∧ (migrating.slice 0).sendLeft = PageSet.none ∧ ((finalOn 0).slice 0).migOp = 3 ∧ ((finalOn 0).slice 0).sendLeft = PageSet.none ∧ (finalOn 0).migArrived 0 = false := by
  unfold Distant
  decide +kernel

theorem test_meets_folio : migrating.receives 0 = false ∧ migrating.receives 1 = true ∧ migrating.migPeer 1 = some 0 ∧ migrating.migSource 1 = none
    ∧ (finalOn 0x400).receives 1 = true ∧ (finalOn 0x400).migSource 1 = some 0 ∧ ((finalOn 0x400).slice 0).sent = false
    ∧ ((finalOn 0x400).slice 0).sendLeft = PageSet.none ∧ (finalOn 0x400).dir = []
    ∧ (match (finalOn 0x400).area 1 0xE8C 0xE90 with
        | some a => decide (((finalOn 0x400).folioBytes ((finalOn 0x400).finalFolio 0) 1 Item.pc).length ≤ a.2)
        | none => false) = true
    ∧ (finalOn 0).area 1 0xE8C 0xE90 = some (0x100000, 0)
    ∧ 0 < ((finalOn 0).folioBytes ((finalOn 0).finalFolio 0) 1 Item.pc).length := by
  decide +kernel
/-! ### Every hypothesis is met: pulled pages, checkpoints, links, scale-out, floating point -/

/-- Page 4 of slice 0 is to be pulled, has been asked for, and an item waits for it. -/
def pulling : State :=
  { up.setSlice 0 fun v => { v with pull := { all := false, except := [4] }, pulling := [(4, 9)] } with
    pfaults := [{ pageFault with kind := 4, page := 4 }] }

theorem test_meets_pull : (up.slice 0).pull.has 4 = false ∧ (up.slice 0).pulling = [] ∧ (pulling.slice (pulling.leader 0)).pull.has 4 = true
    ∧ (pulling.slice 0).pulling.find? (fun p => p.1 == 4) = some (4, 9) ∧ pulling.pullWaits 0 4 ≠ [] ∧ pulling.migSource 0 = none
    ∧ (List.replicate 65536 (7 : Byte)).length = 65536 ∧ 4 < pulling.pageCount 0 ∧ pulling.mem.wf = true := by
  refine ⟨by decide +kernel, by decide +kernel, by decide +kernel, by decide +kernel, by decide +kernel, by decide +kernel, List.length_replicate .., ?_, by decide +kernel⟩
  decide +kernel

/-- No peer holds a line of a package whose directory is empty. -/
theorem test_meets_no_holders (s : State) (h : s.dir = []) (slice off n : Nat) : s.holdersOf slice off n = none := by
  simp [State.holdersOf, State.clearHolders, State.dirEntry, h]

/-- Slice 1 is the destination of slice 0's migration, which is in FINAL; the folio has gone, and slice 1 pulls its page 4 (R453). -/
def pullingOn : State :=
  (migrating.setSlice 0 fun v => { v with migOp := 3, sent := true }).setSlice 1 fun v =>
    { v with pull := { all := false, except := [4] }, pulling := [(4, 0)], hostPulls := [4] }
/-- Slice 1 takes what a slice of another package sends it. -/
def receiving : State :=
  { up with regs := [((0, 0x2104), 0x80000005), ((0, 0x4050), 0x80001800)] }

theorem test_meets_pull_of_a_source : pullingOn.migSource 1 = some 0 ∧ (pullingOn.slice 1).pull.has 4 = true ∧ (pullingOn.slice 0).sent = true
    ∧ (pullingOn.slice 1).pull.has 5 = false ∧ Distant pullingOn 0 1 ∧ pullingOn.leader 1 = 1
    ∧ receiving.receives 1 = true ∧ receiving.migPeer 1 = none ∧ receiving.migSource 1 = none ∧ receiving.dir = []
    ∧ (receiving.slice 1).pull.has 4 = false ∧ receiving.mem.wf = true ∧ receiving.slices.length = 16 := by
  unfold Distant
  decide +kernel

/-- Checkpoints of slice 0 are on; a cut is pending its commit. -/
def checkpointing : State := up.setReg 0 0x4024 0x80000000
def cutMade : State := (inPre checkpointing 4).setSlice 0 fun v => { v with ckState := 3 }

theorem test_meets_checkpoint : (checkpointing.reg 0 (sliceReg 0 0x24)).getLsbD 31 = true ∧ (up.reg 0 (sliceReg 0 0x24)).getLsbD 31 = false
    ∧ (checkpointing.slice 0).ckGen + 1 = 1 ∧ (checkpointing.slice 0).ckState = 0 ∧ (checkpointing.slice 0).pre = 0
    ∧ ((inPre checkpointing 1).slice 0).pre = 1 ∧ ((inPre checkpointing 5).slice 0).pre = 5 ∧ (cutMade.slice 0).ckState = 3
    ∧ cutMade.serves 0 = true ∧ checkpointing.closed 0 = false ∧ checkpointing.slices.length = 16 ∧ cleared.closed 0 = true := by
  decide +kernel

/-- A checkpoint image of one page, for a slice that keeps two pages of it. -/
def keeping : State := up.setReg 0 0x402C 2

theorem test_meets_rollback : keeping.mem.wf = true ∧ fieldOfWord (keeping.reg 0 (sliceReg 0 0x2C)) 0 21 = 2 ∧ 2 ≤ keeping.pageCount 0
    ∧ 70000 < keeping.localSize 0 ∧ ([1].map id).Nodup ∧ (List.replicate 65536 (1 : Byte)).length = 65536 := by
  refine ⟨by decide +kernel, by decide +kernel, by decide +kernel, by decide +kernel, by decide +kernel, List.length_replicate ..⟩

/-- Group 2 came up; it stands in a state. -/
def grouped2 (f : EdgeSt → EdgeSt) : State :=
  { up with measured := [{ step := 24, method := 1, attempts := 1, result := .passed, altFailed := false }], edges := up.edges.set 2 (f EdgeSt.reset) }
def inState (n : Nat) : State := grouped2 fun e => { e with state := n, busy := true, mode := 1, target := 2, useNow := 0 }

theorem test_meets_edge : State.reset.valid = false ∧ (grouped2 id).valid = true ∧ (grouped2 id).edges.length = 16 ∧ (grouped2 id).groupOk 2 = true
    ∧ ((grouped2 id).edge 2).busy = false ∧ fieldOfWord 0x08000000 24 2 ≤ 1 ∧ ((inState 1).edge 2).state = 1 ∧ ((inState 2).edge 2).state = 2
    ∧ ((inState 3).edge 2).state = 3 ∧ ((inState 4).edge 2).state = 4 ∧ ((inState 5).edge 2).state = 5 ∧ ((inState 0).edge 2).state = 0
    ∧ 0 ∈ (inState 2).carried 2 ∧ ({ inState 2 with portH := false } : State).portH = false ∧ ((inState 2).edge 2).mode = 1
    ∧ ∀ m < 16, m ≠ 2 → ((inState 2).edge m).hostPath = false := by
  decide +kernel

/-- Group 2 is to add a host path, while a load from the host is in flight. -/
def joinWaits : State :=
  { grouped2 fun e => { e with state := 5, target := 1 } with
    ops := [{ id := 4, issue := 4, core := 0, launch := 5, cohort := 0, items := [0], flag := none, dst := [.x 4],
              kind := .load [(physHost, 4)] 4 false none false, va := 0, pc := 0, back := none, fl := 0, parkedAt := none, cross := [], nofill := [], ev := false }] }

theorem test_meets_edge_mapping : (inState 5).joinBusy 2 = false ∧ joinWaits.joinBusy 2 = true ∧ (joinWaits.edge 2).state = 5 := by
  refine ⟨?_, by decide +kernel, by decide +kernel⟩
  simp [State.joinBusy, show (inState 5).ops = [] from rfl]

/-- The other personalities that drain and fail: peer packets, scale-out, a host path to an exposed range. -/
theorem test_meets_edge_modes : ((grouped2 fun e => { e with state := 2, mode := 2 }).edge 2).mode = 2
    ∧ ((grouped2 fun e => { e with state := 2, mode := 3 }).edge 2).mode = 3 ∧ ((grouped2 fun e => { e with state := 1, mode := 1, useNow := 1 }).edge 2).useNow ≠ 0
    ∧ ((grouped2 fun e => { e with state := 5, target := 2, err := 0 }).edge 2).err = 0 := by
  decide +kernel

/-- A ring at 0x10000 of slice 0 with TAIL 1 and one descriptor; the descriptor has started, as it should be and malformed. -/
def ringed : State := { up with mem := cellsOf [(0x10000, 4, 3), (0x14000, 4, 1)], regs := [((1, 0x1114), 0x10)] }
def sound : List Byte := (leBytes 4 1 ++ leBytes 4 0 ++ leBytes 8 0x10000 ++ leBytes 8 0 ++ leBytes 4 64 ++ List.replicate 36 0)
def endpointOf : List Byte := leBytes 16 0 ++ leBytes 6 0 ++ leBytes 2 1 ++ leBytes 8 1
def started (words : List Byte) : Desc :=
  { slice := 0, index := 0, words := words, endpoint := endpointOf, since := 0, status := none, noTok := false, tokSince := none }
def sending (words : List Byte) (way : Bool) : State :=
  { tabled with descs := [started words], edges := if way then tabled.edges.set 2 { EdgeSt.reset with state := 0, mode := 3 } else tabled.edges }

theorem test_meets_descriptor_start : up.posted 0 = false ∧ ringed.posted 0 = true ∧ ringed.mem.wf = true
    ∧ (ringed.holdersOf 0 (ringed.ring 0 + 0x4010) 4).isNone = true ∧ ringed.ring 0 + 0x4014 ≤ ringed.localSize 0 ∧ ringed.slices.length = 16 := by
  decide +kernel

theorem test_meets_descriptor_end : (∀ d ∈ up.descs, ¬ (d.slice = 0 ∧ d.index = 0))
    ∧ (sending sound true).descs.find? (fun d => d.slice == 0 && d.index == 0) = some (started sound) ∧ (started sound).status = none
    ∧ (started sound).bad = false ∧ (started (List.replicate 64 0)).bad = true ∧ (sending sound false).uePath 0 = false ∧ (sending sound true).uePath 0 = true
    ∧ (started sound).word 0 4 = 1 ∧ (started sound).word 0x20 8 = 0 := by
  decide +kernel

/-- Codes of each kind that the floating-point statement names. -/
theorem test_meets_floats : nan32 0x7FC00001 = true ∧ signals32 0x7F800001 = true ∧ nan32 0x3F800000 = false ∧ finite32 0x3F800000 = true
    ∧ finite32 0x7F800000 = false ∧ rank32 0x80000000 = -1 ∧ 0x80000000 < (0xBF800000 : Word).toNat ∧ 0x00800000 ≤ (0xBF800000 : Word).toNat % 2 ^ 31
    ∧ (0x3F800000 : Word).toNat % 2 ^ 31 ≠ 0 ∧ (-2 : Int) ^ 24 ≤ 2 ^ 24 := by
  decide +kernel

/-- Tables that serve every address space, whichever the slice's descriptors use (log entry 8): the entries of R69 at 0, and one way
down from the entry 256 of a table at 0. -/
def oneWay : Memory := [(2048, 3), (2049, 0x20), (0x2000, 3), (0x2001, 0x30), (0x3000, 3), (0x3001, 0x40), (0x4000, 0x1D), (0x4002, 1)]
def everyAsid : State := { sending sound true with mem := (List.range 256).map (fun a => (8 * a, 1)) ++ oneWay }

theorem read_entries (m : Memory) (n k : Nat) (h : k < 8 * n) :
    Memory.read ((List.range n).map (fun a => (8 * a, 1)) ++ m) k = if k % 8 = 0 then 1 else m.read k := by
  unfold Memory.read
  rw [List.find?_append]
  cases hf : ((List.range n).map fun a => ((8 * a, 1) : Host.Cell)).find? (fun c => c.1 == k) with
  | some c =>
    obtain ⟨a, _, rfl⟩ := List.mem_map.1 (List.mem_of_find?_eq_some hf)
    have := List.find?_some hf
    have : k % 8 = 0 := by simp at this; omega
    simp [this]
  | none =>
    have : k % 8 ≠ 0 := fun h0 => by
      have := List.find?_eq_none.1 hf (8 * (k / 8), 1) (List.mem_map.2 ⟨k / 8, List.mem_range.2 (by omega), rfl⟩)
      simp at this; omega
    simp [this]

theorem asid_entry (a : Nat) (h : a < 256) : leNat (everyAsid.readLocal 0 (8 * a) 8) = 1 := by
  have hm : everyAsid.members 0 = [0] := by decide +kernel
  have hp (o : Nat) : everyAsid.localPhys 0 o = o := by
    simp only [State.localPhys, State.stackPlace, hm, List.length_singleton, Nat.mod_one, Nat.div_one, List.getD_cons_zero, Nat.zero_mul, Nat.zero_add]
    exact Nat.div_add_mod' o 4096
  have hr (j : Nat) (hj : j < 8) : everyAsid.mem.read (8 * a + j) = if j = 0 then 1 else 0 := by
    show Memory.read ((List.range 256).map (fun a => (8 * a, 1)) ++ oneWay) (8 * a + j) = _
    rw [read_entries _ _ _ (by omega), Memory.read_below oneWay _ (fun c hc => by have := (show ∀ c ∈ oneWay, 2048 ≤ c.1 by decide) c hc; omega)]
    simp only [Memory.blank]
    congr 1
    apply propext; omega
  have h8 : everyAsid.readLocal 0 (8 * a) 8 = (List.range 8).map fun j => if j = 0 then (1 : Byte) else 0 :=
    List.map_congr_left fun j hj => by rw [hp, hr j (List.mem_range.1 hj)]
  rw [h8]
  decide

/-- A walk below a good ASID entry goes by its tables (R69). -/
theorem walk_below {s : State} {slice asid page : Nat} {r : WalkRead}
    (he : s.readEntry slice (page * 65536) (fun _ _ => none) 0 (fieldOfWord (s.vreg slice 0x400) 0 28 * 4096 + 8 * asid) = .ok r)
    (hz : (!r.entry.testBit 0 || s.badRoot slice r.entry) = false) :
    s.walk slice asid page = (s.walkFrom slice (page * 65536) (fun _ _ => none) 4 (r.entry / 4096 % 2 ^ 28 * 4096)).1 := by
  unfold State.walk State.walkBy
  simp only [he, hz, Bool.false_eq_true, if_false]

/-- Nothing is marked where no line is held and no sector is bad. -/
theorem unmarked {s : State} (h1 : s.l2 = []) (h2 : s.poison = []) (h3 : s.ecc = []) (slice off n : Nat) : s.localPoisoned slice off n = false := by
  have hm (a b : Nat) : s.marked a b = false := by
    have hs : s.servingLine? a (b / 4) = none := by
      unfold State.servingLine? State.hostOwner? State.l2Line?
      rw [h1]
      split <;> rfl
    unfold State.marked State.homeMarked
    rw [hs, h2, h3]
    rfl
  exact List.any_eq_false.2 fun j _ => by
    rw [Bool.not_eq_true]
    exact List.any_eq_false.2 fun i _ => by rw [Bool.not_eq_true]; exact hm ..

theorem reach_every_asid (a : Nat) (ha : a < 256) : everyAsid.reach 0 a (2 ^ 47) 64 .copyRead = .ok 0x10000 := by
  have hw : everyAsid.walk 0 a (2 ^ 31) = .leaf { page := 2 ^ 31, pages := 1, spa := 0x10000, r := true, w := true, x := true, mt := 0, shw := false } := by
    have hr : fieldOfWord (everyAsid.vreg 0 0x400) 0 28 * 4096 + 8 * a = 8 * a := by
      rw [show fieldOfWord (everyAsid.vreg 0 0x400) 0 28 = 0 by decide +kernel]; omega
    have hp : everyAsid.pullPage 0 (8 * a) 8 = none := by rfl
    have hb : everyAsid.localPoisoned 0 (8 * a) 8 = false := unmarked rfl rfl rfl ..
    have hf : (everyAsid.walkFrom 0 (2 ^ 31 * 65536) (fun _ _ => none) 4 (1 / 4096 % 2 ^ 28 * 4096)).1
        = .leaf { page := 2 ^ 31, pages := 1, spa := 0x10000, r := true, w := true, x := true, mt := 0, shw := false } := by decide +kernel
    have hz : (!Nat.testBit 1 0 || everyAsid.badRoot 0 1) = false := by
      decide +kernel
    have he : everyAsid.readEntry 0 (2 ^ 31 * 65536) (fun _ _ => none) 0 (fieldOfWord (everyAsid.vreg 0 0x400) 0 28 * 4096 + 8 * a)
        = .ok { level := 0, span := 2 ^ 31 * 65536 / 2 ^ levelShift 0, off := 8 * a, entry := 1, cached := false } := by
      unfold State.readEntry
      simp only [hr, hp, hb, asid_entry a ha, Bool.false_eq_true, if_false]
    rw [walk_below he hz]
    exact hf
  have hs : everyAsid.spaOf 0 a { page := 2 ^ 31, pages := 1, spa := 0x10000, r := true, w := true, x := true, mt := 0, shw := false } (2 ^ 47) false
      = some 0x10000 := by
    have hn (p : Nat) : everyAsid.window? 0 a p = none := by
      have hc : ∀ n ∈ List.range 16, (everyAsid.vreg 0 (0x804 + 16 * n)).toNat.testBit 31 = false := by decide +kernel
      exact List.find?_eq_none.2 fun n hn => by simp [hc n hn]
    unfold State.spaOf
    rw [show (2 ^ 47 : Nat) / 65536 = 2 ^ 31 by decide]
    simp [hn]
  unfold State.reach
  rw [if_neg (by decide), show (2 ^ 47 : Nat) / 65536 = 2 ^ 31 by decide, hw]
  simp only [hs]
  decide +kernel

/-- A descriptor whose local bytes those tables map. -/
def far : Desc := started (leBytes 4 1 ++ leBytes 4 0 ++ leBytes 8 (2 ^ 47) ++ leBytes 8 0 ++ leBytes 4 64 ++ List.replicate 36 0)

theorem test_meets_local_side : far.bad = false ∧ far.word 0 4 ≠ 2 ∧ ∀ p ∈ vaPages (far.word 8 8) (far.word 0x18 4),
    ∃ k, everyAsid.reach 0 (Config.ueAsid 0 % 256) p.1 p.2 .copyRead = .ok k := by
  have h : far.bad = false ∧ far.word 0 4 ≠ 2 ∧ vaPages (far.word 8 8) (far.word 0x18 4) = [(2 ^ 47, 64)] := by decide +kernel
  refine ⟨h.1, h.2.1, fun p hp => ?_⟩
  rw [h.2.2, List.mem_singleton] at hp
  subst hp
  exact ⟨_, reach_every_asid _ (Nat.mod_lt _ (by decide))⟩

/-- A descriptor whose local bytes have no address. -/
def beyond : Desc := started (leBytes 4 1 ++ leBytes 4 0 ++ leBytes 8 (2 ^ 48) ++ leBytes 8 0 ++ leBytes 4 64 ++ List.replicate 36 0)

theorem test_meets_local_side_failed : beyond.bad = false ∧ (match (sending sound true).localSide beyond [] with
    | .failed => true
    | _ => false) = true := by
  decide +kernel
end Sys2Proof.Tests
end

section
/-! SUPPORT. Moves, selections, 64-bit results, conversions to and from integers, special registers and status writes (06 R163 to
R174, 09 R260, R276, R277): each is issued as its row says, and the results of its row may be written together. -/

namespace Sys2Proof.Machine

/-! ### Results that may be written together -/

/-- Results for registers apart from each other, whose U and A forms give each item the item's value. -/
structure Writable (i : Issue) (outs : List Out) : Prop where
  apart : Apart outs
  sound : ∀ o ∈ outs, o.Sound i

/-- A value that hangs on an item's index alone. -/
def ByIndex {α : Type} (v : Item → α) : Prop := ∀ t u, t.c = u.c → v t = v u

/-- A result without a U or A form. -/
theorem Out.sound_of_formless {i : Issue} {o : Out} (hform : o.form = none) (hval : ByIndex o.val) : o.Sound i where
  form f hf := by rw [hform] at hf; cases hf
  index t _ u _ htu := hval t u htu

/-- A result that copies a form. -/
theorem Out.sound_of_kept {i : Issue} {o : Out} (f : XForm) (hform : ∀ g, o.form = some g → f.kept = some g)
    (hval : ∀ t, o.val t = f.at i.launch.rcd i.ctx.cohort t.c) : o.Sound i where
  form g hg t _ := by rw [kept_at (hform g hg), hval]
  index t _ u _ htu := by rw [hval, hval, htu]

/-- A result that takes the first affected item's value as its U form where every item's value is that one. -/
theorem Out.sound_of_uniform {i : Issue} {o : Out} (uniform : Bool)
    (hform : o.form = if uniform then i.first.map fun t => .u (o.val t) else none) (hval : ByIndex o.val)
    (hconst : uniform = true → ∀ t u, o.val t = o.val u) : o.Sound i where
  form f hf t _ := by
    cases uniform with
    | false => rw [hform] at hf; cases hf
    | true =>
      rw [hform, if_pos rfl, Option.map_eq_some_iff] at hf
      obtain ⟨u, _, rfl⟩ := hf
      exact hconst rfl u t
  index t _ u _ htu := hval t u htu

theorem dstOf_dstHi_apart (d : BitVec 8) (n : Nat) :
    (dstOf d = .x n → dstHi d ≠ .x n) ∧ (dstOf d = .q n → dstHi d ≠ .q n) := by
  unfold dstOf dstHi
  simp only
  split
  · simp; omega
  · split
    · simp; omega
    · simp

theorem Writable.one {i : Issue} {o : Out} (h : o.Sound i) : Writable i [o] where
  apart := List.pairwise_singleton ..
  sound := by simpa using h

theorem Writable.two {i : Issue} {d : BitVec 8} {lo hi : Out} (hlo : lo.dst = dstOf d) (hhi : hi.dst = dstHi d)
    (slo : lo.Sound i) (shi : hi.Sound i) : Writable i [lo, hi] where
  apart := List.pairwise_pair.2 fun n => by rw [hlo, hhi]; exact dstOf_dstHi_apart d n
  sound := by simp [slo, shi]

/-- A result of one register, or of two under a modifier. -/
theorem Writable.oneOrTwo {i : Issue} {d : BitVec 8} {lo hi : Out} (wide : Bool) (hlo : lo.dst = dstOf d) (hhi : hi.dst = dstHi d)
    (slo : lo.Sound i) (shi : hi.Sound i) : Writable i (if wide then [lo, hi] else [lo]) := by
  cases wide with
  | false => exact .one slo
  | true => exact .two hlo hhi slo shi

/-- A 64-bit result that is every item's where it is taken as uniform. -/
theorem outs64_writable (i : Issue) (d : BitVec 8) (uniform : Bool) (v : Item → DWord) (hval : ByIndex v)
    (hconst : uniform = true → ∀ t u, v t = v u) : Writable i (outs64 i d uniform v) :=
  .two rfl rfl
    (Out.sound_of_uniform uniform rfl (fun t u h => congrArg loW (hval t u h)) fun hu t u => congrArg loW (hconst hu t u))
    (Out.sound_of_uniform uniform rfl (fun t u h => congrArg hiW (hval t u h)) fun hu t u => congrArg hiW (hconst hu t u))

/-! ### Going on after a change of the context alone -/

/-- A body that changes the issuing context and goes on changes nothing else of the machine. -/
theorem State.modCtx_advance_onlyCtx {s : State} {m : Meta} {i : Issue} (h : Performs s m i) (f : Ctx → Ctx)
    (hf : ∀ x, (f x).id = x.id) : OnlyCtx s i ((s.modCtx i.ctx.id f).advance i m) ((f i.ctx).gone s i m) := by
  rw [State.advance_eq]
  refine ⟨rfl, fun n hn => ?_, ?_⟩
  · rw [State.modCtx_find _ _ _ (by intro; rfl), if_neg hn, State.modCtx_find _ _ _ hf, if_neg hn]
  · rw [State.modCtx_find _ _ _ (by intro; rfl), if_pos rfl, State.modCtx_find _ _ _ hf, if_pos rfl, h.ctx]
    rfl

/-- Going on after the kills alone writes no register. -/
theorem Performs.wrote_nothing {s : State} {m : Meta} {i : Issue} (h : Performs s m i) :
    Wrote i m [] 0 ((i.ctx.kill (i.grp.map Item.c) m.marks).gone s i m) := by
  have hw := Issue.wrote h [] 0 s List.Pairwise.nil fun o ho => nomatch ho
  have hfl : i.ctx.fflags ||| (0 : BitVec 5) = (i.ctx.kill (i.grp.map Item.c) m.marks).fflags := by
    rw [Ctx.kill_same]; simp
  rw [hfl] at hw
  exact hw

/-- An instruction that can be repeated goes on alike whatever the flags are. -/
theorem Ctx.gone_withFflags {m : Meta} (hm : m.once = false) (x : Ctx) (s : State) (i : Issue) (v : BitVec 5) :
    ({ x with fflags := v } : Ctx).gone s i m = { x.gone s i m with fflags := v } := by
  simp [Ctx.gone, Item.gone, hm]

theorem Ctx.gone_withFctl (x : Ctx) (s : State) (i : Issue) (m : Meta) (v : BitVec 5) :
    ({ x with fctl := v } : Ctx).gone s i m = { x.gone s i m with fctl := v } := rfl

/-! ### Acts that use a free value -/

/-- Results that a span can hold and that fit their storage are installed. -/
theorem State.writeOuts_advance {s : State} {i : Issue} {m : Meta} {outs : List Out}
    (hspan : i.ctx.kind = .span → ∀ o ∈ outs, o.isM i = false) (hfit : s.fits (i.written m outs) = true) :
    s.writeOuts i m outs = .advance (s.setCtx (i.written m outs)) := by
  unfold State.writeOuts
  rw [if_neg]
  · exact State.install_fits s i hfit
  · simp only [Bool.and_eq_true, beq_iff_eq, List.any_eq_true, not_and, not_exists]
    intro hk o ho
    simp [hspan hk o ho]

theorem OnlyCtx.draw {s u : State} {i : Issue} {y : Ctx} (h : OnlyCtx s i u y) : OnlyCtx s.draw i u.draw y where
  rest := by rw [h.rest]; rfl
  others := h.others
  ctx := h.ctx

end Sys2Proof.Machine

namespace Sys2Proof.Claims

open Sys2Proof.Machine

/-! ### Rows that complete -/

/-- A computation without flags raises none. -/
theorem raised_flagless (i : Issue) (k : Calc) (hfl : ∀ t, k.fl t = 0) : i.raised [k] = 0 := by
  have hfold (l : List Item) : l.foldl (fun (f : FFlags) _ => f ||| 0) 0 = 0 := by
    induction l with
    | nil => rfl
    | cons _ l ih => exact ih
  unfold Issue.raised
  simp only [List.foldl_cons, List.foldl_nil, hfl, hfold]
  cases i.first <;> simp

/-- A row whose instruction is issued to perform its computation completes. -/
theorem Row.completes_of_perform {r : Row}
    (hexec : ∀ s, exec r.instr s = s.issueInstr r.info fun s i => s.perform i r.info [r.comp s i])
    (hw : ∀ s i, Writable i (r.comp s i).outs) : r.Completes := by
  intro s i h hcalm hspan hfit
  have hone : [r.comp s i].flatMap Calc.outs = (r.comp s i).outs := by simp
  have hrun := State.perform_run h [r.comp s i]
  rw [hone] at hrun
  obtain ⟨u, y, hu, honly, hwrote⟩ :=
    hrun (hw s i).apart (hw s i).sound (State.trapped_none _ (by simpa using hcalm)) hspan hfit
  exact ⟨u, y, by rw [hexec, h.issueInstr, hu], honly, hwrote⟩

/-- A row without flags whose instruction is issued to write its results completes. -/
theorem Row.completes_of_writeOuts {r : Row}
    (hexec : ∀ s, exec r.instr s = s.issueInstr r.info fun s i => s.writeOuts i r.info (r.comp s i).outs)
    (hfl : ∀ s i t, (r.comp s i).fl t = 0) (hw : ∀ s i, Writable i (r.comp s i).outs) : r.Completes := by
  intro s i h _ hspan hfit
  obtain ⟨u, y, hu, honly, hwrote⟩ := State.writeOuts_run h _ (hw s i).apart (hw s i).sound hspan hfit
  exact ⟨u, y, by rw [hexec, h.issueInstr, hu], honly, by rw [raised_flagless i _ (hfl s i)]; exact hwrote⟩

/-! ### What an item reads -/

theorem readLo_byIndex (s : State) (i : Issue) (a : Src) : ByIndex (readLo s i a) :=
  fun t u h => by simp only [readLo, h]

theorem readHi_byIndex (s : State) (i : Issue) (a : Src) (sx : Bool) : ByIndex (readHi s i a sx) :=
  fun t u h => by simp only [readHi, h]

theorem readWide_byIndex (s : State) (i : Issue) (a : Src) (sx : Bool) : ByIndex (readWide s i a sx) :=
  fun t u h => by simp only [readWide, readLo_byIndex s i a t u h, readHi_byIndex s i a sx t u h]

/-- Every item reads the same of an operand that is U. -/
theorem readLo_const {s : State} {i : Issue} {a : Src} (h : s.narrowU i a = true) (t u : Item) : readLo s i a t = readLo s i a u := by
  unfold State.narrowU at h
  split at h
  · next w hw => simp only [readLo, hw, XForm.at]
  · cases h

/-- Every item reads the same of a 64-bit operand whose halves are U. -/
theorem readWide_const {s : State} {i : Issue} {a : Src} {sx : Bool} (h : s.wideU i a sx = true) (t u : Item) :
    readWide s i a sx t = readWide s i a sx u := by
  unfold State.wideU at h
  split at h
  · next w v hw hv => simp only [readWide, readLo, readHi, hw, hv, XForm.at]
  · cases h

/-! ### Moves (R164, R166) -/

theorem movRow_completes (e : Ext) : (movRow e).Completes :=
  Row.completes_of_writeOuts (fun _ => rfl) (fun _ _ _ => rfl) fun s i =>
    .oneOrTwo (e.modBit 0) rfl rfl
      (Out.sound_of_kept (s.src32 i.ctx i.launch.rcd (e.src e.a)) (fun _ h => h) fun _ => rfl)
      (Out.sound_of_kept (s.srcHi i.ctx i.launch.rcd (e.src e.a) false) (fun _ h => h) fun _ => rfl)

theorem movBaseRows_complete (v : Base1) (k : Base1Lit) : ∀ r ∈ movBaseRows v k, r.Completes := by
  simp only [movBaseRows, List.forall_mem_cons, List.not_mem_nil, false_implies, implies_true, and_true]
  constructor
  · exact Row.completes_of_writeOuts (fun _ => rfl) (fun _ _ _ => rfl) fun s i =>
      .one (Out.sound_of_kept (s.src32 i.ctx i.launch.rcd v.src) (fun _ h => h) fun _ => rfl)
  · exact Row.completes_of_writeOuts (fun _ => rfl) (fun _ _ _ => rfl) fun s i =>
      .one (Out.sound_of_kept (.u k.lit) (fun _ h => h) fun _ => rfl)

/-- A result that is a function of a 32-bit operand, U where the operand is. -/
theorem sound_of_oneU {s : State} {i : Issue} {a : Src} {o : Out} (f : Word → Word)
    (hform : o.form = oneU f (s.src32 i.ctx i.launch.rcd a)) (hval : ∀ t, o.val t = f (readLo s i a t)) : o.Sound i where
  form g hg t _ := by rw [hval]; exact oneU_agree f _ g (hform ▸ hg) ..
  index t _ u _ htu := by rw [hval, hval, readLo_byIndex s i a t u htu]

theorem movkRow_completes (e : Ext) : (movkRow e).Completes :=
  Row.completes_of_writeOuts (fun _ => rfl) (fun _ _ _ => rfl) fun s i =>
    .oneOrTwo (e.modBit 0) rfl rfl
      (sound_of_oneU (a := e.src e.a) (fun v => (s.kWord i.ctx (v.toNat + e.imm.toNat + 0)).getD 0) rfl fun _ => rfl)
      (sound_of_oneU (a := e.src e.a) (fun v => (s.kWord i.ctx (v.toNat + e.imm.toNat + 1)).getD 0) rfl fun _ => rfl)

/-! ### Selections (R168) -/

/-- The form of a selection: that of the operand which a U predicate selects (R168). -/
def selForm (p : PForm) (neg : Bool) (fa fb : XForm) : Option XForm :=
  match p with
  | .u v => (if xor v neg then fa else fb).kept
  | _ => none

theorem sound_of_selection {i : Issue} {o : Out} (p : PForm) (neg : Bool) (fa fb : XForm) (hform : o.form = selForm p neg fa fb)
    (hval : ∀ t, o.val t = (if xor (p.at i.launch.rcd i.ctx.cohort t.c) neg then fa else fb).at i.launch.rcd i.ctx.cohort t.c) :
    o.Sound i where
  form g hg t _ := by
    rw [hform] at hg
    cases p with
    | u v => rw [kept_at hg, hval]; rfl
    | e _ => cases hg
    | m _ => cases hg
  index t _ u _ htu := by rw [hval, hval, htu]

theorem selRow_completes (e : Ext) : (selRow e).Completes :=
  Row.completes_of_writeOuts (fun _ => rfl) (fun _ _ _ => rfl) fun _ i =>
    .oneOrTwo (e.modBit 1) rfl rfl
      (sound_of_selection (i.ctx.pForm e.c.toNat) (e.modBit 0) _ _ rfl fun _ => rfl)
      (sound_of_selection (i.ctx.pForm e.c.toNat) (e.modBit 0) _ _ rfl fun _ => rfl)

/-! ### 64-bit sums and products (R260) -/

theorem iadd64Row_completes (e : Ext) : (iadd64Row e).Completes := by
  refine Row.completes_of_perform (fun _ => rfl) fun s i => outs64_writable _ _ _ _ (fun t u h => ?_) fun hu t u => ?_
  · rw [readWide_byIndex s i (e.src e.a) true t u h, readWide_byIndex s i (e.src e.b) true t u h]
  · obtain ⟨ha, hb⟩ := Bool.and_eq_true_iff.1 hu
    rw [readWide_const ha t u, readWide_const hb t u]

theorem imad64Row_completes (e : Ext) : (imad64Row e).Completes := by
  refine Row.completes_of_perform (fun _ => rfl) fun s i => outs64_writable _ _ _ _ (fun t u h => ?_) fun hu t u => ?_
  · rw [readLo_byIndex s i (e.src e.a) t u h, readLo_byIndex s i (e.src e.b) t u h, readWide_byIndex s i (e.src e.c) true t u h]
  · obtain ⟨hab, hc⟩ := Bool.and_eq_true_iff.1 hu
    obtain ⟨ha, hb⟩ := Bool.and_eq_true_iff.1 hab
    rw [readLo_const ha t u, readLo_const hb t u, readWide_const hc t u]

/-! ### Conversions to and from integers (R276, R277) -/

theorem ftoiRow_completes (e : Ext) : (ftoiRow e).Completes :=
  Row.completes_of_perform (fun _ => rfl) fun s i =>
    .oneOrTwo (e.modBit 4) rfl rfl
      (Out.sound_of_formless rfl fun t u h => by simp only [readLo_byIndex s i (e.src e.a) t u h])
      (Out.sound_of_formless rfl fun t u h => by simp only [readLo_byIndex s i (e.src e.a) t u h])

theorem ite_u_at (c : Prop) [Decidable c] (w : Word) (f : XForm) (r : LaunchRec) (k n : Nat) :
    (if c then .u w else f).at r k n = if c then w else f.at r k n := by
  split <;> rfl

theorem itofRow_completes (e : Ext) : (itofRow e).Completes := by
  refine Row.completes_of_perform (fun s => ?_) fun s i => .one (Out.sound_of_formless rfl fun t u h => ?_)
  · simp only [exec, execItof, ite_u_at]
    rfl
  · simp only [readLo_byIndex s i (e.src e.a) t u h, readHi_byIndex s i (e.src e.a) false t u h]

/-! ### Form codes (R213) -/

theorem formqRow_completes (e : Ext) : (formqRow e).Completes :=
  Row.completes_of_writeOuts (fun _ => rfl) (fun _ _ _ => rfl) fun _ _ =>
    .one (Out.sound_of_kept (.u _) (fun _ h => h) fun _ => rfl)

/-! ### Predicates as a word (R174) -/

/-- The bits of a list, the lowest first, make up the sum of the powers of two that they stand for. -/
theorem foldr_bits_eq_sum {α : Type} (bit : α → Bool) (g : Nat → α) (n : Nat) :
    ((List.range n).map g).foldr (fun p acc => 2 * acc + if bit p then 1 else 0) 0
      = ((List.range n).map fun j => if bit (g j) then 2 ^ j else 0).sum := by
  induction n generalizing g with
  | zero => rfl
  | succ n ih =>
    have hdouble : ((List.range n).map fun j => if bit (g (j + 1)) then 2 ^ (j + 1) else 0).sum
        = 2 * ((List.range n).map fun j => if bit (g (j + 1)) then 2 ^ j else 0).sum := by
      rw [← List.sum_map_mul_left]
      refine congrArg List.sum (List.map_congr_left fun j _ => ?_)
      rw [mul_ite, pow_succ', mul_zero]
    rw [List.range_succ_eq_map, List.map_cons, List.map_cons, List.map_map, List.map_map, List.foldr_cons, List.sum_cons]
    simp only [Function.comp_def, Nat.succ_eq_add_one, hdouble, ih fun j => g (j + 1), pow_zero]
    omega

/-- The word of 32 predicates that `pmov` reads for an item (R174). -/
def predWord (i : Issue) (e : Ext) (c : Nat) : Word :=
  .ofNat 32 (((List.range 32).map fun j => if i.ctx.pAt i.launch.rcd (32 * e.modBits 1 2 + j) c then 2 ^ j else 0).sum)

/-- All 32 predicates are U. -/
def predsU (i : Issue) (e : Ext) : Bool :=
  ((List.range 32).map fun j => i.ctx.pForm (32 * e.modBits 1 2 + j)).all fun p => match p with
    | .u _ => true
    | _ => false

theorem predWord_const {i : Issue} {e : Ext} (h : predsU i e = true) (c d : Nat) : predWord i e c = predWord i e d := by
  unfold predWord
  refine congrArg (fun l : List Nat => BitVec.ofNat 32 l.sum) (List.map_congr_left fun j hj => ?_)
  have hu := List.all_eq_true.1 h _ (List.mem_map_of_mem hj)
  unfold Ctx.pAt
  cases hp : i.ctx.pForm (32 * e.modBits 1 2 + j) with
  | u v => rfl
  | e _ => rw [hp] at hu; cases hu
  | m _ => rw [hp] at hu; cases hu

theorem exec_pmov_get (e : Ext) (h : e.modBit 0 = false) (s : State) :
    exec (.pmov e) s = s.issueInstr (e.info 1 0 0 0) fun s i => s.writeOuts i (e.info 1 0 0 0)
      [{ dst := dstOf e.d, form := if predsU i e then i.first.map fun t => .u (predWord i e t.c) else none,
         val := fun t => predWord i e t.c }] := by
  have hword (i : Issue) (c : Nat) := foldr_bits_eq_sum (fun p : PForm => p.at i.launch.rcd i.ctx.cohort c)
    (fun j => i.ctx.pForm (32 * e.modBits 1 2 + j)) 32
  simp only [exec, execPmov, h, Bool.false_eq_true, if_false, hword]
  rfl

theorem pmovGetRow_completes (e : Ext) (h : e.modBit 0 = false) : (pmovGetRow e).Completes :=
  Row.completes_of_writeOuts (exec_pmov_get e h) (fun _ _ _ => rfl) fun _ i =>
    .one (Out.sound_of_uniform (predsU i e) rfl (fun _ _ htu => congrArg (predWord i e) htu) fun hu t u =>
      predWord_const hu t.c u.c)

/-! ### The rows of this family -/

theorem wideRows_complete (e : Ext) : ∀ r ∈ wideRows e, r.Completes := by
  simp only [wideRows, List.forall_mem_append, List.forall_mem_cons]
  refine ⟨⟨movRow_completes e, iadd64Row_completes e, imad64Row_completes e, ftoiRow_completes e, itofRow_completes e,
    movkRow_completes e, selRow_completes e, formqRow_completes e, fun r hr => nomatch hr⟩, fun r hr => ?_⟩
  split at hr
  · cases hr
  · next h => rw [List.mem_singleton.1 hr]; exact pmovGetRow_completes e (by simpa using h)

/-! ### Special registers (R170) -/

theorem exec_rds (e : Ext) (s : State) : exec (.rds e) s = s.issueInstr (rdsRow e).info fun s i =>
    if e.mod == 0x0E && i.ctx.kind == CtxKind.span then (s.writeOuts i (rdsRow e).info ((rdsRow e).comp s i).outs).drawn
    else s.writeOuts i (rdsRow e).info ((rdsRow e).comp s i).outs := rfl

theorem rdsRow_writable (e : Ext) (s : State) (i : Issue) : Writable i ((rdsRow e).comp s i).outs :=
  .one (Out.sound_of_kept (s.special i e.mod.toNat).norm (fun _ h => h) fun _ => rfl)

theorem rdsRow_completes (e : Ext) (h : e.mod ≠ 0x0E) : (rdsRow e).Completes := by
  refine Row.completes_of_writeOuts (fun s => ?_) (fun _ _ _ => rfl) (rdsRow_writable e)
  refine (exec_rds e s).trans ?_
  simp only [beq_false_of_ne h, Bool.false_and, Bool.false_eq_true, if_false]

/-- `rds` of s_lane writes its result; a span, which has no lane, draws a free value for it (log entry 87). -/
theorem rds_lane_completes (e : Ext) (h : e.mod = 0x0E) {s : State} {i : Issue} (hp : Performs s (rdsRow e).info i)
    (hspan : i.ctx.kind = .span → ∀ o ∈ ((rdsRow e).comp s i).outs, o.isM i = false)
    (hfit : s.fits (i.written (rdsRow e).info ((rdsRow e).comp s i).outs) = true) :
    ∃ u y, exec (.rds e) s = .next u ∧ OnlyCtx (if i.ctx.kind = .span then { s with free := s.free + 1 } else s) i u y
      ∧ Wrote i (rdsRow e).info ((rdsRow e).comp s i).outs 0 y := by
  obtain ⟨hap, hs⟩ := rdsRow_writable e s i
  obtain ⟨u, y, hu, honly, hwrote⟩ := State.writeOuts_run hp _ hap hs hspan hfit
  rw [exec_rds, hp.issueInstr]
  by_cases hk : i.ctx.kind = .span
  · refine ⟨u.draw, y, ?_, ?_, hwrote⟩
    · rw [if_pos (by simp [h, hk]), ← hu, State.writeOuts_advance hspan hfit]
      rfl
    · rw [if_pos hk]
      exact honly.draw
  · refine ⟨u, y, ?_, ?_, hwrote⟩
    · rw [if_neg (by simp [hk]), hu]
    · rw [if_neg hk]
      exact honly

/-! ### Status writes (R170) -/

/-- The context after a status register has taken a value. -/
def statusSet (e : Ext) (v : BitVec 5) (x : Ctx) : Ctx := if e.mod = 0x13 then { x with fflags := v } else { x with fctl := v }

theorem statusSet_id (e : Ext) (v : BitVec 5) (x : Ctx) : (statusSet e v x).id = x.id := by
  unfold statusSet; split <;> rfl

theorem statusSet_gone {m : Meta} (hm : m.once = false) (e : Ext) (v : BitVec 5) (x : Ctx) (s : State) (i : Issue) :
    (statusSet e v x).gone s i m = statusSet e v (x.gone s i m) := by
  unfold statusSet
  split
  · exact Ctx.gone_withFflags hm x s i v
  · exact Ctx.gone_withFctl x s i m v

theorem exec_wrs (e : Ext) {s : State} {i : Issue} {t : Item} (h : Performs s (e.info 0 1 0 0) i) (ht : i.first = some t) :
    exec (.wrs e) s = .next (if s.flagsDue i.ctx then s else
      (s.modCtx i.ctx.id fun x => statusSet e ((readLo s i (e.src e.a) t).setWidth 5)
        (x.kill (i.grp.map Item.c) (e.info 0 1 0 0).marks)).advance i (e.info 0 1 0 0)) := by
  rw [show exec (.wrs e) s = execWrs e s from rfl, execWrs, h.issueInstr]
  simp only [ht]
  cases s.flagsDue i.ctx with
  | true => rfl
  | false =>
    simp only [Bool.false_eq_true, if_false, Act.run, statusSet, beq_iff_eq]
    rfl

theorem statusRegistersTakeWhatIsWritten : StatusRegistersTakeWhatIsWritten := by
  intro e s i t h ht
  refine ⟨fun hdue => ?_, fun hdue => by rw [exec_wrs e h ht, if_pos hdue]⟩
  have hid (x : Ctx) : (statusSet e ((readLo s i (e.src e.a) t).setWidth 5)
      (x.kill (i.grp.map Item.c) (e.info 0 1 0 0).marks)).id = x.id := by
    rw [statusSet_id, Ctx.kill_same]
  refine ⟨_, (i.ctx.kill (i.grp.map Item.c) (e.info 0 1 0 0).marks).gone s i (e.info 0 1 0 0), _, ?_,
    State.modCtx_advance_onlyCtx h _ hid, h.wrote_nothing, statusSet_gone rfl ..⟩
  rw [exec_wrs e h ht, if_neg (by simp [hdue])]

/-- Settles O24: each row is issued to write results that may be written together (the high half that `itof` reads of an immediate is
free, log entry 22), `rds` of s_lane draws besides in a span (log entry 87), and `wrs` changes the context alone. -/
theorem movesWideAndStatusInstructionsWriteResults : Obligations.MovesWideAndStatusInstructionsWriteResults :=
  ⟨⟨wideRows_complete, movBaseRows_complete, rdsRow_completes, fun e h _ _ => rds_lane_completes e h⟩,
    statusRegistersTakeWhatIsWritten⟩

end Sys2Proof.Claims
end

section
/-! SUPPORT. Integer instructions (09 R245 to R258): each is issued to perform a computation of one, two or three 32-bit sources, whose
result form agrees with its word function. -/

namespace Sys2Proof.Machine

theorem Ext.modBits_lt (e : Ext) (s n : Nat) : e.modBits s n < 2 ^ n := Nat.mod_lt _ (Nat.two_pow_pos n)

/-! ### The computations of one, two and three sources -/

theorem calc1_writable {f : Word → Word} (s : State) (i : Issue) (d : Dst) (a : Src) : Writable i (s.calc1 i d a f).outs :=
  .one {
    form := fun g hg _ _ => oneU_agree f _ g hg ..
    index := fun _ _ _ _ htu => by simp only [htu] }

theorem calc2_writable {form : XForm → XForm → Option XForm} {f : Word → Word → Word} (hf : Agree2 form f) (s : State) (i : Issue)
    (d : Dst) (a b : Src) : Writable i (s.calc2 i d a b form f).outs :=
  .one {
    form := fun g hg _ _ => hf _ _ g hg ..
    index := fun _ _ _ _ htu => by simp only [htu] }

theorem calc3_writable {form : XForm → XForm → XForm → Option XForm} {f : Word → Word → Word → Word} (hf : Agree3 form f)
    (s : State) (i : Issue) (d : Dst) (a b c : Src) : Writable i (s.calc3 i d a b c form f).outs :=
  .one {
    form := fun g hg _ _ => hf _ _ _ g hg ..
    index := fun _ _ _ _ htu => by simp only [htu] }

end Sys2Proof.Machine

namespace Sys2Proof.Claims

open Sys2Proof.Machine

/-! ### Rows of integer instructions -/

theorem one_completes {j : Instr} {e : Ext} {f : Word → Word} (hexec : ∀ s, exec j s = e.run1 f s) : (one j e f).Completes :=
  Row.completes_of_perform hexec fun s i => calc1_writable s i (dstOf e.d) (e.src e.a)

theorem two_completes {j : Instr} {e : Ext} {form : XForm → XForm → Option XForm} {f : Word → Word → Word}
    (hexec : ∀ s, exec j s = e.run2 form f s) (hf : Agree2 form f) : (two j e form f).Completes :=
  Row.completes_of_perform hexec fun s i => calc2_writable hf s i (dstOf e.d) (e.src e.a) (e.src e.b)

theorem three_completes {j : Instr} {e : Ext} {form : XForm → XForm → XForm → Option XForm} {f : Word → Word → Word → Word}
    (hexec : ∀ s, exec j s = e.run3 form f s) (hf : Agree3 form f) : (three j e form f).Completes :=
  Row.completes_of_perform hexec fun s i => calc3_writable hf s i (dstOf e.d) (e.src e.a) (e.src e.b) (e.src e.c)

theorem base_completes {j : Instr} {w : BaseOps} {form : XForm → XForm → Option XForm} {f : Word → Word → Word}
    (hexec : ∀ s, exec j s = w.run2 form f s) (hf : Agree2 form f) : (base j w form f).Completes :=
  Row.completes_of_perform hexec fun s i => calc2_writable hf s i (.x w.d.toNat) (regSrc false w.a.toNat) w.srcB

theorem baseLit_completes {j : Instr} {w : BaseLit} {form : XForm → XForm → Option XForm} {f : Word → Word → Word}
    (hexec : ∀ s, exec j s = w.run2 form f s) (hf : Agree2 form f) : (baseLit j w form f).Completes :=
  Row.completes_of_perform hexec fun s i => calc2_writable hf s i (.x w.d.toNat) (regSrc false w.a.toNat) (litSrc w.lit)

theorem base1_completes {j : Instr} {w : Base1} {f : Word → Word} (hexec : ∀ s, exec j s = w.run1 f s) : (base1 j w f).Completes :=
  Row.completes_of_perform hexec fun s i => calc1_writable s i (.x w.d.toNat) w.src

theorem base1Lit_completes {j : Instr} {w : Base1Lit} {f : Word → Word} (hexec : ∀ s, exec j s = w.run1 f s) :
    (base1Lit j w f).Completes :=
  Row.completes_of_perform hexec fun s i => calc1_writable s i (.x w.d.toNat) (litSrc w.lit)

/-- A base word and its literal form, which perform one computation. -/
theorem baseRows_complete {j j' : Instr} {w : BaseOps} {l : BaseLit} {form : XForm → XForm → Option XForm} {f : Word → Word → Word}
    (hj : ∀ s, exec j s = w.run2 form f s) (hj' : ∀ s, exec j' s = l.run2 form f s) (hf : Agree2 form f) :
    ∀ r ∈ [base j w form f, baseLit j' l form f], r.Completes :=
  List.forall_mem_cons.2 ⟨base_completes hj hf, List.forall_mem_singleton.2 (baseLit_completes hj' hf)⟩

/-! ### The word functions of R248 -/

theorem addOf_eq_iaddW : addOf = iaddW := rfl

theorem subOf_eq_isubW : subOf = isubW := rfl

theorem mulhOf_eq_imulhW : mulhOf = imulhW := rfl

theorem minOf_eq_iminW : minOf = iminW := by
  funext uns x y
  cases uns <;> simp [minOf, iminW, ltW]

theorem maxOf_eq_imaxW : maxOf = imaxW := by
  funext uns x y
  cases uns <;> simp [maxOf, imaxW, ltW]

/-! ### The rows of this family -/

theorem intExt_complete (e : Ext) : ∀ r ∈ intExt e, r.Completes := by
  simp only [intExt, List.forall_mem_cons, addOf_eq_iaddW, subOf_eq_isubW, mulhOf_eq_imulhW, minOf_eq_iminW, maxOf_eq_imaxW]
  exact ⟨
    two_completes (fun _ => rfl) (formSum_add _),                               -- iadd
    two_completes (fun _ => rfl) (formSum_sub _),                               -- isub
    two_completes (fun _ => rfl) formMul_agree,                                 -- imul
    two_completes (fun _ => rfl) (bothU_agree _),                               -- imulh
    two_completes (fun _ => rfl) (bothU_agree _),                               -- imin
    two_completes (fun _ => rfl) (bothU_agree _),                               -- imax
    two_completes (fun _ => rfl) (bothU_agree _),                               -- and
    two_completes (fun _ => rfl) (bothU_agree _),                               -- or
    two_completes (fun _ => rfl) (bothU_agree _),                               -- xor
    two_completes (fun _ => rfl) (bothU_agree _),                               -- andn
    two_completes (fun _ => rfl) formShl_agree,                                 -- shl
    two_completes (fun _ => rfl) (bothU_agree _),                               -- shr
    two_completes (fun _ => rfl) (bothU_agree _),                               -- sar
    two_completes (fun _ => rfl) (bothU_agree _),                               -- rol
    two_completes (fun _ => rfl) (formLea_agree _ (Ext.modBits_lt e 0 5)),      -- lea
    two_completes (fun _ => rfl) (bothU_agree _),                               -- bfe
    one_completes fun _ => rfl,                                                 -- iabs
    one_completes fun _ => rfl,                                                 -- ineg
    one_completes fun _ => rfl,                                                 -- not
    one_completes fun _ => rfl,                                                 -- popc
    one_completes fun _ => rfl,                                                 -- clz
    one_completes fun _ => rfl,                                                 -- brev
    three_completes (fun _ => rfl) formMad_agree,                               -- imad
    three_completes (fun _ => rfl) (threeU_agree _),                            -- bfi
    three_completes (fun _ => rfl) (threeU_agree _),                            -- bperm
    three_completes (fun _ => rfl) (threeU_agree _),                            -- idp4
    List.forall_mem_nil _⟩

theorem intBase_complete (w : BaseOps) (l : BaseLit) (v : Base1) (k : Base1Lit) : ∀ r ∈ intBase w l v k, r.Completes := by
  simp only [intBase, List.forall_mem_append, and_assoc, mulhOf_eq_imulhW, minOf_eq_iminW, maxOf_eq_imaxW]
  refine ⟨
    baseRows_complete (fun _ => rfl) (fun _ => rfl) (formSum_add false),        -- iadd
    baseRows_complete (fun _ => rfl) (fun _ => rfl) (formSum_sub false),        -- isub
    baseRows_complete (fun _ => rfl) (fun _ => rfl) formMul_agree,              -- imul
    baseRows_complete (fun _ => rfl) (fun _ => rfl) (bothU_agree _),            -- imulh
    baseRows_complete (fun _ => rfl) (fun _ => rfl) (bothU_agree _),            -- imin
    baseRows_complete (fun _ => rfl) (fun _ => rfl) (bothU_agree _),            -- imax
    baseRows_complete (fun _ => rfl) (fun _ => rfl) (bothU_agree _),            -- and
    baseRows_complete (fun _ => rfl) (fun _ => rfl) (bothU_agree _),            -- or
    baseRows_complete (fun _ => rfl) (fun _ => rfl) (bothU_agree _),            -- xor
    baseRows_complete (fun _ => rfl) (fun _ => rfl) (bothU_agree _),            -- andn
    baseRows_complete (fun _ => rfl) (fun _ => rfl) formShl_agree,              -- shl
    baseRows_complete (fun _ => rfl) (fun _ => rfl) (bothU_agree _),            -- shr
    baseRows_complete (fun _ => rfl) (fun _ => rfl) (bothU_agree _),            -- sar
    baseRows_complete (fun _ => rfl) (fun _ => rfl) (bothU_agree _),            -- rol
    baseRows_complete (fun _ => rfl) (fun _ => rfl) (formLea_agree 1 (by decide)),
    baseRows_complete (fun _ => rfl) (fun _ => rfl) (formLea_agree 2 (by decide)),
    baseRows_complete (fun _ => rfl) (fun _ => rfl) (formLea_agree 3 (by decide)), ?_⟩
  simp only [List.forall_mem_cons]
  exact ⟨
    base1_completes fun _ => rfl, base1Lit_completes fun _ => rfl,              -- popc
    base1_completes fun _ => rfl, base1Lit_completes fun _ => rfl,              -- clz
    base1_completes fun _ => rfl, base1Lit_completes fun _ => rfl,              -- brev
    base1_completes fun _ => rfl, base1Lit_completes fun _ => rfl,              -- not
    List.forall_mem_nil _⟩

/-- Settles O1: each row is issued to perform a computation that raises no flags, whose result form gives every item the value of the
row's word function. -/
theorem integerInstructionsWriteResults : Obligations.IntegerInstructionsWriteResults :=
  ⟨intExt_complete, intBase_complete⟩

end Sys2Proof.Claims
end

section
/-! SUPPORT. Addresses of memory instructions (11 R314, R316, R318): the effective address through what an item reads at its operands,
the pieces of an access by the length of the first, and local addresses by their quotient and remainder. -/

namespace Sys2Proof.Claims

open Sys2Proof.Machine

/-! ### Effective addresses (R314) -/

theorem readWide_toNat (s : State) (i : Issue) (a : Src) (sx : Bool) (t : Item) :
    (readWide s i a sx t).toNat = (readHi s i a sx t).toNat * 2 ^ 32 + (readLo s i a t).toNat := by
  rw [readWide, BitVec.toNat_append, ← Nat.shiftLeft_add_eq_or_of_lt (readLo s i a t).isLt, Nat.shiftLeft_eq]

theorem ea_of_narrow {f : MemForm} (h : f.a64 = false) (s : State) (i : Issue) (t : Item) :
    (s.ea i f t : Int) = ((readLo s i f.base t).toNat + (readLo s i f.index t).toNat * f.scale + f.off) % 2 ^ 32 := by
  simp only [State.ea, h, Bool.false_eq_true, if_false]
  refine (Int.toNat_of_nonneg (Int.emod_nonneg _ (by decide))).trans ?_
  push_cast
  rfl

theorem ea_of_wide {f : MemForm} (h : f.a64 = true) (s : State) (i : Issue) (t : Item) :
    (s.ea i f t : Int)
      = ((readWide s i f.base false t).toNat + (readLo s i f.index t).toNat * f.scale + f.off) % 2 ^ 64 := by
  simp only [State.ea, h, if_true]
  refine (Int.toNat_of_nonneg (Int.emod_nonneg _ (by decide))).trans ?_
  rw [readWide_toNat]
  push_cast
  rfl

end Sys2Proof.Claims

namespace Sys2Proof.Machine

/-! ### Pieces (R318) -/

/-- The length of the first piece of `n` bytes at `va`: the largest that `va` is aligned to and the bytes fill. -/
def pieceLen (va n : Nat) : Nat :=
  if va % 8 = 0 ∧ 8 ≤ n then 8 else if va % 4 = 0 ∧ 4 ≤ n then 4 else if va % 2 = 0 ∧ 2 ≤ n then 2 else 1

theorem piecesFrom_zero (fuel va : Nat) : piecesFrom fuel va 0 = [] := by
  cases fuel <;> rfl

theorem piecesFrom_succ (fuel va : Nat) {n : Nat} (h : n ≠ 0) :
    piecesFrom (fuel + 1) va n = (va, pieceLen va n) :: piecesFrom fuel (va + pieceLen va n) (n - pieceLen va n) := by
  rw [piecesFrom, if_neg h]
  rfl

/-- A piece has one of the four lengths, is aligned to it, and lies within the access. -/
theorem pieceLen_spec (va : Nat) {n : Nat} (h : n ≠ 0) :
    (pieceLen va n = 1 ∨ pieceLen va n = 2 ∨ pieceLen va n = 4 ∨ pieceLen va n = 8) ∧ va % pieceLen va n = 0 ∧ pieceLen va n ≤ n := by
  unfold pieceLen
  split_ifs <;> omega

theorem map_add_range_add (va a b : Nat) :
    (List.range (a + b)).map (va + ·) = (List.range a).map (va + ·) ++ (List.range b).map (va + a + ·) := by
  simp only [List.range_add, List.map_append, List.map_map, Function.comp_def, Nat.add_assoc]

/-- The pieces cover the access in order, whenever the fuel suffices for pieces of one byte. -/
theorem piecesFrom_cover {fuel n : Nat} (va : Nat) (h : n ≤ fuel) :
    (piecesFrom fuel va n).flatMap (fun p => (List.range p.2).map (p.1 + ·)) = (List.range n).map (va + ·) := by
  induction fuel generalizing va n with
  | zero => rw [Nat.le_zero.mp h]; rfl
  | succ fuel ih =>
    rcases eq_or_ne n 0 with rfl | hn
    · rw [piecesFrom_zero]; rfl
    · obtain ⟨hlen, -, hle⟩ := pieceLen_spec va hn
      rw [piecesFrom_succ fuel va hn, List.flatMap_cons, ih _ (by omega), ← map_add_range_add, Nat.add_sub_cancel' hle]

theorem piecesFrom_aligned {fuel n va : Nat} {p : Nat × Nat} (hp : p ∈ piecesFrom fuel va n) :
    (p.2 = 1 ∨ p.2 = 2 ∨ p.2 = 4 ∨ p.2 = 8) ∧ p.1 % p.2 = 0 := by
  induction fuel generalizing va n with
  | zero => cases hp
  | succ fuel ih =>
    rcases eq_or_ne n 0 with rfl | hn
    · rw [piecesFrom_zero] at hp; cases hp
    · rw [piecesFrom_succ fuel va hn, List.mem_cons] at hp
      obtain ⟨hlen, halign, -⟩ := pieceLen_spec va hn
      rcases hp with rfl | hp
      · exact ⟨hlen, halign⟩
      · exact ih hp

/-! ### Local addresses (R316) -/

/-- A remainder and a quotient are read back from the number they make. -/
theorem eq_of_add_mul_eq {n L L' q q' : Nat} (hL : L < n) (hL' : L' < n) (h : L + n * q = L' + n * q') : L = L' ∧ q = q' := by
  have hpos : 0 < n := by omega
  obtain ⟨hquot, hrem⟩ := (Nat.div_mod_unique hpos).mpr ⟨h, hL⟩
  obtain ⟨hquot', hrem'⟩ := (Nat.div_mod_unique hpos).mpr ⟨rfl, hL'⟩
  exact ⟨hrem.symm.trans hrem', hquot.symm.trans hquot'⟩

/-- A local address is a 16-byte row, one for each item within one for each 16 bytes of an item's array, and a byte of the row. -/
theorem localVa_eq (r : LaunchRec) (k c off : Nat) :
    localVa r k c off = r.lbase + (off % 16 + 16 * (linear r k c + r.nx * r.ny * r.nz * (off / 16))) := by
  rw [localVa]
  ring

theorem localVa_inj {r : LaunchRec} {k c c' off off' : Nat} (hc : linear r k c < r.nx * r.ny * r.nz)
    (hc' : linear r k c' < r.nx * r.ny * r.nz) (h : localVa r k c off = localVa r k c' off') :
    linear r k c = linear r k c' ∧ off = off' := by
  rw [localVa_eq, localVa_eq] at h
  obtain ⟨hbyte, hrow⟩ := eq_of_add_mul_eq (Nat.mod_lt off (by decide)) (Nat.mod_lt off' (by decide)) (Nat.add_left_cancel h)
  obtain ⟨hitem, hquot⟩ := eq_of_add_mul_eq hc hc' hrow
  exact ⟨hitem, by omega⟩

end Sys2Proof.Machine

namespace Sys2Proof.Claims

open Sys2Proof.Machine

/-- Settles O26: one formula for each width of the base, pieces by induction on the fuel, local addresses read back by division. -/
theorem addressesFollowTheirOperands : Obligations.AddressesFollowTheirOperands :=
  ⟨fun s i _ t => ⟨fun h => ea_of_narrow h s i t, fun h => ea_of_wide h s i t⟩,
    fun va _ => ⟨piecesFrom_cover va le_rfl, fun _ => piecesFrom_aligned⟩,
    fun _ _ _ _ _ _ => localVa_inj⟩

end Sys2Proof.Claims
end

section
/-! SUPPORT. Reading through the banks (04 R94 to R98): no step of it writes memory, so that a context reads of its record what its core's L1
or the record's home holds (15 R403). -/

namespace Sys2Proof.Machine

/-! ### Reading through the banks writes no memory (R94 to R96, R98) -/

/-- Steps that write no memory, taken one after another, write none. -/
theorem foldl_keeps_mem {α : Type} {f : State → α → State} (hf : ∀ s a, (f s a).mem = s.mem) (l : List α) (s : State) :
    (l.foldl f s).mem = s.mem :=
  List.foldlRecOn (motive := fun t => t.mem = s.mem) l f rfl fun t ht a _ => (hf t a).trans ht

theorem State.interrupt_mem (s : State) (slice source announced : Nat) : (s.interrupt slice source announced).mem = s.mem := by
  simp only [State.interrupt]
  split_ifs <;> rfl

theorem State.dropLine_mem (s : State) (l : L2Line) : (s.dropLine l).mem = s.mem := by
  simp only [State.dropLine]
  split_ifs <;> rfl

theorem State.fillLine_mem (s : State) (l : L2Line) (mask fuel : Nat) : (s.fillLine l mask fuel).mem = s.mem := by
  induction fuel generalizing s with
  | zero => rfl
  | succ fuel ih =>
    simp only [State.fillLine]
    split
    · rfl
    · split
      · rw [ih, State.dropLine_mem]
      · rfl

theorem State.regrow_mem (s : State) (l l' : L2Line) : (s.regrow l l').mem = s.mem := by
  simp only [State.regrow]
  split_ifs
  · rfl
  · rfl
  · rw [State.dropLine_mem]
  · rw [State.fillLine_mem]

theorem State.setPoison_mem (s : State) (slice sector : Nat) : (s.setPoison slice sector).mem = s.mem := by
  unfold State.setPoison
  split
  · exact State.regrow_mem ..
  · rfl

theorem State.checkSector_mem (s : State) (sector : Nat) : (s.checkSector sector).mem = s.mem := by
  unfold State.checkSector
  split
  · rfl
  · simp only
    split
    · rw [State.interrupt_mem]; rfl
    · rfl

theorem State.checkBank_mem (s : State) (slice line : Nat) : (s.checkBank slice line).mem = s.mem := by
  unfold State.checkBank
  split
  · rfl
  · refine foldl_keeps_mem (fun t n => ?_) ..
    split
    · rfl
    · split_ifs
      · rw [State.count_mem, State.setPoison_mem]
      · rfl

theorem State.checkLine_mem (s : State) (slice line : Nat) : (s.checkLine slice line).mem = s.mem := by
  unfold State.checkLine
  split
  · exact State.checkBank_mem ..
  · split
    · rfl
    · exact foldl_keeps_mem State.checkSector_mem ..

theorem State.claimHost_mem (s : State) (sl line : Nat) (write : Bool) : (s.claimHost sl line write).mem = s.mem := by
  unfold State.claimHost
  split
  · rfl
  · refine foldl_keeps_mem (fun t l => ?_) ..
    split_ifs
    · exact State.dropLine_mem ..
    · exact State.dropLine_mem ..
    · rfl

theorem State.uncache_mem (s : State) (slice line : Nat) : (s.uncache slice line).mem = s.mem :=
  foldl_keeps_mem State.dropLine_mem ..

theorem State.touchL2_mem (s : State) (slice pid line : Nat) (write : Bool) (bytes : List Byte) (dirty ev : Bool)
    (whole mark : List Nat) : (s.touchL2 slice pid line write bytes dirty ev whole mark).mem = s.mem := by
  have checked : ((s.claimHost (cacheSlice slice line) line write).checkLine slice line).mem = s.mem := by
    rw [State.checkLine_mem, State.claimHost_mem]
  simp only [State.touchL2]
  split
  · rw [State.regrow_mem, State.fresh_mem, checked]
  · split
    · rw [State.dropLine_mem, State.fresh_mem, checked]
    · rw [State.fillLine_mem, State.fresh_mem, checked]

theorem State.readL2_mem (s : State) (slice pid : Nat) (k : Phys) (device ev : Bool) :
    (s.readL2 slice pid k device ev).mem = s.mem := by
  simp only [State.readL2]
  split_ifs
  · rw [State.checkLine_mem, State.uncache_mem]
  · split
    · exact State.touchL2_mem ..
    · rfl
  · exact State.touchL2_mem ..

/-! ### Local bytes that the device and a context read (R95, R403) -/

theorem State.homeByte_of_local (s : State) (slice : Nat) {k : Nat} (hk : k < 2 ^ 40) : s.homeByte slice k = s.mem.read k :=
  if_pos (decide_eq_true hk)

theorem Phys.isPeer_of_local {k : Nat} (hk : k < 2 ^ 40) : Phys.isPeer k = false := by
  have : ¬ 2 ^ 50 ≤ k := by omega
  simp only [Phys.isPeer, decide_eq_false this, Bool.false_and]

/-- What the device reads of local bytes is what they hold. -/
theorem State.deviceRead_getD (s : State) (slice pid : Nat) {k n b : Nat} (device : Bool) (hk : k + n ≤ 2 ^ 40) (hb : b < n) :
    (s.deviceRead slice pid k n device).1.getD b 0 = s.homeByte slice (k + b) := by
  have hlocal : k + b < 2 ^ 40 := by omega
  have hpeer : Phys.isPeer k = false := Phys.isPeer_of_local (by omega)
  simp only [State.deviceRead, hpeer, Bool.false_eq_true, if_false]
  simp only [List.getD_eq_getElem?_getD, List.getElem?_map, List.getElem?_range hb, Option.map_some, Option.getD_some]
  rw [State.homeByte_of_local _ _ hlocal, State.homeByte_of_local _ _ hlocal,
    foldl_keeps_mem (fun t line => State.readL2_mem t ..)]

/-- A record on local memory is read through the core's L1: each byte from there, else from its home. -/
theorem State.readRecord_getD (s : State) (core : Nat) (l : Launch) {p : Piece} {b : Nat} (hp : p.key + 128 ≤ 2 ^ 40) (hb : b < 128) :
    (s.readRecord core l p).1.getD b 0 = (s.l1Byte core (p.key + b) true).getD (s.homeByte (sliceOf core) (p.key + b)) := by
  simp only [State.readRecord]
  split
  case isTrue hall =>
    have hown := List.all_eq_true.mp hall b (List.mem_range.mpr hb)
    obtain ⟨v, hv⟩ := Option.isSome_iff_exists.mp hown
    simp [List.getD_eq_getElem?_getD, hb, hv]
  case isFalse =>
    have hhome := s.deviceRead_getD (sliceOf core) l.pid (p.mt == 2) hp hb
    simp only [List.getD_eq_getElem?_getD, List.getElem?_map, List.getElem?_range hb, Option.map_some, Option.getD_some] at hhome ⊢
    rw [hhome]

end Sys2Proof.Machine
end

section
/-! SUPPORT. Children, traps and breakpoints (14 R402 to R404, 15 R424, R426): what `launch`, `trap` and `brk` execute when nothing of their
issue stands in the way, and what a held context and waiting items have in common with those of before. -/

namespace Sys2Proof.Machine

/-! ### Checks that pass (R319) -/

/-- A piece that nothing forbids and whose path is up passes the links. -/
theorem State.checkLinks_up {s : State} {slice : Nat} {p : Piece} (va : Nat) (drops : Bool) {bad : Piece → Bool}
    (hbad : bad p = false) (hpath : s.path slice p.key p.len = .up) : s.checkLinks slice va drops bad [p] = .ok [p] := by
  simp [State.checkLinks, hbad, hpath]

/-- A sole access whose checks pass, and for which its group's allowance has room, is performed. -/
theorem State.afterChecks_ok {s : State} {i : Issue} {c : Checked} {ps : List Piece} (uni : Bool) (a : Access)
    (go : List (Checked × List Piece) → Act) (hchk : c.chk = .ok ps)
    (hroom : s.crowded i.launch.slice (ps.map fun p => (p.key, p.len)) = false) :
    s.afterChecks i uni a [c] go = go [(c, ps)] := by
  simp [State.afterChecks, hchk, Chk.cause, hroom]

/-! ### Releases that need not wait (R346) -/

theorem State.releaseThen_released {s : State} {i : Issue} {scope : Nat} (go : State → Act) (hrel : i.ctx.rel = none)
    (hdone : s.released i.ctx scope s.nextId = true) :
    s.releaseThen i scope go = go (s.modCtx i.ctx.id fun y => { y with rel := none }) := by
  simp only [State.releaseThen, hrel, hdone, if_true]

/-! ### Going on without marks, and what the context then waits for -/

theorem codeRegs_zero (code : BitVec 8) : codeRegs code 0 = [] := by
  simp [codeRegs]

theorem Ext.info_marks_none (e : Ext) (nd : Nat) : (e.info nd 0 0 0).marks = [] := by
  simp [Ext.info, codeRegs_zero]

/-- Whether the group performs an instruction does not hang on the marks. -/
theorem Performs.withoutMarks {s : State} {m : Meta} {i : Issue} (h : Performs s m i) : Performs s { m with marks := [] } i :=
  { h with }

/-- Where no register is marked, going on changes no register. -/
theorem Performs.wrote_unmarked {s : State} {m : Meta} {i : Issue} (h : Performs s m i) (hm : m.marks = []) :
    Wrote i m [] 0 (i.ctx.gone s i m) := by
  have hw := h.wrote_nothing
  rwa [hm] at hw

theorem OnlyCtx.modCtx {s u : State} {i : Issue} {y : Ctx} (h : OnlyCtx s i u y) (f : Ctx → Ctx) (hf : ∀ x, (f x).id = x.id) :
    OnlyCtx s i (u.modCtx i.ctx.id f) (f y) where
  rest := by rw [h.rest]; rfl
  others n hn := by rw [State.modCtx_find _ _ _ hf, if_neg hn, h.others n hn]
  ctx := by rw [State.modCtx_find _ _ _ hf, if_pos rfl, h.ctx]; rfl

/-- Only the context that issues goes on. -/
theorem State.advance_onlyCtx {s : State} {i : Issue} (hctx : s.ctx? i.ctx.id = some i.ctx) (m : Meta) :
    OnlyCtx s i (s.advance i m) (i.ctx.gone s i m) :=
  onlyCtx_of hctx (fun x => x.gone s i m) fun _ => rfl

/-- The items that a test picks wait for one thing, whatever they waited for. -/
def Ctx.waiting (x : Ctx) (p : Nat → Bool) (w : Wait) : Ctx := x.mapItems p fun t => { t with wait := w }

theorem Ctx.waiting_items {x : Ctx} {p : Nat → Bool} {w : Wait} {t : Item} (ht : t ∈ (x.waiting p w).items) (hp : p t.c = true) :
    t.wait = w := by
  obtain ⟨v, -, rfl⟩ := List.mem_map.mp ht
  by_cases hv : p v.c = true
  · rw [if_pos hv]
  · rw [if_neg hv] at hp
    exact absurd hp hv

/-- What the items of a context wait for is no part of what an instruction has written. -/
theorem Wrote.waiting {i : Issue} {m : Meta} {outs : List Out} {fl : BitVec 5} {y : Ctx} (h : Wrote i m outs fl y)
    (p : Nat → Bool) (w : Wait) : Wrote i m outs fl (y.waiting p w) where
  same := by rw [Ctx.waiting, Ctx.mapItems, h.same]
  moved := by
    refine Eq.trans ?_ h.moved
    simp only [Ctx.waiting, Ctx.mapItems, updWhere, List.map_map]
    refine List.map_congr_left fun t _ => ?_
    simp only [Function.comp_apply]
    split <;> rfl
  xs := h.xs
  qs := h.qs
  xKept := h.xKept
  qKept := h.qKept

/-! ### The fault of a whole context (R188, R418) -/

/-- The record of a fault is made, and its context is held under the record's number. -/
theorem State.faultCtx_eq {s : State} {x : Ctx} {l : Launch} {n : Nat} (hctx : s.ctx? n = some x) (hlaunch : s.launch? x.launch = some l)
    (cause : Nat) (pc detail : DWord) (next : Bool) :
    s.faultCtx n cause pc detail next
      = ({ s with faults := s.faults ++ [faultRecord s.fresh.2 s.nextId x l cause true [] pc x.region detail next], nextId := s.nextId + 1 }
          : State).modCtx n fun y => { y with held := some s.nextId } := by
  simp only [State.faultCtx, hctx, hlaunch]
  rfl

/-- Going on changes nothing that the record of a fault says of a context. -/
theorem faultRecord_gone (s : State) (i : Issue) (m : Meta) (id : Nat) (x : Ctx) (l : Launch) (cause : Nat) (whole : Bool)
    (cs : List Nat) (pc : DWord) (region : Word) (detail : DWord) (next : Bool) :
    faultRecord (s.advance i m).fresh.2 id (x.gone s i m) l cause whole cs pc region detail next
      = faultRecord s id x l cause whole cs pc region detail next := by
  simp only [faultRecord, Ctx.gone_cs]
  rfl

/-! ### What an instruction that is performed once reads (R154) -/

theorem argMin_eq_none {α : Type} {key : α → Nat} {l : List α} : argMin key l = none ↔ l = [] := by
  cases l with
  | nil => simp [argMin]
  | cons x xs =>
    simp only [argMin, reduceCtorEq, iff_false]
    split
    · split <;> simp
    · simp

/-- What every item reads alike, the first affected item reads. -/
theorem Issue.uni_u {i : Issue} (haff : i.aff ≠ []) (v : Word) : i.uni (.u v) = v := by
  unfold Issue.uni
  split
  next => rfl
  next hnone => exact absurd (argMin_eq_none.mp hnone) haff

/-! ### System calls (R424) -/

/-- The call that a trap posts. -/
def State.callOf (s : State) (i : Issue) (code : BitVec 16) (arg : DWord) : Syscall :=
  { id := s.nextId, slice := s.leader i.launch.slice, seq := none, code := code, launch := i.ctx.launch, cohort := i.ctx.cohort,
    core := i.ctx.core, cfirst := i.ctx.cs.headD 0, mask := maskOf (i.ctx.cs.headD 0) (i.aff.map Item.c), region := i.ctx.region,
    pc := wordIndex i.launch i.pc, arg := arg, items := i.aff.map Item.c, ctx := i.ctx.id }

/-- The operation that is outstanding until the host completes the call. -/
def State.callOp (s : State) (i : Issue) : Op :=
  { id := s.nextId, issue := s.nextId, core := i.ctx.core, launch := i.ctx.launch, cohort := i.ctx.cohort, items := i.aff.map Item.c,
    flag := i.place.flag, dst := [], kind := .syscall s.nextId, va := 0, pc := i.pc, back := none, fl := 0, parkedAt := none,
    cross := [], nofill := [], ev := false }

/-- The machine when a call has been posted. -/
def State.withCall (s : State) (i : Issue) (code : BitVec 16) (arg : DWord) : State :=
  { s with syscalls := s.syscalls ++ [s.callOf i code arg], ops := s.ops ++ [s.callOp i], nextId := s.nextId + 1 }

/-- The call is posted, the context goes on, and the affected items wait for the call. -/
theorem State.postCall_eq (s : State) (i : Issue) (m : Meta) (code : BitVec 16) (arg : DWord) :
    s.postCall i m code arg
      = ((s.withCall i code arg).advance i m).modCtx i.ctx.id fun x => x.waiting (i.aff.map Item.c).contains (.syscall s.nextId) := rfl

end Sys2Proof.Machine

namespace Sys2Proof.Claims

open Sys2Proof.Machine

/-! ### brk (R426) -/

/-- What `brk` needs to know of its issue. -/
def brkInfo (e : Ext) : Meta := { e.info 0 0 0 0 with whole := true }

theorem exec_brk {e : Ext} {s : State} {i : Issue} (h : Performs s (brkInfo e) i) :
    exec (.brk e) s = .next (if (s.vreg i.launch.slice 0xE94).toNat.testBit 0
      then (s.advance i (brkInfo e)).faultCtx i.ctx.id 0x10 i.pc (.ofNat 64 (e.imm.toNat % 2 ^ 16)) true else s.advance i (brkInfo e)) := by
  refine (h.issueInstr _).trans ?_
  cases (s.vreg i.launch.slice 0xE94).toNat.testBit 0 <;> rfl

/-- Where breakpoints are not enabled, `brk` goes on. -/
theorem brk_disabled {e : Ext} {s : State} {i : Issue} (h : Performs s (brkInfo e) i)
    (hoff : (s.vreg i.launch.slice 0xE94).toNat.testBit 0 = false) :
    ∃ u y, exec (.brk e) s = .next u ∧ OnlyCtx s i u y ∧ Wrote i (brkInfo e) [] 0 y :=
  ⟨_, _, by rw [exec_brk h, hoff]; rfl, State.advance_onlyCtx h.ctx _, h.wrote_unmarked (Ext.info_marks_none e 0)⟩

/-- The record that an enabled `brk` makes of its context. -/
def breakpoint (e : Ext) (s : State) (i : Issue) : Fault15 :=
  faultRecord s s.nextId i.ctx i.launch 0x10 true [] i.pc i.ctx.region (.ofNat 64 (e.imm.toNat % 2 ^ 16)) true

/-- The machine when a `brk` has made its record. -/
def withBreakpoint (e : Ext) (s : State) (i : Issue) : State :=
  { s with faults := s.faults ++ [breakpoint e s i], nextId := s.nextId + 1 }

theorem exec_brk_enabled {e : Ext} {s : State} {i : Issue} (h : Performs s (brkInfo e) i)
    (hon : (s.vreg i.launch.slice 0xE94).toNat.testBit 0 = true) :
    exec (.brk e) s
      = .next (((withBreakpoint e s i).advance i (brkInfo e)).modCtx i.ctx.id fun y => { y with held := some s.nextId }) := by
  have hgone := (State.advance_onlyCtx h.ctx (brkInfo e)).ctx
  rw [exec_brk h, hon, if_pos rfl, State.faultCtx_eq hgone h.launch, faultRecord_gone]
  rfl

/-- Where they are, it goes on and its context is held under the record. -/
theorem brk_enabled {e : Ext} {s : State} {i : Issue} (h : Performs s (brkInfo e) i)
    (hon : (s.vreg i.launch.slice 0xE94).toNat.testBit 0 = true) :
    ∃ u y z f, exec (.brk e) s = .next u
      ∧ OnlyCtx { s with faults := s.faults ++ [f], nextId := s.nextId + 1 } i u z ∧ Wrote i (brkInfo e) [] 0 y
      ∧ z = { y with held := some s.nextId } ∧ f = breakpoint e s i :=
  ⟨_, i.ctx.gone s i (brkInfo e), _, _, exec_brk_enabled h hon,
    (State.advance_onlyCtx (s := withBreakpoint e s i) h.ctx _).modCtx _ fun _ => rfl,
    h.wrote_unmarked (Ext.info_marks_none e 0), rfl, rfl⟩

/-! ### trap (R424) -/

/-- What `trap` needs to know of its issue. -/
def trapInfo (e : Ext) : Meta := { e.info 0 (if e.modBit 0 then 2 else 0) 0 0 with long := true, once := true }

/-- The argument of a `trap`, which is performed once for its context: the 64-bit operand where the modifier asks for it. -/
def trapArg (e : Ext) (s : State) (i : Issue) : Nat :=
  if e.modBit 0 then (i.uni (s.src32 i.ctx i.launch.rcd (e.src e.a))).toNat
    + (i.uni (s.srcHi i.ctx i.launch.rcd (e.src e.a) false)).toNat * 2 ^ 32 else 0

/-- An operand that is uniform is what every item reads of it. -/
theorem trapArg_eq {e : Ext} {s : State} {i : Issue} (haff : i.aff ≠ [])
    (huni : e.modBit 0 = true → ∃ v w, s.src32 i.ctx i.launch.rcd (e.src e.a) = .u v ∧ s.srcHi i.ctx i.launch.rcd (e.src e.a) false = .u w)
    (t : Item) : BitVec.ofNat 64 (trapArg e s i) = if e.modBit 0 then readWide s i (e.src e.a) false t else 0 := by
  unfold trapArg
  split
  next hwide =>
    obtain ⟨v, w, hlo, hhi⟩ := huni hwide
    have hnat := readWide_toNat s i (e.src e.a) false t
    simp only [readLo, readHi, hlo, hhi, XForm.at] at hnat
    rw [hlo, hhi, Issue.uni_u haff, Issue.uni_u haff, Nat.add_comm, ← hnat, BitVec.ofNat_toNat, BitVec.setWidth_eq]
  next => rfl

/-- The context that issues waits for no release. -/
def afterRelease (s : State) (i : Issue) : State := s.modCtx i.ctx.id fun y => { y with rel := none }

theorem afterRelease_onlyCtx {s : State} {i : Issue} (hctx : s.ctx? i.ctx.id = some i.ctx) (hrel : i.ctx.rel = none) :
    OnlyCtx s i (afterRelease s i) i.ctx := by
  have honly : OnlyCtx s i (afterRelease s i) { i.ctx with rel := none } :=
    onlyCtx_of hctx (fun y => { y with rel := none }) fun _ => rfl
  have hsame : ({ i.ctx with rel := none } : Ctx) = i.ctx := by rw [← hrel]
  rwa [hsame] at honly

/-- A trap whose release need not wait posts its call. -/
theorem exec_trap {e : Ext} {s : State} {i : Issue} (h : Performs s (trapInfo e) i) (hkind : i.ctx.kind ≠ .span)
    (hrel : i.ctx.rel = none) (hdone : s.released i.ctx 6 s.nextId = true) :
    exec (.trap e) s
      = .next ((afterRelease s i).postCall i (trapInfo e) (.ofNat 16 e.imm.toNat) (.ofNat 64 (trapArg e s i))) := by
  refine (h.issueInstr _).trans ?_
  have hctx := (afterRelease_onlyCtx h.ctx hrel).ctx
  unfold afterRelease at hctx
  simp only [beq_false_of_ne hkind, Bool.false_eq_true, if_false, State.releaseThen_released _ hrel hdone, hctx, Option.getD_some]
  rfl

/-- The context goes on, its marked registers as they were, and the affected items wait for the call. -/
theorem trap_posts {e : Ext} {s : State} {i : Issue} (h : Performs s (trapInfo e) i) (hkind : i.ctx.kind ≠ .span)
    (hrel : i.ctx.rel = none) (hdone : s.released i.ctx 6 s.nextId = true) :
    ∃ u y c o, exec (.trap e) s = .next u
      ∧ OnlyCtx { s with syscalls := s.syscalls ++ [c], ops := s.ops ++ [o], nextId := s.nextId + 1 } i u y
      ∧ Wrote i { trapInfo e with marks := [] } [] 0 y ∧ waitsAfter y (i.aff.map Item.c) (.syscall s.nextId)
      ∧ c = s.callOf i (.ofNat 16 e.imm.toNat) (.ofNat 64 (trapArg e s i)) ∧ o = s.callOp i := by
  have hreleased : OnlyCtx (s.withCall i (.ofNat 16 e.imm.toNat) (.ofNat 64 (trapArg e s i))) i
      ((afterRelease s i).withCall i (.ofNat 16 e.imm.toNat) (.ofNat 64 (trapArg e s i))) i.ctx := afterRelease_onlyCtx h.ctx hrel
  refine ⟨_, _, _, _, (exec_trap h hkind hrel hdone).trans (congrArg _ (State.postCall_eq ..)),
    (hreleased.modCtx (fun x => x.gone s i (trapInfo e)) fun _ => rfl).modCtx
      (fun x => x.waiting (i.aff.map Item.c).contains (.syscall s.nextId)) fun _ => rfl,
    (h.withoutMarks.wrote_unmarked rfl).waiting _ _, fun t ht hc => Ctx.waiting_items ht (by simpa using hc), rfl, rfl⟩

/-! ### launch (R402 to R404) -/

/-- What `launch` needs to know of its issue. -/
def launchInfo (e : Ext) : Meta := { e.info 1 (if e.modBit 0 then 2 else 1) 0 0 with long := true, once := true, whole := true }

/-- The operation that is outstanding under a `launch`'s flag until its child has been taken, or done. -/
def childOp (s : State) (i : Issue) (n va : Nat) (done : Bool) : Op :=
  { id := s.nextId, issue := s.nextId, core := i.ctx.core, launch := i.ctx.launch, cohort := i.ctx.cohort, items := i.aff.map Item.c,
    flag := i.place.flag, dst := [], kind := .child n done, va := .ofNat 64 va, pc := i.pc, back := none, fl := 0, parkedAt := none,
    cross := [], nofill := [], ev := false }

/-- The issue with its context no longer waiting at a parked path. -/
def unparked (i : Issue) : Issue := { i with ctx := { i.ctx with parkedAt := none } }

/-- The child's number stands in the destination, and its operation is outstanding. -/
def numbered (e : Ext) (s : State) (i : Issue) (n va : Nat) : State :=
  { s.setCtx ((unparked i).written (launchInfo e) [same e.d (.ofNat 32 n)]) with
    ops := s.ops ++ [childOp s i n va (e.modBit 1)], nextId := s.nextId + 1 }

/-- The child is started from its record, and is taken unless its header cannot be read yet. -/
def started (s : State) (i : Issue) (n : Nat) (bs : List Byte) : State :=
  let c := s.childLaunch i n bs
  if c.launches.any (fun l => l.num == n && l.unread) then c else c.childTaken n

/-- A span whose number has room writes it for all its items, or not to an x register (R153). -/
theorem span_whole_of_room {s : State} {i : Issue} {m : Meta} {d : BitVec 8} {v : Word} (hroom : room s (unparked i) m (same d v)) :
    (i.ctx.kind == CtxKind.span && (decide (d.toNat < 128) && !i.full)) = false := by
  by_cases hspan : i.ctx.kind = .span
  · have hm := hroom.1 hspan
    by_cases hd : d.toNat < 128
    · have hfull : (unparked i).full = true := by simpa [Out.isM, same, dstOf, hd] using hm
      simp [show i.full = true from hfull]
    · simp [hd]
  · simp [hspan]

/-- A record that its context can read is read, a number for the child is taken and written, and the child is started. -/
theorem exec_launch {e : Ext} {s : State} {i : Issue} {t : Item} {p : Piece} {n va : Nat} {s1 : State}
    (h : Performs s (launchInfo e) i) (hfirst : i.first = some t) (hva : s.ea i { e.atomForm (e.modBit 0) with space := 0 } t = va)
    (haligned : va % 128 = 0) (hrange : va < 2 ^ 48)
    (htrans : s.translate i.ctx.core i.launch.slice i.launch.asid 0 .load (s.lentTo (some i.ctx.id) none) [(va, 128)] = .ok [p])
    (hpath : s.path (sliceOf i.ctx.core) p.key p.len = .up) (hline : s.path (sliceOf i.ctx.core) p.key 128 = .up)
    (hcrowded : s.crowded i.launch.slice [(p.key, p.len)] = false) (hheld : s.recordHeld i.ctx (i.aff.map Item.c) p = false)
    (hbad : s.recordBad i.ctx.core p = false)
    (hnum : ((s.setCtx (unparked i).ctx).readRecord i.ctx.core i.launch p).2.newNumber = (n, s1))
    (hroom : room s1 (unparked i) (launchInfo e) (same e.d (.ofNat 32 n))) :
    exec (.launch e) s = .next ((started (numbered e s1 i n va) i n
      ((s.setCtx (unparked i).ctx).readRecord i.ctx.core i.launch p).1).advance i (launchInfo e)) := by
  refine (h.issueInstr _).trans ?_
  have hout := State.writeOuts_advance (m := launchInfo e) (outs := [same e.d (.ofNat 32 n)]) (by simpa using hroom.1) hroom.2
  simp only [hfirst, hva, span_whole_of_room hroom, Bool.false_eq_true, if_false, haligned, bne_self_eq_false, if_neg (Nat.not_le.mpr hrange), htrans,
    State.checkLinks_up (bad := fun _ => false) va false rfl hpath]
  rw [State.afterChecks_ok (ps := [p]) _ _ _ rfl hcrowded]
  simp only [unparked, launchInfo, same] at hnum hout
  simp only [hheld, hline, hbad, beq_false_of_ne (show Path.up ≠ Path.parked from nofun), Bool.false_eq_true, if_false, hnum, hout]
  rfl

/-! ### The three instructions together -/

/-- Settles O41: `launch` reads its record, takes a number and starts the child in its own step (log entry 47); `trap` posts its call and
its items wait for it; `brk` faults its context where SLC_DBGCTL.BRKEN is 1. -/
theorem childrenTrapsAndBreakpointsAreTaken : Obligations.ChildrenTrapsAndBreakpointsAreTaken := by
  refine ⟨fun e s i t p n s1 h hfirst haligned hrange htrans hpath hline hcrowded hheld hbad hnum hroom => ⟨?_, ?_⟩, ?_, ?_⟩
  · exact exec_launch h hfirst rfl haligned hrange htrans hpath hline hcrowded hheld hbad hnum hroom
  · exact fun hp b hb => State.readRecord_getD _ _ _ hp hb
  · intro e s i m h hkind hreleased huni
    obtain ⟨hrel, hdone⟩ := hreleased trivial
    obtain ⟨u, y, c, o, hexec, honly, hwrote, hwaits, rfl, rfl⟩ := trap_posts h hkind hrel hdone
    exact ⟨u, y, _, _, hexec, honly, hwrote, hwaits, rfl, rfl, rfl, rfl, rfl, rfl, rfl, rfl, rfl, rfl, rfl, rfl,
      fun t _ => trapArg_eq h.affects huni t, rfl, rfl, rfl⟩
  · intro e s i m h
    refine ⟨brk_disabled h, fun hon => ?_⟩
    obtain ⟨u, y, z, f, hexec, honly, hwrote, rfl, rfl⟩ := brk_enabled h hon
    exact ⟨u, y, _, _, hexec, honly, hwrote, rfl, rfl, rfl, rfl, rfl, rfl, rfl, rfl⟩

end Sys2Proof.Claims
end

section
/-! SUPPORT. What slices, registers of BAR0 and memories hold after the updates of tenancy (16 R434 to R446). -/

namespace Sys2Proof.Machine

/-- What each step of a fold leaves as it was, the fold leaves as it was. -/
theorem foldl_keeps {α β : Type} (g : State → β) {f : State → α → State} (hf : ∀ s a, g (f s a) = g s) (l : List α) (s : State) :
    g (l.foldl f s) = g s :=
  List.foldlRecOn (motive := fun t => g t = g s) l f rfl fun t ht a _ => (hf t a).trans ht

/-! ### Slices -/

theorem State.slice_congr {s u : State} (h : u.slices = s.slices) (n : Nat) : u.slice n = s.slice n := by
  rw [State.slice, h, State.slice]

theorem State.slice_setSlice (s : State) (m n : Nat) (f : SliceSt → SliceSt) :
    (s.setSlice m f).slice n = if m = n ∧ n < s.slices.length then f (s.slice n) else s.slice n := by
  simp only [State.slice, State.setSlice, List.getD_eq_getElem?_getD, List.getElem?_modify]
  by_cases hn : n < s.slices.length
  · by_cases hm : m = n <;> simp [hn, hm]
  · simp [hn]

/-- An update that keeps what a slice's leader is keeps every slice's. -/
theorem State.leadOf_setSlice (s : State) (m : Nat) {f : SliceSt → SliceSt} (hf : ∀ v, (f v).lead = v.lead) :
    (s.setSlice m f).leadOf = s.leadOf := by
  funext n
  simp only [State.leadOf, State.slice_setSlice]
  split_ifs
  · exact hf _
  · rfl

theorem State.mem_members {s : State} {n slice : Nat} : n ∈ s.members slice ↔ n < 16 ∧ s.leadOf n = s.leadOf slice := by
  simp [State.members]

theorem State.members_nodup (s : State) (slice : Nat) : (s.members slice).Nodup := List.nodup_range.filter _

theorem State.members_congr {s u : State} (h : u.leadOf = s.leadOf) (slice : Nat) : u.members slice = s.members slice := by
  simp only [State.members, h]

/-- Several slices are changed one after another, each in its own way. -/
def State.setEach (s : State) (ns : List Nat) (f : Nat → SliceSt → SliceSt) : State := ns.foldl (fun t k => t.setSlice k (f k)) s

theorem State.setMembers_eq_setEach (s : State) (slice : Nat) (f : SliceSt → SliceSt) :
    s.setMembers slice f = s.setEach (s.members slice) fun _ => f := rfl

section
variable (s : State) (ns : List Nat) (f : Nat → SliceSt → SliceSt)

theorem State.setEach_eq : s.setEach ns f = { s with slices := (s.setEach ns f).slices } :=
  List.foldlRecOn (motive := fun t : State => t = { s with slices := t.slices }) ns (fun t k => t.setSlice k (f k)) rfl
    fun _ ht k _ => congrArg (fun t : State => t.setSlice k (f k)) ht

theorem State.setEach_length : (s.setEach ns f).slices.length = s.slices.length :=
  foldl_keeps (fun t : State => t.slices.length) (fun _ _ => List.length_modify ..) ns s

variable {ns}

theorem State.setEach_slice (hnodup : ns.Nodup) (hlt : ∀ k ∈ ns, k < s.slices.length) (n : Nat) :
    (s.setEach ns f).slice n = if n ∈ ns then f n (s.slice n) else s.slice n := by
  induction ns generalizing s with
  | nil => simp [State.setEach]
  | cons k ns ih =>
    obtain ⟨hk, hns⟩ := List.nodup_cons.mp hnodup
    obtain ⟨hklt, hnslt⟩ := List.forall_mem_cons.mp hlt
    have hrest := ih (s.setSlice k (f k)) hns (by simpa [State.setSlice] using hnslt)
    rw [State.setEach, List.foldl_cons, ← State.setEach, hrest, State.slice_setSlice]
    by_cases hn : k = n
    · subst hn; simp [hk, hklt]
    · simp [hn, Ne.symm hn]

end

section
variable {s : State} (hlen : s.slices.length = 16)
include hlen

theorem State.members_lt (slice : Nat) : ∀ k ∈ s.members slice, k < s.slices.length :=
  fun _ hk => hlen ▸ (State.mem_members.mp hk).1

theorem State.setMembers_slice (slice : Nat) (f : SliceSt → SliceSt) (n : Nat) :
    (s.setMembers slice f).slice n = if n ∈ s.members slice then f (s.slice n) else s.slice n := by
  rw [State.setMembers_eq_setEach, State.setEach_slice s _ (s.members_nodup slice) (State.members_lt hlen slice)]

end

theorem State.setMembers_eq (s : State) (slice : Nat) (f : SliceSt → SliceSt) :
    s.setMembers slice f = { s with slices := (s.setMembers slice f).slices } := State.setEach_eq ..

theorem State.setMembers_length (s : State) (slice : Nat) (f : SliceSt → SliceSt) :
    (s.setMembers slice f).slices.length = s.slices.length := State.setEach_length ..

/-- Members changed by an update that keeps leaders are members still. -/
theorem State.leadOf_setMembers (s : State) (slice : Nat) {f : SliceSt → SliceSt} (hf : ∀ v, (f v).lead = v.lead) :
    (s.setMembers slice f).leadOf = s.leadOf :=
  foldl_keeps State.leadOf (fun t k => t.leadOf_setSlice k hf) (s.members slice) s

/-! ### Registers and memories -/

/-- Looking up a key that a filter of keys lets pass finds what it found before; one that it stops is gone. -/
theorem find_filter_key {α κ : Type} [BEq κ] [LawfulBEq κ] (key : α → κ) (p : κ → Bool) (l : List α) (k : κ) :
    (l.filter fun e => p (key e)).find? (fun e => key e == k) = if p k then l.find? (fun e => key e == k) else none := by
  rw [List.find?_filter]
  by_cases hp : p k
  · rw [if_pos hp]
    refine congrArg (l.find? ·) (funext fun e => ?_)
    by_cases he : key e = k <;> simp [he, hp]
  · rw [if_neg hp, List.find?_eq_none]
    rintro e - he
    obtain ⟨hpe, hke⟩ := by simpa using he
    exact hp (hke ▸ hpe)

theorem State.reg_setReg (s : State) (fn off : Nat) (v : Word) (f o : Nat) :
    (s.setReg fn off v).reg f o = if (f, o) = (fn, off) then v else s.reg f o := by
  have hrest := find_filter_key (fun r : (Nat × Nat) × Word => r.1) (fun k => !(k == (fn, off))) s.regs (f, o)
  by_cases hkey : (f, o) = (fn, off)
  · rw [if_neg (by simp [hkey])] at hrest
    cases hkey
    by_cases hv : v = regReset fn off <;> simp [State.reg, State.setReg, hv, hrest]
  · rw [if_pos (by simp [hkey])] at hrest
    by_cases hv : v = regReset fn off <;> simp [State.reg, State.setReg, hv, hrest, hkey, beq_false_of_ne (Ne.symm hkey)]

theorem Memory.read_filter (m : Memory) (p : Nat → Bool) (a : Nat) :
    Memory.read (m.filter fun c => p c.1) a = if p a then m.read a else 0 := by
  have hfind := find_filter_key Prod.fst p m a
  simp only [Memory.read, hfind]
  split_ifs <;> rfl

end Sys2Proof.Machine
end

section
/-! SUPPORT. Group applies, slice-only resets and the interface states (16 R434 to R440, R446). -/

namespace Sys2Proof.Machine

theorem State.tdisp_refused {s : State} {slice : Nat} (h : s.serves slice = false) (act : State → State) :
    s.tdisp slice act = s.reply .refused := by
  simp [State.tdisp, h]

theorem State.tdisp_sessionless {s : State} {slice : Nat} (h : s.serves slice = true) (hnone : (s.slice slice).spdm.sessions = [])
    (act : State → State) : s.tdisp slice act = s := by
  simp [State.tdisp, h, hnone]

theorem State.tdisp_acts {s : State} {slice : Nat} (h : s.serves slice = true) (hsome : (s.slice slice).spdm.sessions ≠ [])
    (act : State → State) : s.tdisp slice act = act s := by
  simp [State.tdisp, h, hsome]

theorem State.serves_lt {s : State} {slice : Nat} (h : s.serves slice = true) : slice < 16 := by
  simp only [State.serves, State.present, Bool.and_eq_true, decide_eq_true_eq] at h
  obtain ⟨⟨⟨_, hlt⟩, _⟩, _⟩ := h
  exact hlt

/-- The slices that a test picks change. -/
theorem State.setEach_slice_of_filter {s : State} (hlen : s.slices.length = 16) (p : Nat → Bool) (f : Nat → SliceSt → SliceSt) {n : Nat}
    (hn : n < 16) : (s.setEach ((List.range 16).filter p) f).slice n = if p n then f n (s.slice n) else s.slice n := by
  rw [State.setEach_slice s f (List.nodup_range.filter p) fun k hk => hlen ▸ List.mem_range.mp (List.mem_of_mem_filter hk)]
  simp [hn]

/-- The members of a group change twice. -/
theorem State.setMembers_setMembers_slice {s : State} (hlen : s.slices.length = 16) (slice : Nat) {f : SliceSt → SliceSt}
    (hf : ∀ v, (f v).lead = v.lead) (g : SliceSt → SliceSt) (n : Nat) :
    ((s.setMembers slice f).setMembers slice g).slice n = if n ∈ s.members slice then g (f (s.slice n)) else s.slice n := by
  rw [State.setMembers_slice ((State.setMembers_length ..).trans hlen), State.members_congr (s.leadOf_setMembers slice hf),
    State.setMembers_slice hlen]
  split_ifs <;> rfl

theorem State.setMembers_setMembers_eq (s : State) (slice : Nat) (f g : SliceSt → SliceSt) :
    (s.setMembers slice f).setMembers slice g = { s with slices := ((s.setMembers slice f).setMembers slice g).slices } :=
  (State.setMembers_eq ..).trans
    (congrArg (fun t : State => { t with slices := ((s.setMembers slice f).setMembers slice g).slices }) (State.setMembers_eq ..))

end Sys2Proof.Machine

namespace Sys2Proof.Claims

open Sys2Proof.Machine

/-! ### Interface requests (R438 to R440) -/

/-- A request to the interface of a slice's VF. -/
def IsInterfaceRequest (slice : Nat) (j : Instr) : Prop :=
  j ∈ ([.lockInterfaceRequest slice, .startInterfaceRequest slice, .stopInterfaceRequest slice, .getDeviceInterfaceReport slice] : List Instr)

theorem exec_interfaceRequest {slice : Nat} {j : Instr} (hj : IsInterfaceRequest slice j) (s : State) :
    ∃ act, exec j s = .next (s.tdisp slice act) := by
  simp only [IsInterfaceRequest, List.mem_cons, List.not_mem_nil, or_false] at hj
  rcases hj with rfl | rfl | rfl | rfl <;> exact ⟨_, rfl⟩

/-- A VF that its slice does not serve refuses the requests, and one without a secured session discards them (R436, R438). -/
theorem interfaceRequests_unserved (s : State) (slice : Nat) (j : Instr) (hj : IsInterfaceRequest slice j) :
    (s.serves slice = false → Replies j s .refused)
    ∧ (s.serves slice = true → (s.slice slice).spdm.sessions = [] → Idle j s) := by
  obtain ⟨act, hexec⟩ := exec_interfaceRequest hj s
  refine ⟨fun h => ?_, fun h hnone => ?_⟩
  · rw [Replies, hexec, State.tdisp_refused h]; rfl
  · rw [Idle, hexec, State.tdisp_sessionless h hnone]

/-- The group once it is locked: CONFIG_LOCKED, with its leader's usage zero (R440, R444). -/
def lockedGroup (s : State) (slice : Nat) : State :=
  (s.setMembers slice fun v => { v with tdisp := 1 }).setSlice slice fun v => { v with usage := 0 }

section
variable {s : State} {slice : Nat} (hserves : s.serves slice = true) (hsome : (s.slice slice).spdm.sessions ≠ [])
include hserves hsome

/-- What LOCK answers in each state (R440): only a clean slice whose last signed index 7 is the current one is locked. -/
theorem exec_lock : exec (.lockInterfaceRequest slice) s = .next (
    if (s.slice slice).tdisp ≠ 0 then s.reply (.error 4)
    else if (s.slice slice).clean = false ∨ (s.slice slice).meas7 ≠ some (s.index7 slice) then s.reply (.error 1)
    else (lockedGroup s slice).reply .ok) := by
  refine congrArg Host.Outcome.next ((State.tdisp_acts hserves hsome _).trans ?_)
  simp only [tdispInvalidState, tdispInvalidRequest, Bool.or_eq_true, Bool.not_eq_true', bne_iff_ne, lockedGroup]

theorem exec_start : exec (.startInterfaceRequest slice) s = .next (
    if (s.slice slice).tdisp ≠ 1 then s.reply (.error 4)
    else (s.setMembers slice fun v => { v with tdisp := 2 }).reply .ok) :=
  congrArg Host.Outcome.next (State.tdisp_acts hserves hsome _)

theorem exec_report : exec (.getDeviceInterfaceReport slice) s = .next (
    if (s.slice slice).tdisp ≠ 1 then s.reply (.error 4) else s.reply (.bytes (Config.interfaceReport slice))) :=
  congrArg Host.Outcome.next (State.tdisp_acts hserves hsome _)

theorem exec_stop : exec (.stopInterfaceRequest slice) s = .next (
    if (s.slice slice).tdisp = 0 then s.reply (.error 4)
    else if (s.slice slice).clearing then s.setMembers slice fun v => { v with stopPending := true }
    else if (s.slice slice).clean then (s.setMembers slice fun v => { v with tdisp := 0 }).reply .ok
    else (s.startClearing slice).setMembers slice fun v => { v with stopPending := true }) :=
  congrArg Host.Outcome.next (State.tdisp_acts hserves hsome _)

end

theorem lockedGroup_slice {s : State} {slice : Nat} (hlen : s.slices.length = 16) (hlt : slice < 16) (n : Nat) :
    (lockedGroup s slice).slice n = if n ∈ s.members slice then
      { s.slice n with tdisp := 1, usage := if slice = n then 0 else (s.slice n).usage } else s.slice n := by
  have hlen' : (s.setMembers slice fun v => { v with tdisp := 1 }).slices.length = 16 := (State.setMembers_length ..).trans hlen
  rw [lockedGroup, State.slice_setSlice, State.setMembers_slice hlen, hlen']
  by_cases hn : slice = n
  · subst hn
    have hmem : slice ∈ s.members slice := State.mem_members.mpr ⟨hlt, rfl⟩
    rw [if_pos ⟨rfl, hlt⟩, if_pos hmem, if_pos hmem, if_pos rfl]
  · simp [hn]

/-- Locking changes the members' own records and answers, and nothing else. -/
theorem lock_effect {s : State} {slice : Nat} (hlen : s.slices.length = 16) (hlt : slice < 16) :
    let u := (lockedGroup s slice).reply .ok
    u = { s with slices := u.slices, resp := some .ok } ∧ (∀ n ∈ s.members slice, (u.slice n).tdisp = 1) ∧ (u.slice slice).usage = 0
      ∧ ∀ n, n ∉ s.members slice → u.slice n = s.slice n := by
  intro u
  have hslice (n : Nat) : u.slice n = _ := lockedGroup_slice hlen hlt n
  refine ⟨?_, fun n hn => ?_, ?_, fun n hn => ?_⟩
  · exact congrArg (fun t : State => (t.setSlice slice fun v => { v with usage := 0 }).reply .ok) (State.setMembers_eq ..)
  · rw [hslice, if_pos hn]
  · rw [hslice, if_pos (State.mem_members.mpr ⟨hlt, rfl⟩)]
    exact if_pos rfl
  · rw [hslice, if_neg hn]

/-- The members of a group change, and the request is answered. -/
theorem answered_eq (s : State) (slice : Nat) (f : SliceSt → SliceSt) (r : Resp) :
    (s.setMembers slice f).reply r = { s with slices := ((s.setMembers slice f).reply r).slices, resp := some r } :=
  congrArg (State.reply · r) (State.setMembers_eq ..)

theorem answered_slice {s : State} (hlen : s.slices.length = 16) (slice : Nat) (f : SliceSt → SliceSt) (r : Resp) (n : Nat) :
    ((s.setMembers slice f).reply r).slice n = if n ∈ s.members slice then f (s.slice n) else s.slice n :=
  State.setMembers_slice hlen slice f n

section
variable {s : State} {slice : Nat} (hserves : s.serves slice = true) (hsome : (s.slice slice).spdm.sessions ≠ [])
include hserves hsome

theorem lock_refused (h : (s.slice slice).tdisp ≠ 0) : Replies (.lockInterfaceRequest slice) s (.error 4) :=
  (exec_lock hserves hsome).trans (congrArg _ (if_pos h))

theorem lock_unmet (h : (s.slice slice).tdisp = 0) (hunmet : (s.slice slice).clean = false ∨ (s.slice slice).meas7 ≠ some (s.index7 slice)) :
    Replies (.lockInterfaceRequest slice) s (.error 1) :=
  (exec_lock hserves hsome).trans (congrArg _ ((if_neg (not_not.mpr h)).trans (if_pos hunmet)))

theorem exec_lock_met (h : (s.slice slice).tdisp = 0) (hclean : (s.slice slice).clean = true)
    (hsigned : (s.slice slice).meas7 = some (s.index7 slice)) :
    exec (.lockInterfaceRequest slice) s = .next ((lockedGroup s slice).reply .ok) :=
  (exec_lock hserves hsome).trans (congrArg _ ((if_neg (not_not.mpr h)).trans (if_neg (by simp [hclean, hsigned]))))

theorem unlocked_refused (h : (s.slice slice).tdisp ≠ 1) :
    Replies (.startInterfaceRequest slice) s (.error 4) ∧ Replies (.getDeviceInterfaceReport slice) s (.error 4) :=
  ⟨(exec_start hserves hsome).trans (congrArg _ (if_pos h)), (exec_report hserves hsome).trans (congrArg _ (if_pos h))⟩

theorem exec_start_locked (h : (s.slice slice).tdisp = 1) :
    exec (.startInterfaceRequest slice) s = .next ((s.setMembers slice fun v => { v with tdisp := 2 }).reply .ok) :=
  (exec_start hserves hsome).trans (congrArg _ (if_neg (not_not.mpr h)))

theorem exec_report_locked (h : (s.slice slice).tdisp = 1) :
    exec (.getDeviceInterfaceReport slice) s = .next (s.reply (.bytes (Config.interfaceReport slice))) :=
  (exec_report hserves hsome).trans (congrArg _ (if_neg (not_not.mpr h)))

theorem stop_refused (h : (s.slice slice).tdisp = 0) : Replies (.stopInterfaceRequest slice) s (.error 4) :=
  (exec_stop hserves hsome).trans (congrArg _ (if_pos h))

theorem exec_stop_clean (h : (s.slice slice).tdisp ≠ 0) (hidle : (s.slice slice).clearing = false) (hclean : (s.slice slice).clean = true) :
    exec (.stopInterfaceRequest slice) s = .next ((s.setMembers slice fun v => { v with tdisp := 0 }).reply .ok) := by
  rw [exec_stop hserves hsome, if_neg h, hidle, hclean]
  rfl

theorem exec_stop_used (h : (s.slice slice).tdisp ≠ 0) (hidle : (s.slice slice).clearing = false) (hclean : (s.slice slice).clean = false) :
    exec (.stopInterfaceRequest slice) s = .next ((s.startClearing slice).setMembers slice fun v => { v with stopPending := true }) := by
  rw [exec_stop hserves hsome, if_neg h, hidle, hclean]
  rfl

end

/-! ### Slice-only resets (R445, R446) -/

theorem sliceOnlyReset_discarded {s : State} {slice : Nat} (h : s.present slice = false ∨ s.closed slice = true) :
    Idle (.sliceOnlyReset slice) s := by
  have hnot : (!s.present slice || s.closed slice) = true := by simpa using h
  exact if_pos hnot

/-- An interface leaves CONFIG_LOCKED and RUN for ERROR (R446). -/
def inError (v : SliceSt) : SliceSt := { v with tdisp := if v.tdisp = 1 ∨ v.tdisp = 2 then 3 else v.tdisp }

theorem exec_sliceOnlyReset {s : State} {slice : Nat} (hpresent : s.present slice = true) (hopen : s.closed slice = false)
    (hrole : s.role (s.leader slice) = 0) :
    exec (.sliceOnlyReset slice) s = .next ((s.startClearing slice).setMembers slice inError) := by
  show execSliceOnlyReset slice s = _
  simp only [execSliceOnlyReset, State.resetSlice, State.resetOne, hpresent, hopen, hrole]
  rfl

/-- A group that no migration concerns starts clearing, and its interface leaves CONFIG_LOCKED and RUN for ERROR. -/
theorem sliceOnlyReset_starts {s : State} {slice : Nat} (hlen : s.slices.length = 16) (hpresent : s.present slice = true)
    (hopen : s.closed slice = false) (hrole : s.role (s.leader slice) = 0) :
    ∃ u, exec (.sliceOnlyReset slice) s = .next u ∧ OnlySlices s u (· ∈ s.members slice)
      ∧ ∀ n ∈ s.members slice, u.slice n = { s.slice n with
          clearing := true, clean := false, tdisp := if (s.slice n).tdisp = 1 ∨ (s.slice n).tdisp = 2 then 3 else (s.slice n).tdisp } := by
  have hslice := State.setMembers_setMembers_slice hlen slice (f := fun v => { v with clearing := true, clean := false }) (fun _ => rfl) inError
  exact ⟨_, exec_sliceOnlyReset hpresent hopen hrole,
    ⟨State.setMembers_setMembers_eq .., fun n hn => (hslice n).trans (if_neg hn)⟩, fun n hn => (hslice n).trans (if_pos hn)⟩

/-! ### Group applies (R434 to R436; log entry 60) -/

/-- The slices whose group an apply changes. -/
def changedSlices (s : State) : List Nat := (List.range 16).filter s.groupChanges

/-- What SLC_GRPAPPLY holds while the slices of changed groups are cleared. -/
def applyReport (s : State) : Word :=
  .ofNat 32 ((if changedSlices s = [] then 0 else 2 ^ 30) + ((changedSlices s).map fun n => 2 ^ n).sum)

/-- Every present slice takes its new leader, and those whose group changes start clearing. -/
def regrouped (s : State) : State :=
  (s.setEach ((List.range 16).filter s.present) fun n v => { v with lead := (s.nextGroup (s.nextLead n) s.present).headD n }).setEach
    (changedSlices s) fun _ v => { v with clearing := true, clean := false }

/-- The model's walk over all slices changes the present ones. -/
theorem setLeads_eq (s : State) (g : Nat → Nat) :
    ((List.range 16).map fun n => (n, g n)).foldl (fun u p =>
        if ((List.range 16).filter s.present).contains p.1 then u.setSlice p.1 fun v => { v with lead := p.2 } else u) s
      = s.setEach ((List.range 16).filter s.present) fun n v => { v with lead := g n } := by
  have hcontains : (List.range 16).filter s.present = (List.range 16).filter fun n => ((List.range 16).filter s.present).contains n :=
    List.filter_congr (by simp +contextual)
  conv_rhs => rw [hcontains]
  rw [State.setEach, List.foldl_filter, List.foldl_map]

section
variable {s : State} (hvalid : s.valid = true) (hbusy : (s.reg 0 0x3F00).getLsbD 30 = false)
include hvalid hbusy

theorem exec_apply_refused (herr : s.applyError ≠ 0) :
    exec .sliceGroupApply s = .next (s.setReg 0 0x3F00 (.ofNat 32 (s.applyError * 2 ^ 16))) := by
  show execSliceGroupApply s = _
  have hidle : (s.reg 0 0x3F00).toNat.testBit 30 = false := hbusy
  unfold execSliceGroupApply
  simp only [hvalid, hidle]
  split
  · contradiction
  · rfl

theorem exec_apply_accepted (herr : s.applyError = 0) :
    exec .sliceGroupApply s = .next ((regrouped s).setReg 0 0x3F00 (applyReport s)) := by
  show execSliceGroupApply s = _
  have hidle : (s.reg 0 0x3F00).toNat.testBit 30 = false := hbusy
  simp only [execSliceGroupApply, hvalid, hidle, herr, setLeads_eq, List.isEmpty_iff]
  rfl

end

theorem regrouped_eq (s : State) : regrouped s = { s with slices := (regrouped s).slices } :=
  (State.setEach_eq ..).trans (congrArg (fun t : State => { t with slices := (regrouped s).slices }) (State.setEach_eq ..))

theorem regrouped_slice {s : State} (hlen : s.slices.length = 16) {n : Nat} (hn : n < 16) :
    (regrouped s).slice n = { s.slice n with
      lead := if s.present n then (s.nextGroup (s.nextLead n) s.present).headD n else (s.slice n).lead,
      clearing := (s.slice n).clearing || s.groupChanges n, clean := (s.slice n).clean && !s.groupChanges n } := by
  have hleads := State.setEach_slice_of_filter hlen s.present
    (fun n v => { v with lead := (s.nextGroup (s.nextLead n) s.present).headD n }) hn
  rw [regrouped, changedSlices, State.setEach_slice_of_filter ((State.setEach_length ..).trans hlen) _ _ hn, hleads]
  by_cases hp : s.present n <;> by_cases hc : s.groupChanges n <;> simp [hp, hc]

/-- An apply changes nothing but SLC_GRPAPPLY, which reports the error, or regroups the slices. -/
theorem groupApply {s : State} (hvalid : s.valid = true) (hbusy : (s.reg 0 0x3F00).getLsbD 30 = false) (hlen : s.slices.length = 16) :
    (s.applyError ≠ 0 → ∃ u, exec .sliceGroupApply s = .next u ∧ OnlyReg s u 0 0x3F00 ∧ u.reg 0 0x3F00 = .ofNat 32 (s.applyError * 2 ^ 16))
    ∧ (s.applyError = 0 → ∃ u, exec .sliceGroupApply s = .next u ∧ u = { s with slices := u.slices, regs := u.regs }
        ∧ (∀ n < 16, u.slice n = { s.slice n with
            lead := if s.present n then (s.nextGroup (s.nextLead n) s.present).headD n else (s.slice n).lead,
            clearing := (s.slice n).clearing || s.groupChanges n, clean := (s.slice n).clean && !s.groupChanges n })
        ∧ u.reg 0 0x3F00 = applyReport s) := by
  refine ⟨fun herr => ⟨_, exec_apply_refused hvalid hbusy herr, ⟨rfl, fun f o hne => ?_⟩, ?_⟩,
    fun herr => ⟨_, exec_apply_accepted hvalid hbusy herr, ?_, fun n hn => regrouped_slice hlen hn, ?_⟩⟩
  · rw [State.reg_setReg, if_neg hne]
  · rw [State.reg_setReg, if_pos rfl]
  · exact congrArg (fun t : State => { t with regs := ((regrouped s).setReg 0 0x3F00 (applyReport s)).regs }) (regrouped_eq s)
  · rw [State.reg_setReg, if_pos rfl]

end Sys2Proof.Claims
end

section
/-! SUPPORT. Beside the state: its outline, that is which slice leads each group and which launches stand where and have stopped. What the
banks, the copies, the call desks and the device's own writes do leaves it as it was (04, 06 R113 to R126, 12 R293 to R305). -/

namespace Sys2Proof.Machine

/-- Each slice's leader, and of each launch its number, its slice and whether it has been stopped. -/
def State.outline (s : State) : (Nat → Nat) × List (Nat × Nat × Bool) :=
  (s.leadOf, s.launches.map fun l => (l.num, l.slice, l.stopped))

theorem State.outline_leader {s u : State} (h : u.outline = s.outline) (n : Nat) : u.leader n = s.leader n :=
  congrFun (congrArg Prod.fst h) n

/-- A launch of the one state stands in the other with the same number, slice and stop mark. -/
theorem State.outline_launch {s u : State} (h : u.outline = s.outline) {l : Launch} (hl : l ∈ u.launches) :
    ∃ k ∈ s.launches, k.num = l.num ∧ k.slice = l.slice ∧ k.stopped = l.stopped := by
  have hmem : (l.num, l.slice, l.stopped) ∈ s.outline.2 := h ▸ List.mem_map_of_mem hl
  obtain ⟨k, hk, heq⟩ := List.mem_map.mp hmem
  simp only [Prod.mk.injEq] at heq
  exact ⟨k, hk, heq⟩

theorem State.outline_congr {s u : State} (hslices : u.slices = s.slices) (hlaunches : u.launches = s.launches) : u.outline = s.outline := by
  unfold State.outline State.leadOf State.slice
  rw [hslices, hlaunches]

theorem State.setSlice_outline (s : State) (n : Nat) {f : SliceSt → SliceSt} (hf : ∀ v, (f v).lead = v.lead) :
    (s.setSlice n f).outline = s.outline :=
  congrArg (·, s.launches.map fun l => (l.num, l.slice, l.stopped)) (s.leadOf_setSlice n hf)

theorem State.setLaunch_outline (s : State) (n : Nat) {f : Launch → Launch}
    (hf : ∀ l, (f l).num = l.num ∧ (f l).slice = l.slice ∧ (f l).stopped = l.stopped) : (s.setLaunch n f).outline = s.outline := by
  refine congrArg (s.leadOf, ·) ?_
  rw [State.setLaunch, updWhere, List.map_map]
  refine List.map_congr_left fun l _ => ?_
  obtain ⟨hnum, hslice, hstopped⟩ := hf l
  rw [Function.comp_apply]
  split_ifs
  · rw [hnum, hslice, hstopped]
  · rfl

theorem State.setVreg_outline (s : State) (slice off : Nat) (v : Word) : (s.setVreg slice off v).outline = s.outline := rfl

/-! ### Banks (R83 to R105) -/

theorem State.interrupt_outline (s : State) (slice source announced : Nat) : (s.interrupt slice source announced).outline = s.outline := by
  simp only [State.interrupt]
  split_ifs
  · rfl
  · rw [State.setVreg_outline, State.setSlice_outline]
    · exact State.outline_congr rfl rfl
    · exact fun _ => rfl
  · rfl
  · rfl
  · rfl

theorem State.dropLine_outline (s : State) (l : L2Line) : (s.dropLine l).outline = s.outline := by
  simp only [State.dropLine]
  split_ifs <;> rfl

theorem State.fillLine_outline (s : State) (l : L2Line) (mask fuel : Nat) : (s.fillLine l mask fuel).outline = s.outline := by
  induction fuel generalizing s with
  | zero => rfl
  | succ fuel ih =>
    simp only [State.fillLine]
    split
    · rfl
    · split
      · rw [ih, State.dropLine_outline]
      · rfl

theorem State.regrow_outline (s : State) (l l' : L2Line) : (s.regrow l l').outline = s.outline := by
  simp only [State.regrow]
  split_ifs
  · rfl
  · rfl
  · exact State.dropLine_outline ..
  · exact State.fillLine_outline ..

theorem State.setPoison_outline (s : State) (slice sector : Nat) : (s.setPoison slice sector).outline = s.outline := by
  unfold State.setPoison
  split
  · exact State.regrow_outline ..
  · rfl

theorem State.checkSector_outline (s : State) (sector : Nat) : (s.checkSector sector).outline = s.outline := by
  unfold State.checkSector
  split
  · rfl
  · simp only
    split
    · exact State.interrupt_outline ..
    · rfl

theorem State.checkBank_outline (s : State) (slice line : Nat) : (s.checkBank slice line).outline = s.outline := by
  unfold State.checkBank
  split
  · rfl
  · refine foldl_keeps State.outline (fun t n => ?_) ..
    split
    · rfl
    · split_ifs
      · exact State.setPoison_outline ..
      · rfl

theorem State.checkLine_outline (s : State) (slice line : Nat) : (s.checkLine slice line).outline = s.outline := by
  unfold State.checkLine
  split
  · exact State.checkBank_outline ..
  · split
    · rfl
    · exact foldl_keeps State.outline State.checkSector_outline ..

theorem State.claimHost_outline (s : State) (sl line : Nat) (write : Bool) : (s.claimHost sl line write).outline = s.outline := by
  unfold State.claimHost
  split
  · rfl
  · refine foldl_keeps State.outline (fun t l => ?_) ..
    split_ifs
    · exact State.dropLine_outline ..
    · exact State.dropLine_outline ..
    · rfl

theorem State.uncache_outline (s : State) (slice line : Nat) : (s.uncache slice line).outline = s.outline :=
  foldl_keeps State.outline State.dropLine_outline ..

theorem State.touchL2_outline (s : State) (slice pid line : Nat) (write : Bool) (bytes : List Byte) (dirty ev : Bool)
    (whole mark : List Nat) : (s.touchL2 slice pid line write bytes dirty ev whole mark).outline = s.outline := by
  have checked : ((s.claimHost (cacheSlice slice line) line write).checkLine slice line).fresh.2.outline = s.outline :=
    (State.checkLine_outline ..).trans (State.claimHost_outline ..)
  simp only [State.touchL2]
  split
  · rw [State.regrow_outline, checked]
  · split
    · rw [State.dropLine_outline, checked]
    · rw [State.fillLine_outline, checked]

theorem State.readL2_outline (s : State) (slice pid : Nat) (k : Phys) (device ev : Bool) :
    (s.readL2 slice pid k device ev).outline = s.outline := by
  simp only [State.readL2]
  split_ifs
  · rw [State.checkLine_outline, State.uncache_outline]
  · split
    · exact State.touchL2_outline ..
    · rfl
  · exact State.touchL2_outline ..

/-! ### Writes of the device (R84, R102, R449) -/

theorem State.putByte_outline (s : State) (k : Phys) (v : Byte) : (s.putByte k v).outline = s.outline := by
  unfold State.putByte
  split_ifs <;> rfl

theorem State.markPage_outline (s : State) (k : Phys) : (s.markPage k).outline = s.outline := by
  simp only [State.markPage]
  split
  · split
    · exact State.setSlice_outline _ _ fun _ => rfl
    · rfl
  · rfl

theorem State.storeCells_outline (s : State) (cells : List (Nat × Byte)) : (s.storeCells cells).outline = s.outline := by
  have hput : (cells.foldl (fun t c => t.putByte c.1 c.2) (s.keepOld (cells.filter fun c => Phys.isLocal c.1))).outline = s.outline :=
    foldl_keeps State.outline (fun t (c : Nat × Byte) => t.putByte_outline c.1 c.2) ..
  exact (foldl_keeps State.outline (fun t (c : Nat × Byte) => t.markPage_outline c.1) ..).trans hput

/-- The lines of a device's write leave the caches. -/
theorem State.claimLines_outline (s : State) (slice : Nat) (lines : List Nat) :
    (lines.foldl (fun t line => (t.claimHost slice line true).uncache slice line) s).outline = s.outline :=
  foldl_keeps State.outline (fun _ _ => (State.uncache_outline ..).trans (State.claimHost_outline ..)) ..

theorem State.storeChecked_outline (s : State) (slice : Nat) (lines : List Nat) (cells : List (Nat × Byte)) :
    ((lines.foldl (fun t line => t.checkLine slice line) s).storeCells cells).outline = s.outline :=
  (State.storeCells_outline ..).trans (foldl_keeps State.outline (fun t line => t.checkLine_outline slice line) ..)

theorem State.notePoison_outline (s : State) (sector : Nat) : (s.notePoison sector).outline = s.outline := rfl

theorem State.performWrite_outline (s : State) (slice pid : Nat) (cells : List (Nat × Byte)) (device ev : Bool) (marks : List Nat) :
    (s.performWrite slice pid cells device ev marks).outline = s.outline := by
  simp only [State.performWrite]
  split
  · rw [foldl_keeps State.outline State.notePoison_outline, State.storeChecked_outline, State.claimLines_outline]
  · refine (foldl_keeps State.outline (fun t line => ?_) ..).trans (State.storeChecked_outline ..)
    split_ifs
    · exact State.touchL2_outline ..
    · exact State.touchL2_outline ..
    · rfl

theorem State.giveUpPeer_outline (s : State) (slice line : Nat) : (s.giveUpPeer slice line).outline = s.outline :=
  foldl_keeps State.outline State.dropLine_outline ..

theorem State.choose_outline {α : Type} (s : State) (l : List α) : (s.choose l).2.outline = s.outline := by
  unfold State.choose
  split <;> rfl

theorem State.sample_outline (s : State) (field line root : Nat) (last : Bool) : (s.sample field line root last).outline = s.outline := rfl

theorem State.sampleCross_outline (s : State) (src : Option Nat) (lines : List Nat) : (s.sampleCross src lines).outline = s.outline := by
  refine foldl_keeps State.outline (fun t o => foldl_keeps State.outline (fun t c => ?_) ..) ..
  simp only
  split
  · rfl
  · split
    · rfl
    · split
      · split_ifs <;> rfl
      · split
        · rfl
        · split
          · exact (State.sample_outline ..).trans (State.choose_outline ..)
          · exact State.choose_outline ..

theorem State.deviceWrite_outline (s : State) (slice pid : Nat) (cells : List (Nat × Byte)) (src : Option Nat) (device : Bool)
    (marks : List Nat) : (s.deviceWrite slice pid cells src device marks).outline = s.outline := by
  refine (foldl_keeps State.outline (fun t n => ?_) ..).trans (State.sampleCross_outline ..)
  split_ifs
  · exact State.giveUpPeer_outline ..
  · exact State.performWrite_outline ..

/-! ### Tokens (R126, R391) -/

theorem State.readRoute_outline (s : State) (slice : Nat) (k : Phys) : (s.readRoute slice k).outline = s.outline := by
  simp only [State.readRoute]
  split_ifs
  · exact State.readL2_outline ..
  · rfl

theorem State.joinFault_outline (s : State) (slice asid page kind : Nat) (a : Access) (launch : Nat) (w : Waiter) :
    (s.joinFault slice asid page kind a launch w).2.outline = s.outline := by
  simp only [State.joinFault]
  split <;> rfl

theorem State.askPull_outline (s : State) (slice page : Nat) : (s.askPull slice page).outline = s.outline :=
  State.setSlice_outline _ _ fun v => by split_ifs <;> rfl

theorem State.clearHolders_outline {s t : State} {slice : Nat} {lines : List Nat} (h : s.clearHolders slice lines = some t) :
    t.outline = s.outline := by
  simp only [State.clearHolders] at h
  split at h
  · cases h
  · cases h
    refine foldl_keeps State.outline (fun t n => ?_) ..
    split_ifs <;> rfl

theorem State.stampTo_outline (s : State) (f g : Nat) : (s.stampTo f g).2.2.outline = s.outline := rfl
theorem State.mergeClock_outline (s : State) (f : Nat) (vc : List Nat) : (s.mergeClock f vc).outline = s.outline := rfl
theorem State.takeStamp_outline (s : State) (src dst seq : Nat) (stamp : List Nat) : (s.takeStamp src dst seq stamp).outline = s.outline := rfl

theorem State.crossNow_outline {s t : State} {f : Nat} {keys : List Phys} (h : s.crossNow f keys = some t) : t.outline = s.outline := by
  refine List.foldlRecOn (motive := fun acc : Option State => ∀ t, acc = some t → t.outline = s.outline) _ _ ?_ ?_ t h
  · rintro t ⟨⟩; rfl
  · intro acc hacc g _ u hu
    obtain ⟨v, hv, hstep⟩ := Option.bind_eq_some_iff.mp hu
    simp only at hstep
    split at hstep
    · cases hstep
    · cases hstep
      rw [State.mergeClock_outline, State.takeStamp_outline, State.stampTo_outline, hacc v hv]

/-- The state with which a token's write ends, or in which it waits. -/
def TokenEnd.state : TokenEnd → State
  | .done s => s
  | .wait s => s

theorem State.dropStores_outline (s : State) (slice n : Nat) : (s.dropStores slice n).outline = s.outline := rfl

theorem State.devicePull_outline (s : State) (slice asid page core launch va : Nat) (a : Access) (tag : List Nat) :
    (s.devicePull slice asid page core launch va a tag).outline = s.outline :=
  (State.askPull_outline ..).trans (State.joinFault_outline ..)

theorem State.metBy_outline (s : State) (slice : Nat) (k : Phys) (n : Nat) : (s.metBy slice k n).outline = s.outline :=
  foldl_keeps State.outline (fun t line => t.checkLine_outline slice line) ..

theorem State.writeToken_outline {s : State} {slice asid pid core launch va : Nat} {a : Access} {tag : List Nat} {failed : Bool}
    {since : Option Nat} {park : State → State} {bs : List Byte} {e : TokenEnd}
    (h : s.writeToken slice asid pid core launch va a tag failed since park bs = e) (hpark : ∀ t, (park t).outline = t.outline) :
    e.state.outline = s.outline := by
  subst h
  simp only [State.writeToken]
  split
  case isTrue => rfl
  case isFalse =>
    split
    case isTrue => rfl
    case isFalse =>
      split
      case h_1 => rfl
      case h_2 => rfl
      case h_3 => exact State.devicePull_outline ..
      case h_4 => exact State.joinFault_outline ..
      case h_5 =>
        split
        · exact hpark s
        · split <;> rfl
      case h_6 => rfl
      case h_7 k _ =>
        split
        · rw [TokenEnd.state, State.dropStores_outline, State.metBy_outline, State.readRoute_outline]
        · split
          next t ht => exact (State.clearHolders_outline ht).trans (State.readRoute_outline ..)
          next =>
            split
            next => exact State.readRoute_outline ..
            next t ht =>
              rw [TokenEnd.state, State.deviceWrite_outline, State.crossNow_outline ht, State.readRoute_outline]

/-! ### Copies that end (R113, R125, R126) -/

theorem State.fillEnd_outline (s : State) (g : Nat × Nat × Nat) : (s.fillEnd g).outline = s.outline := by
  simp only [State.fillEnd]
  split_ifs <;> rfl

theorem State.endCopy_outline (s : State) (c : Copy) (status : Nat) : (s.endCopy c status).outline = s.outline :=
  foldl_keeps State.outline State.fillEnd_outline ..

theorem State.markRest_outline (s : State) (c : Copy) (r : LaunchRec) (d : Desc5) : (s.markRest c r d).outline = s.outline :=
  foldl_keeps State.outline (f := fun (u : State) (a : ShelfAt) => u.shelfMark (a.key / 32) true) (fun _ _ => rfl) ..

theorem State.setCopy_outline (s : State) (id : Nat) (f : Copy → Copy) : (s.setCopy id f).outline = s.outline := rfl

theorem State.finishCopy_outline (s : State) (c : Copy) (r : LaunchRec) (status : Nat) : (s.finishCopy c r status).outline = s.outline := by
  have hmarked (p : Bool) (t : State) : (if p then t.markRest c r c.desc5 else t).outline = t.outline := by
    split
    · exact State.markRest_outline ..
    · rfl
  simp only [State.finishCopy]
  split
  · rfl
  · split
    · rw [State.endCopy_outline, hmarked, State.setCopy_outline]
    · split
      next t ht =>
        refine (State.writeToken_outline ht fun _ => rfl).trans ?_
        rw [State.setCopy_outline, foldl_keeps State.outline State.fillEnd_outline, hmarked, State.setCopy_outline]
      next t ht =>
        rw [State.endCopy_outline]
        refine (State.writeToken_outline ht fun _ => rfl).trans ?_
        rw [State.setCopy_outline, foldl_keeps State.outline State.fillEnd_outline, hmarked, State.setCopy_outline]

theorem State.endForced_outline (s : State) : s.endForced.outline = s.outline := by
  refine foldl_keeps State.outline (fun t c => ?_) ..
  split
  · exact State.finishCopy_outline ..
  · rfl

/-! ### Call desks and pending faults (R293, R305) -/

theorem State.unholdInputs_outline (s : State) (t : TaskRec) : (s.unholdInputs t).outline = s.outline := by
  unfold State.unholdInputs
  split
  · rfl
  · exact foldl_keeps State.outline (f := State.unholdGran) (fun _ _ => rfl) ..

theorem State.releaseSlot_outline (s : State) (q : SlotSt) : (s.releaseSlot q).outline = s.outline := by
  unfold State.releaseSlot
  split <;> rfl

theorem State.endTask_outline (s : State) (t : TaskRec) : (s.endTask t).outline = s.outline := rfl

theorem State.discardChains_outline (s : State) (core launch cohort : Nat) (of : Nat → Bool) :
    (s.discardChains core launch cohort of).outline = s.outline := by
  refine foldl_keeps State.outline (fun u t => ?_) ..
  simp only
  split
  · rw [State.endTask_outline, foldl_keeps State.outline State.fillEnd_outline]
    refine (foldl_keeps State.outline (fun v m => foldl_keeps State.outline (fun w j => ?_) ..) ..).trans (State.unholdInputs_outline ..)
    split <;> rfl
  · rw [State.endTask_outline, State.unholdInputs_outline]

theorem State.discardDesk_outline (s : State) (core launch cohort : Nat) : (s.discardDesk core launch cohort).outline = s.outline :=
  (foldl_keeps State.outline State.releaseSlot_outline ..).trans (State.discardChains_outline ..)

theorem State.deviceFault_outline (s : State) (w : Waiter) (cause : Nat) : (s.deviceFault w cause).outline = s.outline := by
  unfold State.deviceFault
  split
  · exact State.setLaunch_outline _ _ fun _ => ⟨rfl, rfl, rfl⟩
  · rfl
  · rfl
  · rfl
  · rfl
  · exact State.setLaunch_outline _ _ fun _ => ⟨rfl, rfl, rfl⟩
  · exact State.setLaunch_outline _ _ fun _ => ⟨rfl, rfl, rfl⟩
  · rfl

end Sys2Proof.Machine
end

section
/-! SUPPORT. Clearing of a slice group (16 R443 to R446; log entry 63). -/

namespace Sys2Proof.Machine

/-! ### Step 1: what runs ends -/

/-- The launches of some numbers are stopped. -/
def stopNums (ns : List Nat) (l : Launch) : Launch := if ns.contains l.num then { l with stopped := true, status := max l.status 6 } else l

theorem stopNums_of_mem {ns : List Nat} {l : Launch} (h : l.num ∈ ns) : (stopNums ns l).stopped = true := by
  rw [stopNums, if_pos (by simpa using h)]

theorem stopNums_slice (ns : List Nat) (l : Launch) : (stopNums ns l).slice = l.slice := by
  unfold stopNums
  split <;> rfl

/-- Where the launches of a slice group are numbered in one state and stopped in a later one of the same outline, they stay stopped as
long as the outline stays. -/
theorem State.launches_stopped {s t u v : State} {slice : Nat} (ht : t.outline = s.outline) (hslices : u.slices = t.slices)
    (hstop : u.launches = t.launches.map (stopNums ((s.launchesOf slice).map Launch.num))) (hv : v.outline = u.outline) :
    ∀ l ∈ v.launches, v.leader l.slice = slice → l.stopped = true := by
  intro l hl hmine
  obtain ⟨k, hk, -, hkslice, hkstopped⟩ := State.outline_launch hv hl
  obtain ⟨j, hj, rfl⟩ := List.mem_map.mp (hstop ▸ hk)
  obtain ⟨i, hi, hinum, hislice, -⟩ := State.outline_launch ht hj
  have hlead : u.leader l.slice = t.leader l.slice := congrArg SliceSt.lead (State.slice_congr hslices _)
  have hleader : s.leader i.slice = slice := by
    rw [hislice, ← stopNums_slice, hkslice, ← State.outline_leader ht, ← hlead, ← State.outline_leader hv, hmine]
  have hnum : j.num ∈ (s.launchesOf slice).map Launch.num :=
    hinum ▸ List.mem_map_of_mem (List.mem_filter.mpr ⟨hi, by simpa using hleader⟩)
  rw [← hkstopped, stopNums_of_mem hnum]

/-- The call desks of some launches' cohorts are discarded. -/
def State.withoutDesks (s : State) (ns : List Nat) : State :=
  (s.cohorts.filter fun k => ns.contains k.launch).foldl (fun t k => k.shares.foldl (fun u h => u.discardDesk h.core k.launch k.num) t) s

theorem State.withoutDesks_outline (s : State) (ns : List Nat) : (s.withoutDesks ns).outline = s.outline :=
  foldl_keeps State.outline (fun _ (k : Cohort) => foldl_keeps State.outline (fun u (h : Share) => u.discardDesk_outline h.core k.launch k.num) ..) ..

/-- What the device itself waits for at the pending page faults of some slices fails. -/
def State.deviceFailed (s : State) (mine : Nat → Bool) : State :=
  (s.pfaults.filter fun p => mine p.slice).foldl (fun t p =>
    (p.waiters.filter fun w => w.ctx.isNone && w.copy.isNone).foldl (fun u w => u.deviceFault w 0x04) t) s

theorem State.deviceFailed_outline (s : State) (mine : Nat → Bool) : (s.deviceFailed mine).outline = s.outline :=
  foldl_keeps State.outline (fun _ (_ : PFault) => foldl_keeps State.outline (fun u w => u.deviceFault_outline w 0x04) ..) ..

/-- Once its contexts have ended, clearing stops the launches of the group as they stand then; the rest keeps the outline. -/
theorem State.endSlice_outline (s : State) {slice : Nat} {r : State} (hr : (s.resetCtxs (s.ctxsOf slice) false).unfolio slice = r) :
    ∃ t u : State, t.outline = r.outline ∧ u.slices = t.slices ∧ u.launches = t.launches.map (stopNums ((r.launchesOf slice).map Launch.num))
      ∧ (s.endSlice slice).outline = u.outline := by
  unfold State.endSlice
  rw [hr]
  refine ⟨(r.withoutDesks ((r.launchesOf slice).map Launch.num)).deviceFailed fun n => s.leader n == slice, _, ?_, ?_, ?_,
    (State.endForced_outline _).trans (State.setSlice_outline _ _ fun _ => rfl)⟩
  · rw [State.deviceFailed_outline, State.withoutDesks_outline]
  · rfl
  · rfl

theorem State.endSlice_stops (s : State) (slice : Nat) :
    ∀ l ∈ (s.endSlice slice).launches, (s.endSlice slice).leader l.slice = slice → l.stopped = true := by
  obtain ⟨t, u, ht, hslices, hstop, hu⟩ := s.endSlice_outline (slice := slice) rfl
  exact State.launches_stopped ht hslices hstop hu

/-! ### Steps 3 to 6: what a slice group holds is wiped -/

theorem State.dropLine_slices (s : State) (l : L2Line) : (s.dropLine l).slices = s.slices := by
  simp only [State.dropLine]
  split_ifs <;> rfl

theorem State.dropLine_l2 (s : State) (l : L2Line) :
    (s.dropLine l).l2 = s.l2.filter fun m => !(m.slice == l.slice && m.line == l.line) := by
  simp only [State.dropLine]
  split_ifs <;> rfl

/-- Lines that have been dropped one after another are resident no more, and no line has come. -/
theorem State.mem_l2_of_dropLines {s : State} {ls : List L2Line} {l : L2Line} (h : l ∈ (ls.foldl (fun t m => t.dropLine m) s).l2) :
    l ∈ s.l2 ∧ l ∉ ls := by
  induction ls generalizing s with
  | nil => exact ⟨h, List.not_mem_nil⟩
  | cons m ls ih =>
    obtain ⟨hmem, hnot⟩ := ih h
    rw [State.dropLine_l2, List.mem_filter] at hmem
    obtain ⟨hl2, hkey⟩ := hmem
    refine ⟨hl2, fun h => ?_⟩
    rcases List.mem_cons.mp h with rfl | h
    · simp at hkey
    · exact hnot h

/-- A local line of a slice group. -/
def State.ownsLine (s : State) (slice line : Nat) : Bool := decide (line * 128 < 2 ^ 40) && (s.members slice).contains (line * 128 / 2 ^ 36)

section
variable (s : State) (slice : Nat)

theorem State.wipe_slices : (s.wipe slice).slices = s.slices := foldl_keeps State.slices State.dropLine_slices ..

theorem State.wipe_l2 : ∀ l ∈ (s.wipe slice).l2, l.slice ∉ s.members slice := by
  intro l hl hmine
  obtain ⟨hl2, hnot⟩ := State.mem_l2_of_dropLines hl
  exact hnot (List.mem_filter.mpr ⟨hl2, by simpa using hmine⟩)

theorem State.wipe_read (k : Nat) : (s.wipe slice).mem.read k = if k / 2 ^ 36 ∈ s.members slice then 0 else s.mem.read k := by
  have hmem : ((s.l2.filter fun l => (s.members slice).contains l.slice).foldl (fun t l => t.dropLine l) s).mem = s.mem :=
    foldl_keeps_mem State.dropLine_mem ..
  refine (Memory.read_filter _ (fun a => !(s.members slice).contains (a / 2 ^ 36)) k).trans ?_
  rw [hmem]
  by_cases hk : k / 2 ^ 36 ∈ s.members slice <;> simp only [hk, List.contains_eq_mem] <;> simp

theorem State.wipe_poison : ∀ n ∈ (s.wipe slice).poison, s.ownsLine slice (n / 4) = false :=
  fun _ hn => (Bool.not_eq_true' _).mp (List.mem_filter.mp hn).2

theorem State.wipe_ecc : ∀ e ∈ (s.wipe slice).ecc, s.ownsLine slice (e.1 / 4) = false :=
  fun _ he => (Bool.not_eq_true' _).mp (List.mem_filter.mp he).2

theorem State.wipe_window {k : Nat} (hk : k / 65536 ∈ s.members slice) : (s.wipe slice).window.read k = 0 :=
  (Memory.read_filter _ (fun a => !(s.members slice).contains (a / 65536)) k).trans (if_neg (by simpa using hk))

theorem State.wipe_l1 : ∀ l ∈ (s.wipe slice).l1, sliceOf l.core ∉ s.members slice :=
  fun _ hl => by simpa using (List.mem_filter.mp hl).2

theorem State.wipe_tlb : ∀ e ∈ (s.wipe slice).tlb, e.slice ∉ s.members slice :=
  fun _ he => by simpa using (List.mem_filter.mp he).2

end

/-- Local bytes of which neither a bank nor the home carries a mark are not poisoned. -/
theorem State.not_poisoned {s : State} {k : Nat} (hk : k < 2 ^ 40) (hl2 : ∀ l ∈ s.l2, l.slice ≠ k / 2 ^ 36)
    (hpoison : k / 32 ∉ s.poison) (hecc : ∀ e ∈ s.ecc, e.1 ≠ k / 32) : s.poisoned k 1 = false := by
  have hhost : lineHost (k / 32 / 4) = false := by
    have : ¬ 2 ^ 52 ≤ k / 32 / 4 * 128 := by omega
    simp only [lineHost, Phys.isHost, decide_eq_false this, Bool.false_and]
  have hcache : cacheSlice (k / 2 ^ 36) (k / 32 / 4) = k / 2 ^ 36 := by
    unfold cacheSlice
    split <;> omega
  have hline : s.servingLine? (k / 2 ^ 36) (k / 32 / 4) = none := by
    rw [State.servingLine?, hhost, State.l2Line?, hcache]
    exact List.find?_eq_none.mpr fun l hl => by rw [beq_false_of_ne (hl2 l hl)]; exact Bool.false_ne_true
  have hmarked : s.marked (k / 2 ^ 36) (k / 32) = false := by
    rw [State.marked, hline]
    simp only [State.homeMarked, Bool.or_eq_false_iff, List.contains_eq_mem, decide_eq_false_iff_not]
    exact ⟨hpoison, fun h => hecc _ h rfl⟩
  have hone : (k + 1 - 1) / 32 - k / 32 + 1 = 1 := by omega
  rw [State.poisoned, hone]
  exact (Bool.or_false _).trans hmarked

/-- A sector of a line that the group does not own is none of the group's bytes. -/
theorem State.not_ownsLine {s : State} {slice k n : Nat} (hk : k < 2 ^ 40) (hmine : k / 2 ^ 36 ∈ s.members slice)
    (h : s.ownsLine slice (n / 4) = false) : n ≠ k / 32 := by
  rintro rfl
  have hlocal : k / 32 / 4 * 128 < 2 ^ 40 := by omega
  have hstack : k / 32 / 4 * 128 / 2 ^ 36 = k / 2 ^ 36 := by omega
  rw [State.ownsLine, decide_eq_true hlocal, hstack, Bool.true_and, List.contains_eq_mem, decide_eq_false_iff_not] at h
  exact h hmine

theorem State.wipe_not_poisoned (s : State) {slice k : Nat} (hk : k < 2 ^ 40) (hmine : k / 2 ^ 36 ∈ s.members slice) :
    (s.wipe slice).poisoned k 1 = false :=
  State.not_poisoned hk (fun l hl h => s.wipe_l2 slice l hl (h ▸ hmine))
    (fun h => State.not_ownsLine hk hmine (s.wipe_poison slice _ h) rfl)
    fun e he => State.not_ownsLine hk hmine (s.wipe_ecc slice e he)

/-! ### Step 7: the slices are clean -/

/-- Some slices' VFs hold no register that does not read as after reset. -/
def State.vfsReset (s : State) (ns : List Nat) : State :=
  { s with regs := s.regs.filter fun r => r.1.1 = 0 || !ns.contains (r.1.1 - 1) }

theorem State.vfsReset_reg (s : State) {ns : List Nat} {n : Nat} (hn : n ∈ ns) (off : Nat) :
    (s.vfsReset ns).reg (n + 1) off = regReset (n + 1) off := by
  have hgone := find_filter_key (fun r : (Nat × Nat) × Word => r.1) (fun k => decide (k.1 = 0) || !ns.contains (k.1 - 1))
    s.regs (n + 1, off)
  rw [if_neg (by simp [hn])] at hgone
  rw [State.reg, State.vfsReset, hgone]

section
variable (s : State) (slice : Nat)

/-- The wipe is done: the members' VFs read as after reset, and a STOP that waits is answered. -/
def State.wiped : State :=
  let t := (s.wipe slice).vfsReset (s.members slice)
  if (t.slice slice).stopPending then t.reply .ok else t

/-- The members keep what a slice keeps through a clearing. -/
def State.membersCleared : State := (s.wiped slice).setEach (s.members slice) fun k v => v.cleared (k == slice)

theorem State.finishClearing_eq :
    s.finishClearing slice = let t := s.membersCleared slice
      if (List.range 16).any fun k => (t.reg 0 0x3F00).toNat.testBit k && (t.slice k).clearing then t
      else t.setReg 0 0x3F00 (setField (t.reg 0 0x3F00) 30 1 0) := rfl

/-- All that may follow is that SLC_GRPAPPLY is written (R436). -/
theorem State.finishClearing_cases :
    s.finishClearing slice = s.membersCleared slice ∨ ∃ v, s.finishClearing slice = (s.membersCleared slice).setReg 0 0x3F00 v := by
  rw [State.finishClearing_eq]
  simp only
  split
  · exact .inl rfl
  · exact .inr ⟨_, rfl⟩

/-- After the wipe only registers, answers and the slices' own records change. -/
theorem State.finishClearing_keeps {β : Type} (g : State → β)
    (hg : ∀ (t : State) rs r ss, g { t with regs := rs, resp := r, slices := ss } = g t) : g (s.finishClearing slice) = g (s.wipe slice) := by
  have hwiped : g (s.wiped slice) = g (s.wipe slice) := by
    simp only [State.wiped]
    split
    · exact hg (s.wipe slice) _ _ (s.wipe slice).slices
    · exact hg (s.wipe slice) _ (s.wipe slice).resp (s.wipe slice).slices
  have hcleared : g (s.membersCleared slice) = g (s.wipe slice) :=
    (foldl_keeps g (fun t k => hg t t.regs t.resp _) ..).trans hwiped
  rcases s.finishClearing_cases slice with h | ⟨v, h⟩ <;> rw [h]
  · exact hcleared
  · exact (hg (s.membersCleared slice) _ (s.membersCleared slice).resp (s.membersCleared slice).slices).trans hcleared

theorem State.finishClearing_slices : (s.finishClearing slice).slices = (s.membersCleared slice).slices := by
  rcases s.finishClearing_cases slice with h | ⟨v, h⟩ <;> rw [h]
  exact State.setReg_slices ..

theorem State.wiped_slices : (s.wiped slice).slices = s.slices := by
  simp only [State.wiped]
  split <;> exact s.wipe_slices slice

theorem State.finishClearing_slice (hlen : s.slices.length = 16) {n : Nat} (hn : n ∈ s.members slice) :
    (s.finishClearing slice).slice n = (s.slice n).cleared (n == slice) := by
  have hslices := s.wiped_slices slice
  rw [State.slice_congr (s.finishClearing_slices slice), State.membersCleared,
    State.setEach_slice _ _ (s.members_nodup slice) (hslices ▸ State.members_lt hlen slice), if_pos hn, State.slice_congr hslices]

theorem State.wiped_reg {n : Nat} (hn : n ∈ s.members slice) (off : Nat) : (s.wiped slice).reg (n + 1) off = regReset (n + 1) off := by
  simp only [State.wiped]
  split <;> exact State.vfsReset_reg _ hn off

theorem State.finishClearing_reg {n : Nat} (hn : n ∈ s.members slice) (off : Nat) :
    (s.finishClearing slice).reg (n + 1) off = regReset (n + 1) off := by
  have hcleared : (s.membersCleared slice).reg (n + 1) off = regReset (n + 1) off :=
    (foldl_keeps (f := fun (t : State) k => t.setSlice k fun v => v.cleared (k == slice)) (fun t => t.reg (n + 1) off)
      (fun _ _ => rfl) ..).trans (s.wiped_reg slice hn off)
  rcases s.finishClearing_cases slice with h | ⟨v, h⟩ <;> rw [h]
  · exact hcleared
  · rw [State.reg_setReg, if_neg (by simp), hcleared]

end

end Sys2Proof.Machine
end

section
/-! SUPPORT. Slices are grouped, reset and cleared, and their interfaces follow their states (16 R434 to R446). -/

namespace Sys2Proof.Claims

open Sys2Proof.Machine

/-! ### Clearing (R443) -/

theorem clearing_idle {s : State} {slice : Nat} (h : s.leader slice ≠ slice ∨ (s.slice slice).clearing = false) :
    Idle (.clearingSequence slice) s ∧ Idle (.clearingComplete slice) s := by
  have hnot : (s.leader slice != slice || !(s.slice slice).clearing) = true := by simpa using h
  exact ⟨if_pos hnot, if_pos (by rw [hnot, Bool.true_or])⟩

theorem clearingComplete_waits {s : State} {slice : Nat} (h : s.clearDrained slice = false) : Idle (.clearingComplete slice) s :=
  if_pos (by simp [h])

section
variable {s : State} {slice : Nat} (hlead : s.leader slice = slice) (hclearing : (s.slice slice).clearing = true)
include hlead hclearing

theorem exec_clearingSequence : exec (.clearingSequence slice) s = .next (s.endSlice slice) :=
  if_neg (by simp [hlead, hclearing])

theorem exec_clearingComplete (h : s.clearDrained slice = true) : exec (.clearingComplete slice) s = .next (s.finishClearing slice) :=
  if_neg (by simp [hlead, hclearing, h])

end

/-- What clearing leaves of the members' own records: CLEAN is 1, and their generation and key are new (R82, R443, R497). -/
theorem finishClearing_member {s : State} {slice n : Nat} (hlen : s.slices.length = 16) (hn : n ∈ s.members slice) :
    let u := s.finishClearing slice
    (u.slice n).clean = true ∧ (u.slice n).clearing = false ∧ (u.slice n).rstgen = ((s.slice n).rstgen + 1) % 65536
      ∧ (u.slice n).keyGen = (s.slice n).keyGen + 1 ∧ (u.slice n).pre = 0
      ∧ (u.slice n).tdisp = (if (s.slice n).stopPending then 0 else (s.slice n).tdisp)
      ∧ (u.slice n).spdm.sessions = [] ∧ (u.slice n).meas7 = none ∧ ∀ off, u.reg (n + 1) off = regReset (n + 1) off := by
  intro u
  rw [s.finishClearing_slice slice hlen hn]
  exact ⟨rfl, rfl, rfl, rfl, rfl, rfl, rfl, rfl, s.finishClearing_reg slice hn⟩

/-- What clearing leaves of memory, banks, the launch window and the caches (R106, R443). -/
theorem finishClearing_wipes (s : State) (slice : Nat) :
    let u := s.finishClearing slice
    (∀ k < 2 ^ 40, k / 2 ^ 36 ∈ s.members slice → u.mem.read k = 0 ∧ u.poisoned k 1 = false)
      ∧ (∀ k < 2 ^ 40, k / 2 ^ 36 ∉ s.members slice → u.mem.read k = s.mem.read k)
      ∧ (∀ k, k / 65536 ∈ s.members slice → u.window.read k = 0)
      ∧ (∀ l ∈ u.l1, sliceOf l.core ∉ s.members slice) ∧ ∀ e ∈ u.tlb, e.slice ∉ s.members slice := by
  have hread (k : Nat) : (s.finishClearing slice).mem.read k = (s.wipe slice).mem.read k :=
    s.finishClearing_keeps slice (fun t => t.mem.read k) fun _ _ _ _ => rfl
  have hpoisoned (k : Nat) : (s.finishClearing slice).poisoned k 1 = (s.wipe slice).poisoned k 1 :=
    s.finishClearing_keeps slice (fun t => t.poisoned k 1) fun _ _ _ _ => rfl
  have hwindow : (s.finishClearing slice).window = (s.wipe slice).window := s.finishClearing_keeps slice State.window fun _ _ _ _ => rfl
  have hl1 : (s.finishClearing slice).l1 = (s.wipe slice).l1 := s.finishClearing_keeps slice State.l1 fun _ _ _ _ => rfl
  have htlb : (s.finishClearing slice).tlb = (s.wipe slice).tlb := s.finishClearing_keeps slice State.tlb fun _ _ _ _ => rfl
  refine ⟨fun k hk hmine => ⟨?_, ?_⟩, fun k _ hother => ?_, fun k hk => ?_, ?_, ?_⟩
  · rw [hread, State.wipe_read, if_pos hmine]
  · rw [hpoisoned, s.wipe_not_poisoned hk hmine]
  · rw [hread, State.wipe_read, if_neg hother]
  · rw [hwindow, s.wipe_window slice hk]
  · rw [hl1]; exact s.wipe_l1 slice
  · rw [htlb]; exact s.wipe_tlb slice

/-! ### The statements together -/

/-- Settles O54: an apply reports its error (in the order of log entry 60) or regroups the slices; of the two events of a clearing (log
entry 63) the first stops what launches the group has, none of which starts again as its copies end, and the second wipes what the members
hold; and the requests to an interface answer state by state, with the codes of log entry 61. -/
theorem slicesAreGroupedResetAndCleared : Obligations.SlicesAreGroupedResetAndCleared := by
  refine ⟨fun s hvalid hbusy hlen => groupApply hvalid hbusy hlen,
    fun s slice hlen => ⟨sliceOnlyReset_discarded, sliceOnlyReset_starts hlen⟩,
    fun s slice => clearing_idle,
    fun s slice hlead hclearing => ⟨_, exec_clearingSequence hlead hclearing, s.endSlice_stops slice⟩,
    fun s slice hlead hclearing hlen _ => ⟨clearingComplete_waits, fun hdrained => ⟨_, exec_clearingComplete hlead hclearing hdrained,
      fun _ hn => finishClearing_member hlen hn, finishClearing_wipes s slice⟩⟩,
    interfaceRequests_unserved, fun s slice hserves hsome hlen => ?_⟩
  have hstopping := State.setMembers_setMembers_slice hlen slice (f := fun v => { v with clearing := true, clean := false }) (fun _ => rfl)
    fun v => { v with stopPending := true }
  exact ⟨lock_refused hserves hsome, lock_unmet hserves hsome,
    fun h hclean hsigned => ⟨_, exec_lock_met hserves hsome h hclean hsigned, lock_effect hlen (State.serves_lt hserves)⟩,
    unlocked_refused hserves hsome,
    fun h => ⟨⟨_, exec_start_locked hserves hsome h, answered_eq .., fun n hn => (answered_slice hlen slice _ _ n).trans (if_pos hn),
      fun n hn => (answered_slice hlen slice _ _ n).trans (if_neg hn)⟩, _, exec_report_locked hserves hsome h, rfl⟩,
    stop_refused hserves hsome,
    fun h hidle hclean => ⟨_, exec_stop_clean hserves hsome h hidle hclean, answered_eq ..,
      fun n hn => (answered_slice hlen slice _ _ n).trans (if_pos hn)⟩,
    fun h hidle hclean => ⟨_, exec_stop_used hserves hsome h hidle hclean, State.setMembers_setMembers_eq ..,
      fun n hn => (hstopping n).trans (if_pos hn)⟩⟩

end Sys2Proof.Claims
end
